-- ==== Sys2Proof/Word.lean ====
section
/-! DEFINITION. The word types of the machine (R5, R100) and the sparse maps that hold its tables. -/

namespace Sys2Proof

/-- A byte of memory (R5). -/
abbrev Byte := BitVec 8
/-- A lane of a vector register, a mask, an instruction word (R175, R37). -/
abbrev W32 := BitVec 32
/-- A scalar register (R8). -/
abbrev W64 := BitVec 64

/-- A sparse map from numbers to values: a list of (key, value) pairs with strictly rising keys and no
value equal to what an unlisted key reads as. -/
abbrev SMap (α : Type) := List (Nat × α)

end Sys2Proof
end

