-- ==== Sys2Proof/Machine/Cipher.lean ====
section
/-! DEFINITION. The cipher of pool and far payloads (R29, R372): AES-256 (FIPS 197) in XTS (IEEE 1619), on one 16-byte block of a data
unit. The rules name the standards; what these say is PRESUMED (log 52). -/

namespace Sys2Proof.Machine

/-! ## Bytes in GF(2^8) -/

/-- The substitution box, byte k at bits 8k, and its inverse. -/
def sboxTable : Nat :=
    0xc072a49cafa2d4adf04759fa7dc982ca76abd7fe2b670130c56f6bf27b777c63 +
    2 ^ 256 * 0x75b227ebe28012079a059618c323c7041531d871f1e5a534ccf73f362693fdb7 +
    2 ^ 512 * 0xcf584c4a39becb6a5bb1fc20ed00d153842fe329b3d63b52a05a6e1b1a2c8309 +
    2 ^ 768 * 0xd2f3ff1021dab6bcf5389d928f40a351a89f3c507f02f94585334d43fbaaefd0 +
    2 ^ 1024 * 0xdb0b5ede14b8ee4688902a22dc4f816073195d643d7ea7c41744975fec130ccd +
    2 ^ 1280 * 0x08ae7a65eaf4566ca94ed58d6d37c8e779e4959162acd3c25c2406490a3a32e0 +
    2 ^ 1536 * 0x9e1dc186b95735610ef6034866b53e708a8bbd4b1f74dde8c6b4a61c2e2578ba +
    2 ^ 1792 * 0x16bb54b00f2d99416842e6bf0d89a18cdf2855cee9871e9b948ed9691198f8e1
def sboxInvTable : Nat :=
    0xcbe9dec444438e3487ff2f9b8239e37cfbd7f3819ea340bf38a53630d56a0952 +
    2 ^ 256 * 0x25d18b6d49a25b76b224d92866a12e084ec3fa420b954cee3d23c2a632947b54 +
    2 ^ 512 * 0x849d8da75746155edab9edfd5048706c92b6655dcc5ca4d41698688664f6f872 +
    2 ^ 768 * 0x6b8a130103bdafc1020f3fca8f1e2cd00645b3b80558e4f70ad3bc8c00abd890 +
    2 ^ 1024 * 0x6edf751ce837f9e28535ade72274ac9673e6b4f0cecff297eadc674f4111913a +
    2 ^ 1280 * 0xf45acd78fec0db9a2079d2c64b3e56fc1bbe18aa0e62b76f89c5291d711af147 +
    2 ^ 1536 * 0xef9cc9939f7ae52d0d4ab519a97f51605fec8027591012b131c7078833a8dd1f +
    2 ^ 1792 * 0x7d0c2155631469e126d677ba7e042b17619953833cbbebc8b0f52aae4d3be0a0

/-- A byte of such a table. -/
def tableByte (t k : Nat) : Nat := Nat.shiftRight t (8 * k) % 256

/-- A byte times x, and times a number of four bits. -/
def gfDouble (a : Nat) : Nat := if a < 128 then 2 * a else Nat.xor (2 * a) 0x11B
def gfMul (a k : Nat) : Nat :=
  let a2 := gfDouble a
  let a4 := gfDouble a2
  let a8 := gfDouble a4
  Nat.xor (Nat.xor (a * (k % 2)) (a2 * (k / 2 % 2))) (Nat.xor (a4 * (k / 4 % 2)) (a8 * (k / 8 % 2)))

/-! ## AES-256 -/

/-- Lists of bytes added. -/
def xorBytes (xs ys : List Nat) : List Nat := List.zipWith Nat.xor xs ys

/-- A word of the key schedule after its substitution. -/
def subWord (w : List Nat) : List Nat := w.map (tableByte sboxTable)

/-- Words of four bytes, each added to the one before it. -/
def chainWords (t : List Nat) : List (List Nat) → List (List Nat)
  | [] => []
  | w :: ws => let x := xorBytes w t; x :: chainWords x ws

/-- The eight words of the key schedule after eight of them, with a round constant. -/
def nextWords (rcon : Nat) (ws : List (List Nat)) : List (List Nat) :=
  let last := ws.getLastD []
  let head := chainWords (xorBytes (subWord (last.drop 1 ++ last.take 1)) [rcon, 0, 0, 0]) (ws.take 4)
  head ++ chainWords (subWord (head.getLastD [])) (ws.drop 4)

/-- The words of the schedule, eight at a time. -/
def scheduleFrom : Nat → Nat → List (List Nat) → List (List Nat)
  | 0, _, ws => ws
  | n + 1, rcon, ws => ws ++ scheduleFrom n (gfDouble rcon) (nextWords rcon ws)

/-- The 15 round keys of a key of 32 bytes. -/
def roundKeys (key : List Nat) : List (List Nat) :=
  let ws := scheduleFrom 7 1 ((List.range 8).map fun i => (key.drop (4 * i)).take 4)
  (List.range 15).map fun r => ((ws.drop (4 * r)).take 4).flatten

/-- The bytes of a state moved: byte i comes from place f i. -/
def pickBytes (f : Nat → Nat) (x : List Nat) : List Nat := (List.range 16).map fun i => x[f i]?.getD 0

/-- The rows of a state shifted, and back. -/
def shiftRows : List Nat → List Nat := pickBytes fun i => (i + 4 * (i % 4)) % 16
def shiftRowsBack : List Nat → List Nat := pickBytes fun i => (i + 12 * (i % 4)) % 16

/-- The columns of a state mixed with the four coefficients of a row. -/
def mixColumns (c0 c1 c2 c3 : Nat) (x : List Nat) : List Nat :=
  (List.range 16).map fun i =>
    let a := fun k => x[i / 4 * 4 + (i + k) % 4]?.getD 0
    Nat.xor (Nat.xor (gfMul (a 0) c0) (gfMul (a 1) c1)) (Nat.xor (gfMul (a 2) c2) (gfMul (a 3) c3))

/-- The rounds of the cipher after the first key: the last one mixes no columns. -/
def cipherRounds : List (List Nat) → List Nat → List Nat
  | [], x => x
  | [k], x => xorBytes (shiftRows (x.map (tableByte sboxTable))) k
  | k :: ks, x => cipherRounds ks (xorBytes (mixColumns 2 3 1 1 (shiftRows (x.map (tableByte sboxTable)))) k)

/-- The rounds of the inverse cipher before its last key, and with it. -/
def decipherRounds : List (List Nat) → List Nat → List Nat
  | [], x => x
  | [k], x => xorBytes ((shiftRowsBack x).map (tableByte sboxInvTable)) k
  | k :: ks, x => decipherRounds ks (mixColumns 14 11 13 9 (xorBytes ((shiftRowsBack x).map (tableByte sboxInvTable)) k))

/-- A block of 16 bytes enciphered and deciphered under a key of 32 bytes. -/
def aesEnc (key block : List Nat) : List Nat :=
  match roundKeys key with
  | k :: ks => cipherRounds ks (xorBytes block k)
  | [] => block
def aesDec (key block : List Nat) : List Nat :=
  match (roundKeys key).reverse with
  | k :: ks => decipherRounds ks (xorBytes block k)
  | [] => block

/-! ## XTS -/

/-- The 32 bytes of a key pair's data key, and of its tweak key: bytes 0 to 31 and 32 to 63 of the pair. -/
def keyBytes (k : BitVec 512) (off : Nat) : List Nat := (List.range 32).map fun i => Nat.shiftRight k.toNat (8 * (off + i)) % 256

/-- A tweak, as a number of 128 bits, times the primitive element. -/
def tweakDouble (t : Nat) : Nat := if t < 2 ^ 127 then 2 * t else Nat.xor (2 * t % 2 ^ 128) 0x87
def tweakTimes : Nat → Nat → Nat
  | 0, t => t
  | n + 1, t => tweakTimes n (tweakDouble t)

def blockBytesOf (x : Nat) : List Nat := (List.range 16).map fun i => x / 2 ^ (8 * i) % 256
def numOfBytes (bs : List Nat) : Nat := bs.foldr (fun b acc => b + 256 * acc) 0

/-- The tweak of 16-byte word n of physical memory: its 64-byte data unit is number n / 4, and the word is block n % 4 of it. -/
def tweakOf (k : BitVec 512) (n : Nat) : List Nat :=
  blockBytesOf (tweakTimes (n % 4) (numOfBytes (aesEnc (keyBytes k 32) (blockBytesOf (n / 4)))))

/-- Word n of physical memory enciphered and deciphered under a key pair. -/
def xtsEnc (k : BitVec 512) (n : Nat) (bs : List Byte) : List Byte :=
  (xorBytes (aesEnc (keyBytes k 0) (xorBytes (bs.map BitVec.toNat) (tweakOf k n))) (tweakOf k n)).map (BitVec.ofNat 8)
def xtsDec (k : BitVec 512) (n : Nat) (bs : List Byte) : List Byte :=
  (xorBytes (aesDec (keyBytes k 0) (xorBytes (bs.map BitVec.toNat) (tweakOf k n))) (tweakOf k n)).map (BitVec.ofNat 8)

end Sys2Proof.Machine
end

