-- ==== Sys2Proof/Config.lean ====
section
/-! DEFINITION. What is fixed for the module: its causes (R382), its sizes (R4) and the values that the
manual leaves open, which no proof can see. -/

namespace Sys2Proof

/-- The cause codes of R382. -/
inductive Cause where
  | none | illegalOpcode | illegalLength | reservedField | fetchCrossing | fetchMisaligned | fetchPageFault | fetchPerm
  | retiredOp | handlerOnly | readonlyReg | ctlAccess | softTrap | breakpoint | singleStep | watchpoint
  | bindCycle | boundWrite | linkOverflow | linkOperand | linkStream | streamDeadlock | queueDirection | queueAtPpt
  | pageFaultRead | pageFaultWrite | permRead | permWrite | misaligned | notHolder | localNotHolder | commonPlainStore
  | frameWindow | sealedWrite | holdingInvalid | handInvalid | windowStore | windowConfig | aliasPartial | keyInvalid
  | contextTail | nearRange | atomicClass | nondetOp | replayFailed | farUnreachable | poolError | addressRange
  | spawnOverflow | queueFull | queueInvalid | joinUnderflow | badCodePointer | placementInvalid | launchNoObject | launchInvalid
  | frameArena | tailInvalid | accAnchor | accRange | formatMismatch | mcmdReject | mcmdTarget | planeRecord
  | sparseIndex | weightBank | tileGroup | seqRecord | copyFailed | recordInvalid | recordIndex | tokenError
  | multicastGroup | convertInvalid | haloShort | ruleTable | tileDescriptor | ruleIndexWidth | fpInvalid | fpDivzero
  | fpOverflow | fpUnderflow | fpInexact | preempt | watchdog | gangStop | debugHalt | saveAbandoned
  | sramUncorrectable | accUncorrectable | regfileUncorrectable | spanLinkDown | poolLinkDown | containment | firmwareError
  | thermalTrip | machineCheck | contextKilled
  deriving DecidableEq, Repr

namespace Config

/-- The value at counter position `n` of a choice that the manual leaves open (log 6). It has no value that a
proof can see. -/
opaque freeValue : Nat → BitVec 64

/-- The CXL port that a pool physical address is interleaved on, given the live ports (R28, log 9). -/
opaque poolPort : List Nat → Nat → Nat

/-- The node that a far physical address reaches, and the span port its traffic leaves through, given the
live ports (R26, R27, log 9). -/
opaque farNode : Nat → Nat
opaque spanPort : List Nat → Nat → Nat

/-- The signature that firmware makes over an attestation report (R373, log 10). -/
opaque attestSignature : List Nat → List Nat

/-- The key that firmware unwraps from a wrapped key, if it unwraps (R373, log 10). -/
opaque unwrapKey : List Nat → Option (BitVec 512)

/-- Whether the firmware that stands in a module's flash bears a good signature (R33, log 10). -/
opaque firmwareSigned : Bool

/-- The firmware measurement (R33, log 10). -/
opaque firmwareMeasure : List Nat

/-- The number of the running firmware, which a FIRMWARE_MIN note is compared with (R85, log 10). -/
opaque firmwareVersion : Nat

end Config

end Sys2Proof
end

