-- ==== Sys2Proof/Syntax.lean ====
section
/-! DEFINITION. The abstract syntax: one constructor for every row of the opcode table. The instruction rows carry
the fields of their format (R42 to R50), the other rows the identity of what the step acts on. -/

namespace Sys2Proof

/-- The fields of format R (R42, R43). -/
structure RArgs where
  d : Nat
  a : Nat
  b : Nat
  c : Nat
  msk : Nat
  ty : Nat
  rm : Nat
  x16 : Nat
  deriving DecidableEq, Repr

/-- The fields of format I (R44): `b` is the MOD6 field, TY in its bits 2:0 and the flags in bits 5:3. -/
structure IArgs where
  d : Nat
  a : Nat
  b : Nat
  imm : Nat
  deriving DecidableEq, Repr

/-- The fields of format M (R45). -/
structure MArgs where
  d : Nat
  a : Nat
  b : Nat
  sc : Nat
  sz : Nat
  ord : Nat
  scope : Nat
  q : Nat
  off : Nat
  deriving DecidableEq, Repr

/-- The fields of format J (R46). -/
structure JArgs where
  d : Nat
  a : Nat
  b : Nat
  off : Nat
  deriving DecidableEq, Repr

/-- Format R with EXT32 (R49). -/
structure XArgs where
  r : RArgs
  ext : Nat
  deriving DecidableEq, Repr

/-- Format I with EXT32 (R49, LI64). -/
structure LArgs where
  i : IArgs
  ext : Nat
  deriving DecidableEq, Repr

/-- Format R with CMD64 (R50). -/
structure CArgs where
  r : RArgs
  cmd : Nat
  deriving DecidableEq, Repr

/-- A hint of any map and length (R54): the whole instruction, of which only the length has a meaning. -/
structure HArgs where
  len : Nat
  st : Nat
  op : Nat
  fn : Nat
  r : RArgs
  ext : Nat
  deriving DecidableEq, Repr

/-- A hardware thread, named by context, virtual core and thread number. -/
structure Tid where
  ctx : Nat
  vc : Nat
  th : Nat
  deriving DecidableEq, Repr

/-- What an access does to its bytes (R141 step 6, R276). -/
inductive AccKind where
  | read | write | atomic | fetch
  deriving DecidableEq, Repr

/-- The parameters of a context creation request (R354, R387, R96): `spills` are the addresses of the cores' spill areas (R328), `regs` the
values that the runtime gives per-context control registers, by their indices (R34). -/
structure CtxParams where
  id : Nat
  nmax : Nat
  hosts : List Nat
  root : Nat
  savebase : Nat
  phys : List Nat
  keys : List Nat
  stub : Nat
  spills : List Nat
  regs : List (Nat × W64)
  deriving DecidableEq, Repr

/-- A holding table entry as the runtime gives it (R367). -/
structure HoldingReq where
  base : Nat
  lsize : Nat
  cls : Nat
  holder : Nat
  deriving DecidableEq, Repr

/-- A debug access request of a halted context (R375, R391). -/
inductive DebugReq where
  | readS (v t n : Nat) | writeS (v t n : Nat) (x : W64)
  | readV (v t n lane : Nat) | writeV (v t n lane : Nat) (x : W32)
  | readM (v t n : Nat) | writeM (v t n : Nat) (x : W32)
  | writePos (v t : Nat) (apc : W64) | writeEPos (v t : Nat) (epos : W64)
  | readNear (v a : Nat) | writeNear (v a : Nat) (x : Byte)
  | readAcc (v row col : Nat) | writeAcc (v row col : Nat) (x : BitVec 192)
  | readTable (v k : Nat) | writeTable (v k : Nat) (x : Byte)
  | readCtl (v t n : Nat) | writeCtl (v t n : Nat) (x : W64)
  | readPos (v t : Nat) (estream : Bool)
  | readToken (v t k : Nat) | writeToken (v t k count : Nat) (err : Bool) (cause addr : Nat)
  | readQueue (v t q i lane : Nat) | readQueueMask (v t q i : Nat) | writeQueue (v t q i : Nat) (lanes : List W32) (mask : W32)
  | popQueue (v t q : Nat)
  | readLink (v t n : Nat) | writeLink (v t n : Nat) (x : W64)
  | readRow (v row : Nat) | writeRow (v row : Nat) (e : BitVec 10) (pair anchor : Bool)
  | readRowFlags (v row kind : Nat) | writeRowFlags (v row kind : Nat) (x : BitVec 128)
  | readLog (v kind i : Nat)
  | readWindow (n k : Nat) | writeWindow (n k x : Nat)
  | readHolding (n : Nat) | writeHolding (n : Nat) (x : Option HoldingReq)
  | readBank (v bank n b i : Nat) | writeBank (v bank n b i : Nat) (x : Int)
  | readLane (v t lane k : Nat) | writeLane (v t lane k : Nat) (x : W64)
  | singleStep (v t : Nat) (on : Bool)
  | watchpoint (n base lsize : Nat) (rd wr : Bool)
  | writeCode (va : Nat) (word : W32)
  deriving DecidableEq, Repr

/-- A hardware error and where it is (R392, R393, R396): the thread `t` is the one that finds it, `core` in `acc` the virtual core whose
accumulators it is in. -/
inductive HwError where
  | sram (pa : Nat)
  | acc (t : Tid) (core row col : Nat)
  | regfile (t : Tid) (vector : Bool)
  | machineCheck (t : Tid)
  | corrected (core addr : Nat)
  | correctedAcc (core row col : Nat)
  | correctedReg (t : Tid) (vector : Bool)
  | firmware (ctx code : Nat)
  deriving DecidableEq, Repr

/-- A partition as a configuration request gives it: 2^k dies from die m * 2^k, and its feature mask (R353, R87). -/
structure PartReq where
  k : Nat
  m : Nat
  features : Nat
  deriving DecidableEq, Repr

/-- An access of a host node or another module to a physical address (R27, R30). -/
inductive HostAcc where
  | read (pa n : Nat)
  | write (pa : Nat) (bytes : List Byte)
  | atomicAdd (pa : Nat) (x : W64)
  deriving DecidableEq, Repr

/-- What a step of the table that is no instruction acts on: the thread, numbers, lists and records that it takes from
outside the core. Each such constructor's docstring says which of them it reads. -/
structure Req where
  t : Tid
  n : Nat
  m : Nat
  k : Nat
  flag : Bool
  kind : AccKind
  l1 : List Nat
  l2 : List Nat
  params : CtxParams
  holding : Option HoldingReq
  dbg : DebugReq
  err : HwError
  acc : HostAcc
  parts : List PartReq
  deriving DecidableEq, Repr

/-- The rows of the opcode table. -/
inductive Instr where
  /-- IALU_ADD (R130). sD := sA + sB, wrapped at width w and sign-extended. -/
  | ialuAdd (r : RArgs)
  /-- IALU_SUB (R130). sD := sA - sB, wrapped at width w. -/
  | ialuSub (r : RArgs)
  /-- IALU_AND (R130). sD := sA AND sB. -/
  | ialuAnd (r : RArgs)
  /-- IALU_OR (R130). sD := sA OR sB. -/
  | ialuOr (r : RArgs)
  /-- IALU_XOR (R130). sD := sA XOR sB. -/
  | ialuXor (r : RArgs)
  /-- IALU_ANDN (R130). sD := sA AND NOT sB. -/
  | ialuAndn (r : RArgs)
  /-- IALU_SHL (R130). Shifts sA left by sB mod w. -/
  | ialuShl (r : RArgs)
  /-- IALU_SHR (R130). Shifts sA right logically by sB mod w. -/
  | ialuShr (r : RArgs)
  /-- IALU_SAR (R130). Shifts sA right arithmetically by sB mod w. -/
  | ialuSar (r : RArgs)
  /-- IALU_ROTL (R130). Rotates sA left by sB mod w within w bits. -/
  | ialuRotl (r : RArgs)
  /-- IALU_MIN (R130). Writes the signed minimum of sA and sB. -/
  | ialuMin (r : RArgs)
  /-- IALU_MAX (R130). Writes the signed maximum of sA and sB. -/
  | ialuMax (r : RArgs)
  /-- IALU_MINN (R130). Writes the unsigned minimum of sA and sB. -/
  | ialuMinn (r : RArgs)
  /-- IALU_MAXN (R130). Writes the unsigned maximum of sA and sB. -/
  | ialuMaxn (r : RArgs)
  /-- IALU_ADDSAT (R130). Writes the signed saturating sum of sA and sB. -/
  | ialuAddsat (r : RArgs)
  /-- IALU_SUBSAT (R130). Writes the signed saturating difference of sA and sB. -/
  | ialuSubsat (r : RArgs)
  /-- IALUI_ADD (R130). sD := sA + sign-extended IMM32. -/
  | ialuiAdd (i : IArgs)
  /-- IALUI_SUB (R130). sD := sA - sign-extended IMM32. -/
  | ialuiSub (i : IArgs)
  /-- IALUI_AND (R130). sD := sA AND sign-extended IMM32. -/
  | ialuiAnd (i : IArgs)
  /-- IALUI_OR (R130). sD := sA OR sign-extended IMM32. -/
  | ialuiOr (i : IArgs)
  /-- IALUI_XOR (R130). sD := sA XOR sign-extended IMM32. -/
  | ialuiXor (i : IArgs)
  /-- IALUI_ANDN (R130). sD := sA AND NOT sign-extended IMM32. -/
  | ialuiAndn (i : IArgs)
  /-- IALUI_SHL (R130). Shifts sA left by the immediate mod w. -/
  | ialuiShl (i : IArgs)
  /-- IALUI_SHR (R130). Shifts sA right logically by the immediate mod w. -/
  | ialuiShr (i : IArgs)
  /-- IALUI_SAR (R130). Shifts sA right arithmetically by the immediate mod w. -/
  | ialuiSar (i : IArgs)
  /-- IALUI_ROTL (R130). Rotates sA left by the immediate mod w. -/
  | ialuiRotl (i : IArgs)
  /-- IALUI_MIN (R130). Writes the signed minimum of sA and the immediate. -/
  | ialuiMin (i : IArgs)
  /-- IALUI_MAX (R130). Writes the signed maximum of sA and the immediate. -/
  | ialuiMax (i : IArgs)
  /-- IALUI_MINN (R130). Writes the unsigned minimum of sA and the immediate. -/
  | ialuiMinn (i : IArgs)
  /-- IALUI_MAXN (R130). Writes the unsigned maximum of sA and the immediate. -/
  | ialuiMaxn (i : IArgs)
  /-- IALUI_ADDSAT (R130). Writes the saturating sum of sA and the immediate. -/
  | ialuiAddsat (i : IArgs)
  /-- IALUI_SUBSAT (R130). Writes the saturating difference of sA and the immediate. -/
  | ialuiSubsat (i : IArgs)
  /-- IMUL_MUL (R131). Writes the low w bits of sA * sB. -/
  | imulMul (r : RArgs)
  /-- IMUL_MULHS (R131). Writes the high half of the signed product. -/
  | imulMulhs (r : RArgs)
  /-- IMUL_MULHN (R131). Writes the high half of the unsigned product. -/
  | imulMulhn (r : RArgs)
  /-- IMUL_MADD (R131). sD := sA * sB + sC, wrapped. -/
  | imulMadd (r : RArgs)
  /-- IMUL_MSUB (R131). sD := sC - sA * sB, wrapped. -/
  | imulMsub (r : RArgs)
  /-- IMUL_DIVS (R131). Signed quotient toward zero, with the defined results of R101. -/
  | imulDivs (r : RArgs)
  /-- IMUL_DIVN (R131). Unsigned quotient, with the defined results of R101. -/
  | imulDivn (r : RArgs)
  /-- IMUL_REMS (R131). Signed remainder under R101. -/
  | imulRems (r : RArgs)
  /-- IMUL_REMN (R131). Unsigned remainder under R101. -/
  | imulRemn (r : RArgs)
  /-- ICMP (R132). Compares sA with sB under FN and writes 1 or 0. -/
  | icmp (fn : Nat) (r : RArgs)
  /-- ICMPI (R132). Compares sA with the sign-extended immediate under FN and writes 1 or 0. -/
  | icmpi (fn : Nat) (i : IArgs)
  /-- BITS_CLZ (R134). Counts the leading zero bits of sA. -/
  | bitsClz (r : RArgs)
  /-- BITS_CTZ (R134). Counts the trailing zero bits of sA. -/
  | bitsCtz (r : RArgs)
  /-- BITS_POPC (R134). Counts the one bits of sA. -/
  | bitsPopc (r : RArgs)
  /-- BITS_BREV (R134). Reverses the bit order of sA. -/
  | bitsBrev (r : RArgs)
  /-- BITS_BSWAP (R134). Reverses the byte order of sA. -/
  | bitsBswap (r : RArgs)
  /-- BITS_SEXT (R134). Sign-extends the low LEN bits of sA. -/
  | bitsSext (r : RArgs)
  /-- BITS_ZEXT (R134). Zero-extends the low LEN bits of sA. -/
  | bitsZext (r : RArgs)
  /-- BITS_BFX (R134). Extracts the field at POS of length LEN from sA. -/
  | bitsBfx (r : RArgs)
  /-- BITS_BFI (R134). Inserts the low LEN bits of sB into sA at POS. -/
  | bitsBfi (r : RArgs)
  /-- SEL (R135). sD := sA if sC is nonzero, else sB. -/
  | sel (r : RArgs)
  /-- LI_LI (R136). Loads the sign-extended IMM32 into sD. -/
  | liLi (i : IArgs)
  /-- LI_LIH (R136). sD := IMM32 * 2^32 plus the low half of sA. -/
  | liLih (i : IArgs)
  /-- LI_ADDPC (R136). sD := PC plus the sign-extended IMM32. -/
  | liAddpc (i : IArgs)
  /-- LI64 (R136). Loads a 64-bit immediate from IMM32 and EXT32. -/
  | li64 (l : LArgs)
  /-- LANE_LIVE (R137). Returns the live lane count of the firing. -/
  | laneLive (r : RArgs)
  /-- LANE_LFRAME (R137). Returns the frame address of lane L, or 0 if that lane is not live. -/
  | laneLframe (r : RArgs)
  /-- LANE_LKEY (R137). Returns the path key of lane L, or 0 if that lane is not live. -/
  | laneLkey (r : RArgs)
  /-- LANE_LMASK (R137). Returns m0 zero-extended. -/
  | laneLmask (r : RArgs)
  /-- LANE_VCORE (R137). Returns ctl.vcore. -/
  | laneVcore (r : RArgs)
  /-- LANE_THREAD (R137). Returns ctl.thread. -/
  | laneThread (r : RArgs)
  /-- BR (R138). Compares sA and sB under FN and branches PC-relative when the condition holds. -/
  | br (fn : Nat) (j : JArgs)
  /-- JMP_JMP (R139). Jumps PC-relative. -/
  | jmpJmp (j : JArgs)
  /-- JMP_CALL (R139). Calls PC-relative and links PC + 8 in sD. -/
  | jmpCall (j : JArgs)
  /-- JMP_JMPR (R139). Jumps to the address in sA. -/
  | jmpJmpr (j : JArgs)
  /-- JMP_CALLR (R139). Calls the address in sA and links PC + 8. -/
  | jmpCallr (j : JArgs)
  /-- JMP_CALLL (R139). Reads a linkage entry with a device-scope acquire and calls the target it holds. -/
  | jmpCalll (j : JArgs)
  /-- JMP_RET (R139). Returns to the address in sA. -/
  | jmpRet (j : JArgs)
  /-- LD (R143). Loads and extends a 1-, 2-, 4- or 8-byte element into sD, with optional acquire. -/
  | ld (fn : Nat) (m : MArgs)
  /-- ST (R144). Stores the low bits of sD, with optional release; a store that meets a missing translation parks. -/
  | st (fn : Nat) (m : MArgs)
  /-- VLQ (R147). Loads 32 strided elements and pushes them as one entry to q0–q3. -/
  | vlq (fn : Nat) (m : MArgs)
  /-- VSQ (R148). Pops an entry from q4–q7 and stores its active lanes with a stride. -/
  | vsq (fn : Nat) (m : MArgs)
  /-- GATHQ (R149). Gathers through indices popped from a queue and pushes the result. -/
  | gathq (fn : Nat) (m : MArgs)
  /-- SCATQ (R150). Scatters popped data through popped indices. -/
  | scatq (fn : Nat) (m : MArgs)
  /-- ATOMQ_ADD (R279). Queue-driven non-fetching 32-bit atomic add, one update per word. -/
  | atomqAdd (m : MArgs)
  /-- ATOMQ_AND (R279). Queue-driven atomic AND. -/
  | atomqAnd (m : MArgs)
  /-- ATOMQ_OR (R279). Queue-driven atomic OR. -/
  | atomqOr (m : MArgs)
  /-- ATOMQ_XOR (R279). Queue-driven atomic XOR. -/
  | atomqXor (m : MArgs)
  /-- ATOMQ_MIN (R279). Queue-driven atomic signed minimum. -/
  | atomqMin (m : MArgs)
  /-- ATOMQ_MAX (R279). Queue-driven atomic signed maximum. -/
  | atomqMax (m : MArgs)
  /-- ATOMQ_MINN (R279). Queue-driven atomic unsigned minimum. -/
  | atomqMinn (m : MArgs)
  /-- ATOMQ_MAXN (R279). Queue-driven atomic unsigned maximum. -/
  | atomqMaxn (m : MArgs)
  /-- QOP_QPUSHS (R152). Pushes a scalar, replicated across the lanes, as one entry to q0–q3. -/
  | qopQpushs (r : RArgs)
  /-- QOP_QPOPS (R152). Pops an entry from q4–q7 into a scalar register. -/
  | qopQpops (r : RArgs)
  /-- QOP_QCNT (R152). Returns the number of entries of a queue at issue. -/
  | qopQcnt (r : RArgs)
  /-- QOP_XSYNC (R154). Waits until every older E-stream instruction has completed. -/
  | qopXsync (r : RArgs)
  /-- CTL_CTLRD (R156). Reads a control register into sD. -/
  | ctlCtlrd (r : RArgs)
  /-- CTL_CTLWR (R156). Writes sA to a control register and returns the old value. -/
  | ctlCtlwr (r : RArgs)
  /-- CTL_CTLSET (R156). ORs sA into a control register and returns the old value. -/
  | ctlCtlset (r : RArgs)
  /-- CTL_CTLCLR (R156). Clears the bits of sA in a control register and returns the old value. -/
  | ctlCtlclr (r : RArgs)
  /-- BIND (R170). Installs an A-kind level link in a slot, evaluates it and settles. -/
  | bind (fn : Nat) (r : RArgs)
  /-- BIND_IMM (R170). 12-byte BIND whose b operand is the sign-extended EXT32. -/
  | bindImm (fn : Nat) (x : XArgs)
  /-- BINDE (R171). Installs an A-kind edge link without firing it. -/
  | binde (fn : Nat) (r : RArgs)
  /-- LINK_UNBIND (R172). Empties one link slot. -/
  | linkUnbind (r : RArgs)
  /-- LINK_UNBINDALL (R172). Empties every slot that holds an A-kind link. -/
  | linkUnbindall (r : RArgs)
  /-- LINK_LINKRD (R172). Reads the descriptor of a slot. -/
  | linkLinkrd (r : RArgs)
  /-- LINK_LINKSTAT (R172). Reads the occupied-slot and E-kind-slot masks. -/
  | linkLinkstat (r : RArgs)
  /-- ATOM_ADD (R277). Atomic 64-bit add, with optional fetch. -/
  | atomAdd (r : RArgs)
  /-- ATOM_AND (R277). Atomic AND. -/
  | atomAnd (r : RArgs)
  /-- ATOM_OR (R277). Atomic OR. -/
  | atomOr (r : RArgs)
  /-- ATOM_XOR (R277). Atomic XOR. -/
  | atomXor (r : RArgs)
  /-- ATOM_MIN (R277). Atomic signed minimum. -/
  | atomMin (r : RArgs)
  /-- ATOM_MAX (R277). Atomic signed maximum. -/
  | atomMax (r : RArgs)
  /-- ATOM_MINN (R277). Atomic unsigned minimum. -/
  | atomMinn (r : RArgs)
  /-- ATOM_MAXN (R277). Atomic unsigned maximum. -/
  | atomMaxn (r : RArgs)
  /-- ATOM_SWAP (R277). Atomic swap. -/
  | atomSwap (r : RArgs)
  /-- CAS (R278). Compares the 64-bit word with sB and writes sC when they are equal. -/
  | cas (r : RArgs)
  /-- FENCE_ACQ (R257). Acquire fence at a scope. -/
  | fenceAcq (r : RArgs)
  /-- FENCE_REL (R257). Release fence; waits for the replay queue and for earlier accesses. -/
  | fenceRel (r : RArgs)
  /-- FENCE_FULL (R257). Full fence; waits until earlier writes are visible in scope. -/
  | fenceFull (r : RArgs)
  /-- WAITW (R281). Reads a word; completes at once if the condition holds, otherwise sleeps. -/
  | waitw (fn : Nat) (r : RArgs)
  /-- HOLD_HAND (R285). Releases and sends the handover of a holding to a recipient agent. -/
  | holdHand (r : RArgs)
  /-- HOLD_TAKE (R286). Waits until the core holds the holding, then acquires. -/
  | holdTake (r : RArgs)
  /-- HOLD_HOLDQ (R287). Returns the holder, sealed flag and in-flight flag of a holding. -/
  | holdHoldq (r : RArgs)
  /-- HOLD_SEAL (R288). Makes a holding SEALED for good. -/
  | holdSeal (r : RArgs)
  /-- WAITK_WAIT (R283). Waits for the named tokens to drain, acquires their payloads, and traps on an error. -/
  | waitkWait (r : RArgs)
  /-- WAITK_TEST (R283). Reports token counts and errors without waiting. -/
  | waitkTest (r : RArgs)
  /-- WAITK_CLEARERR (R283). Clears ERR, CAUSE and ADDR of the named tokens. -/
  | waitkClearerr (r : RArgs)
  /-- FREEB (R302). Retires the oldest pending multicast free for a landing word and sends the free message. -/
  | freeb (r : RArgs)
  /-- TRAP_TRAP (R379). Raises SOFT_TRAP with a code. -/
  | trapTrap (r : RArgs)
  /-- TRAP_BRK (R379). Raises BREAKPOINT with a code. -/
  | trapBrk (r : RArgs)
  /-- PPT (R384). Pre-emption point: quiesces, applies the liveness record, and stops if pre-emption is pending. -/
  | ppt (i : IArgs)
  /-- GW_GWSET (R246). Sets an oculus window from a pool record on every core of the context. -/
  | gwGwset (r : RArgs)
  /-- GW_GWCLR (R246). Clears a window and increments its VERSION. -/
  | gwGwclr (r : RArgs)
  /-- GW_GWVER (R246). Returns the VERSION and SET bit of a window. -/
  | gwGwver (r : RArgs)
  /-- TASK_TAIL (R315). Re-enqueues the live lanes with new code pointers, or finishes them, and ends the firing. -/
  | taskTail (r : RArgs)
  /-- TASK_JOIN (R316). Writes a join record for each active lane. -/
  | taskJoin (r : RArgs)
  /-- SPAWN (R320). Releases and enqueues n child records per active lane at a placement. -/
  | spawn (fn : Nat) (x : CArgs)
  /-- SPAWNQ (R322). Builds child records and pushes them to a named queue. -/
  | spawnq (x : CArgs)
  /-- COPY (R295). Checks a tensor copy, counts it on a token and hands it to an engine. -/
  | copy (fn : Nat) (x : CArgs)
  /-- COPYM (R300). Issues a multicast copy to up to 24 member cores. -/
  | copym (fn : Nat) (x : CArgs)
  /-- MX_MCLR (R214). Clears accumulator rows and sets their anchor and PAIR. -/
  | mxMclr (r : RArgs)
  /-- MX_MSTAT (R215). Returns the status of an accumulator row and of the banks. -/
  | mxMstat (r : RArgs)
  /-- MLOADW (R217). Latches a weight tile into a bank. -/
  | mloadw (fn : Nat) (x : CArgs)
  /-- MSTREAM (R219). Streams activation rows against a bank into exact accumulators. -/
  | mstream (fn : Nat) (x : CArgs)
  /-- MREAD (R221). Rounds accumulator rows to an output format and stores them, optionally clearing the rows. -/
  | mread (fn : Nat) (x : CArgs)
  /-- MADDRAW (R223). Adds RAW rows from memory into accumulator rows exactly. -/
  | maddraw (x : CArgs)
  /-- MTILE (R232). Runs a sequencer record of MLOADW and MSTREAM steps over a group of cores. -/
  | mtile (fn : Nat) (x : CArgs)
  /-- MCMD (R227). Sends a remote matrix command image to a target virtual core. -/
  | mcmd (x : CArgs)
  /-- RLOAD (R347). Loads a rule table into the lantern's table memory. -/
  | rload (fn : Nat) (x : CArgs)
  /-- RSTEP_SYNC (R349). Steps a tile through synchronous generations. -/
  | rstepSync (x : CArgs)
  /-- RSTEP_CHEQ (R349). Steps a tile through checkerboard generations. -/
  | rstepCheq (x : CArgs)
  /-- HPREF (R62). Prefetch hint for a 64-byte line. -/
  | hpref (fn : Nat) (m : MArgs)
  /-- HPRIO (R62). Boosts the thread's A-stream issue priority for n issues. -/
  | hprio (fn : Nat) (i : IArgs)
  /-- HGATHER (R62). Fires a gather station keyed by a code pointer at once. -/
  | hgather (fn : Nat) (r : RArgs)
  /-- HINT_NOP (R54). An unimplemented hint-region entry executes as a no-op of its own length. -/
  | hintNop (h : HArgs)
  /-- LDP (R97). Retired load pair; traps with RETIRED_OP and is emulated by firmware. -/
  | ldp (fn : Nat) (m : MArgs)
  /-- MMA8 (R97). Retired 8-way byte dot product, emulated. -/
  | mma8 (fn : Nat) (r : RArgs)
  /-- BINDX (R97). Retired unchecked mad bind, emulated. -/
  | bindx (fn : Nat) (r : RArgs)
  /-- VLDE (R97). Retired per-lane near load, emulated. -/
  | vlde (fn : Nat) (r : RArgs)
  /-- VSTE (R97). Retired per-lane near store, emulated. -/
  | vste (fn : Nat) (r : RArgs)
  /-- VDOTQ (R97). Retired saturating DOT4 accumulate, emulated. -/
  | vdotq (fn : Nat) (r : RArgs)
  /-- VBIND (R174). Installs an E-kind level link. -/
  | vbind (fn : Nat) (r : RArgs)
  /-- VBINDE (R174). Installs an E-kind edge link. -/
  | vbinde (fn : Nat) (r : RArgs)
  /-- VLINK_UNBIND (R174). Empties an E-kind slot. -/
  | vlinkUnbind (r : RArgs)
  /-- VLINK_UNBINDALL (R174). Empties every E-kind slot. -/
  | vlinkUnbindall (r : RArgs)
  /-- VLINK_LINKRD (R174). Reads a slot descriptor into lanes 0 and 1 of vD. -/
  | vlinkLinkrd (r : RArgs)
  /-- VLINK_LINKSTAT (R174). Reads the slot masks into lanes 0 and 1 of vD. -/
  | vlinkLinkstat (r : RArgs)
  /-- VIALU_ADD (R183). Per-element add. -/
  | vialuAdd (r : RArgs)
  /-- VIALU_SUB (R183). Per-element subtract. -/
  | vialuSub (r : RArgs)
  /-- VIALU_AND (R183). Per-element AND. -/
  | vialuAnd (r : RArgs)
  /-- VIALU_OR (R183). Per-element OR. -/
  | vialuOr (r : RArgs)
  /-- VIALU_XOR (R183). Per-element XOR. -/
  | vialuXor (r : RArgs)
  /-- VIALU_ANDN (R183). Per-element AND NOT. -/
  | vialuAndn (r : RArgs)
  /-- VIALU_SHL (R183). Per-element shift left. -/
  | vialuShl (r : RArgs)
  /-- VIALU_SHR (R183). Per-element logical shift right. -/
  | vialuShr (r : RArgs)
  /-- VIALU_SAR (R183). Per-element arithmetic shift right. -/
  | vialuSar (r : RArgs)
  /-- VIALU_MIN (R183). Per-element signed minimum. -/
  | vialuMin (r : RArgs)
  /-- VIALU_MAX (R183). Per-element signed maximum. -/
  | vialuMax (r : RArgs)
  /-- VIALU_MINN (R183). Per-element unsigned minimum. -/
  | vialuMinn (r : RArgs)
  /-- VIALU_MAXN (R183). Per-element unsigned maximum. -/
  | vialuMaxn (r : RArgs)
  /-- VIALU_ADDSAT (R183). Per-element saturating add. -/
  | vialuAddsat (r : RArgs)
  /-- VIALU_SUBSAT (R183). Per-element saturating subtract. -/
  | vialuSubsat (r : RArgs)
  /-- VIALU_IMM (R190). 12-byte VIALU with EXT32 broadcast in place of B. -/
  | vialuImm (fn : Nat) (x : XArgs)
  /-- VIMUL_MUL (R184). Per-element multiply, low half. -/
  | vimulMul (r : RArgs)
  /-- VIMUL_MULHS (R184). Per-element signed high-half multiply. -/
  | vimulMulhs (r : RArgs)
  /-- VIMUL_MULHN (R184). Per-element unsigned high-half multiply. -/
  | vimulMulhn (r : RArgs)
  /-- VIMUL_MADD (R184). Per-element multiply-add. -/
  | vimulMadd (r : RArgs)
  /-- VIMUL_DOT4 (R184). Per-lane 4-way I8 dot product accumulated into I32. -/
  | vimulDot4 (r : RArgs)
  /-- VIMUL_DOT2 (R184). Per-lane 2-way I16 dot product accumulated into I32. -/
  | vimulDot2 (r : RArgs)
  /-- VICMP (R185). Integer compare of elements, writing a mask. -/
  | vicmp (fn : Nat) (r : RArgs)
  /-- VFALU_ADD (R186). Per-element rounded float add. -/
  | vfaluAdd (r : RArgs)
  /-- VFALU_SUB (R186). Per-element rounded float subtract. -/
  | vfaluSub (r : RArgs)
  /-- VFALU_MUL (R186). Per-element rounded float multiply. -/
  | vfaluMul (r : RArgs)
  /-- VFALU_MIN (R186). Per-element minimumNumber. -/
  | vfaluMin (r : RArgs)
  /-- VFALU_MAX (R186). Per-element maximumNumber. -/
  | vfaluMax (r : RArgs)
  /-- VFALU_ABS (R186). Clears the sign bits. -/
  | vfaluAbs (r : RArgs)
  /-- VFALU_NEG (R186). Inverts the sign bits. -/
  | vfaluNeg (r : RArgs)
  /-- VFALU_CPSGN (R186). Copies the sign of b onto a. -/
  | vfaluCpsgn (r : RArgs)
  /-- VFALU_IMM (R190). 12-byte VFALU with an FP32 EXT32 broadcast in place of B. -/
  | vfaluImm (fn : Nat) (x : XArgs)
  /-- VFMA_FMA (R187). Fused a * b + c, rounded once. -/
  | vfmaFma (r : RArgs)
  /-- VFMA_FMS (R187). Fused a * b - c. -/
  | vfmaFms (r : RArgs)
  /-- VFMA_FNMA (R187). Fused -(a * b) + c. -/
  | vfmaFnma (r : RArgs)
  /-- VFMA_FNMS (R187). Fused -(a * b) - c. -/
  | vfmaFnms (r : RArgs)
  /-- VFMA_IMM (R190). 12-byte VFMA with an FP32 EXT32 in place of C. -/
  | vfmaImm (fn : Nat) (x : XArgs)
  /-- VFUNC_DIV (R188). Correctly rounded division. -/
  | vfuncDiv (r : RArgs)
  /-- VFUNC_SQRT (R188). Correctly rounded square root. -/
  | vfuncSqrt (r : RArgs)
  /-- VFUNC_RCP (R188). Correctly rounded reciprocal. -/
  | vfuncRcp (r : RArgs)
  /-- VFUNC_RSQRT (R188). Correctly rounded reciprocal square root. -/
  | vfuncRsqrt (r : RArgs)
  /-- VFUNC_EXP2 (R188). Correctly rounded 2^a. -/
  | vfuncExp2 (r : RArgs)
  /-- VFUNC_LOG2 (R188). Correctly rounded log2 a. -/
  | vfuncLog2 (r : RArgs)
  /-- VFCMP (R189). Float compare of elements, writing a mask. -/
  | vfcmp (fn : Nat) (r : RArgs)
  /-- VCVT (R192). Converts elements between formats by position. -/
  | vcvt (fn : Nat) (r : RArgs)
  /-- VMX_MXQ (R193). Quantizes 32 FP32 lanes to an MXINT-p block and its scale. -/
  | vmxMxq (r : RArgs)
  /-- VMX_PLANE (R194). Bit-transposes lanes into plane words. -/
  | vmxPlane (r : RArgs)
  /-- VMX_UNPLANE (R194). Bit-transposes plane words back into lanes. -/
  | vmxUnplane (r : RArgs)
  /-- VMX_MXDQ (R195). Decodes an MXQ pair to FP32. -/
  | vmxMxdq (r : RArgs)
  /-- VMASK_MAND (R196). Mask AND. -/
  | vmaskMand (r : RArgs)
  /-- VMASK_MOR (R196). Mask OR. -/
  | vmaskMor (r : RArgs)
  /-- VMASK_MXOR (R196). Mask XOR. -/
  | vmaskMxor (r : RArgs)
  /-- VMASK_MANDN (R196). Mask AND NOT. -/
  | vmaskMandn (r : RArgs)
  /-- VMASK_MNOT (R196). Mask NOT. -/
  | vmaskMnot (r : RArgs)
  /-- VMASK_MPOPC (R196). Broadcasts the population count of a mask into every lane. -/
  | vmaskMpopc (r : RArgs)
  /-- VMASK_MFIRST (R196). Keeps the lowest set bit of a mask. -/
  | vmaskMfirst (r : RArgs)
  /-- VMASK_MSET (R196). Builds a mask from the nonzero lanes. -/
  | vmaskMset (r : RArgs)
  /-- VPERM_SHUF (R197). Shuffles lanes by index. -/
  | vpermShuf (r : RArgs)
  /-- VPERM_SLIDEUP (R197). Slides lanes up by n. -/
  | vpermSlideup (r : RArgs)
  /-- VPERM_SLIDEDN (R197). Slides lanes down by n. -/
  | vpermSlidedn (r : RArgs)
  /-- VPERM_BCAST (R197). Broadcasts lane n. -/
  | vpermBcast (r : RArgs)
  /-- VPERM_REV (R197). Reverses the lanes. -/
  | vpermRev (r : RArgs)
  /-- VPERM_ZIPLO (R197). Interleaves the low halves. -/
  | vpermZiplo (r : RArgs)
  /-- VPERM_ZIPHI (R197). Interleaves the high halves. -/
  | vpermZiphi (r : RArgs)
  /-- VPERM_IOTA (R197). Writes each active lane's rank in act. -/
  | vpermIota (r : RArgs)
  /-- VRED_IADD (R198). Integer sum reduction into lane 0. -/
  | vredIadd (r : RArgs)
  /-- VRED_IMIN (R198). Signed minimum reduction. -/
  | vredImin (r : RArgs)
  /-- VRED_IMAX (R198). Signed maximum reduction. -/
  | vredImax (r : RArgs)
  /-- VRED_IAND (R198). AND reduction. -/
  | vredIand (r : RArgs)
  /-- VRED_IOR (R198). OR reduction. -/
  | vredIor (r : RArgs)
  /-- VRED_FADD (R198). Fixed-tree FP32 sum with RNE at each step. -/
  | vredFadd (r : RArgs)
  /-- VRED_FMAX (R198). maximumNumber reduction. -/
  | vredFmax (r : RArgs)
  /-- VRED_FMIN (R198). minimumNumber reduction. -/
  | vredFmin (r : RArgs)
  /-- VMOV_MOV (R199). Moves the active lanes. -/
  | vmovMov (r : RArgs)
  /-- VMOV_SEL (R199). Selects each lane from vA or vB by mask. -/
  | vmovSel (r : RArgs)
  /-- VMOV_QPUSH (R199). Pushes the lanes as an entry to q4–q7. -/
  | vmovQpush (r : RArgs)
  /-- VMOV_QPOP (R199). Pops an entry from q0–q3 into vD, and optionally its mask into mC. -/
  | vmovQpop (r : RArgs)
  /-- XACC_XACC (R225). Adds FP32 lanes exactly into accumulator columns. -/
  | xaccXacc (r : RArgs)
  /-- XACC_XACCI (R225). Adds I32 lanes exactly into accumulator columns. -/
  | xaccXacci (r : RArgs)
  /-- XACC_XRND (R226). Reads accumulator columns rounded to FP32 into lanes. -/
  | xaccXrnd (r : RArgs)
  /-- NOP (R61). A-stream no-op that takes one A-stream issue slot and does nothing else. -/
  | nop
  /-- ENOP (R61). E-stream no-op that takes one E-stream issue slot and does nothing else. -/
  | enop
  /-- TRAP_RESUME (R380). Leaves handler mode and restarts both streams at the saved positions. -/
  | trapResume
  /-- TASK_DONE (R314). Quiesces, releases, decrements the joins, and ends the firing. -/
  | taskDone
  /-- TASK_YIELD (R317). Parks the firing when work waits or pre-emption is pending. -/
  | taskYield
  /-- MX_MBEGIN (R213). Array marker that opens a chain. -/
  | mxMbegin
  /-- MX_MEND (R213). Array marker that closes the chain. -/
  | mxMend
  /-- MX_MWAIT (R213). Waits for the thread's array commands, reports deferred errors, and acquires MCMD writes. -/
  | mxMwait
  /-- WAITW_WAKE (R264). A sleeping WAITW reads a satisfying write, wakes and acquires. Reads of the request: t. -/
  | waitwWake
  /-- HANDOVER_ARRIVAL (R265). A handover message arrives, the recipient becomes holder, and a waiting TAKE completes. Reads of the request: t.ctx, n the message. -/
  | handoverArrival
  /-- COPY_COMPLETE (R297). After the last payload write, a copy releases, writes its completion word or spawns, and decrements its token. Reads of the request: t.ctx, n the copy. -/
  | copyComplete
  /-- COPY_FAILED (R298). An engine access failure fails the copy and sets the token's error. Reads of the request: t.ctx, n the copy. -/
  | copyFailed
  /-- MULTICAST_DELIVERY (R301). Delivery to one member ends with a landing-word increment and a pending free. Reads of the request: t.ctx, t.vc the member, n the copy. -/
  | multicastDelivery
  /-- MULTICAST_ALL_FREED (R302). When every member has freed, the sender's mailbox word is incremented with a release. Reads of the request: t.ctx, n the copy. -/
  | multicastAllFreed
  /-- MTILE_STEP (R231). One MTILE step completes on its member and DONE advances. Reads of the request: t. -/
  | mtileStep
  /-- MCMD_ARRIVAL (R227). A remote command arrives and is accepted under a matrix key, or rejected. Reads of the request: t.ctx, n the command. -/
  | mcmdArrival
  /-- HPRIO_BOOST_END (R62). The HPRIO issue count runs out and the boost ends. Reads of the request: t. -/
  | hprioBoostEnd
  /-- STREAM_DEADLOCK (R155). Both streams wait on each other with a queue involved; an A-stream trap is raised. Reads of the request: t. -/
  | streamDeadlock
  /-- PARKED_STORE_REPLAY (R145). A parked store's translation is resolved, and the store retakes its checks and is performed. Reads of the request: t, n the entry, flag whether its translation can be resolved. -/
  | parkedStoreReplay
  /-- TLB_WALK (R365). A walker serves a translation miss through the L2 home or a page-table walk. Reads of the request: t.ctx, t.vc, kind, n the address. -/
  | tlbWalk
  /-- LAUNCH_KICK (R309). A kick message makes the launch unit read TAIL and process pending packets. Reads of the request: t.ctx, k the address of the control block, m a slot. -/
  | launchKick
  /-- LAUNCH_PACKET (R310). A LAUNCH packet is accepted and its roots enqueued, or it is refused. Reads of the request: m the slot. -/
  | launchPacket
  /-- LOADREF_PACKET (R92). Gives the queue a reference to an object handle. Reads of the request: m the slot. -/
  | loadrefPacket
  /-- UNLOAD_PACKET (R92). Requests that the queue's reference to an object be dropped. Reads of the request: m the slot. -/
  | unloadPacket
  /-- UNLOAD_TAKES_EFFECT (R92). Once earlier launches have completed, the reference is dropped and the completion word written. Reads of the request: m the slot, flag whether the runtime frees an object that no queue references. -/
  | unloadTakesEffect
  /-- MARKER_PACKET (R311). A MARKER packet is taken and waits for earlier launches. Reads of the request: m the slot. -/
  | markerPacket
  /-- MARKER_COMPLETE (R311). Earlier launches have completed, so the marker writes DONEVAL. Reads of the request: m the slot. -/
  | markerComplete
  /-- SERIAL_LAUNCH_START (R311). A waiting SERIAL launch starts once every earlier launch of its queue has completed. Reads of the request: m the slot. -/
  | serialLaunchStart
  /-- OBJECT_LOAD (R91). The loader checks, places, relocates and registers a code object. Reads of the request: t.ctx, l1 the file, l2 the places. -/
  | objectLoad
  /-- STATION_FIRE (R326). A gather station fires its records as a firing on a free thread. Reads of the request: t, n the station. -/
  | stationFire
  /-- GATHER_LIMIT_EXPIRY (R326). A station's oldest record has waited ctl.gather cycles. Reads of the request: t.ctx, t.vc, n the station. -/
  | gatherLimitExpiry
  /-- PARKED_FIRING_RESUME (R317). A free thread takes up a parked YIELD firing. Reads of the request: t, n the park slot. -/
  | parkedFiringResume
  /-- LOOK_FOR_WORK (R329). An idle core pops named queues or steals a stealable record. Reads of the request: t.ctx, t.vc, n the victim. -/
  | lookForWork
  /-- PREEMPT (R385). A pre-emption request makes the context's threads stop at PPTs or task boundaries. Reads of the request: t.ctx, n the limit. -/
  | preempt
  /-- CONTEXT_SAVE (R387). Once all threads have stopped and drained, the context is written to its save regions with headers last. Reads of the request: t.ctx. -/
  | contextSave
  /-- WATCHDOG_STOP_EXPIRY (R386). The stop-phase watchdog expires and the context is killed with WATCHDOG. Reads of the request: t.ctx. -/
  | watchdogStopExpiry
  /-- WATCHDOG_SAVE_EXPIRY (R386). The save-phase watchdog expires, the save is abandoned, and the context is killed. Reads of the request: t.ctx, n a virtual core. -/
  | watchdogSaveExpiry
  /-- CONTEXT_RESTORE (R388). The runtime places and loads saved regions, and threads resume once all are loaded. Reads of the request: t.ctx, l1 the physical cores. -/
  | contextRestore
  /-- THREAD_RESUME (R381). A management request continues a parked thread at its EPC and AEPC. Reads of the request: t. -/
  | threadResume
  /-- CONTEXT_KILL (R394). A management request kills a context, discarding its work. Reads of the request: t.ctx. -/
  | contextKill
  /-- CONTEXT_CREATE (R354). A management request creates a context with NMAX, host nodes and tables. Reads of the request: params. -/
  | contextCreate
  /-- CONTEXT_DESTROY (R354). A management request destroys a context. Reads of the request: t.ctx. -/
  | contextDestroy
  /-- HOLDING_ADD (R367). The runtime adds or removes a holding of a context. Reads of the request: t.ctx, n the holding, holding. -/
  | holdingAdd
  /-- HOST_HANDOVER (R369). A host hands a holding to an agent with a management handover message. Reads of the request: t.ctx, n the node, m the holding, k the agent. -/
  | hostHandover
  /-- SHOOTDOWN (R366). A management request removes cached translations and completes with a release. Reads of the request: t.ctx, n to m the addresses. -/
  | shootdown
  /-- ATTEST (R373). Returns a signed attestation report for a nonce. Reads of the request: l1 the nonce. -/
  | attest
  /-- LOAD_KEY (R373). Unwraps a key and loads it into a key slot. Reads of the request: n the slot, l1 the contexts, l2 the wrapped key. -/
  | loadKey
  /-- UNLOAD_KEY (R373). Shoots down the entries that use a slot, then clears it. Reads of the request: n the slot. -/
  | unloadKey
  /-- GANG_STOP (R389). A belfry STOP halts every thread of the partition with GANG_STOP. Reads of the request: n the partition. -/
  | gangStop
  /-- DEBUG_HALT (R389). A belfry STOP halts every thread of the partition with DEBUG_HALT. Reads of the request: n the partition. -/
  | debugHalt
  /-- BELFRY_RESUME (R390). Releases a stopped partition in one wave and delivers held messages. Reads of the request: n the partition. -/
  | belfryResume
  /-- DEBUG_ACCESS (R375). A management request reads or writes a halted context's state, or sets breakpoints. Reads of the request: t.ctx, dbg, flag whether a module node sent it. -/
  | debugAccess
  /-- ERROR_INJECTION (R393). A management request injects an error that behaves as a real one. Reads of the request: t.ctx, err. -/
  | errorInjection
  /-- PARTITION_CONFIG (R353). Firmware changes the partition layout on a management request. Reads of the request: parts. -/
  | partitionConfig
  /-- BRING_UP (R33). At reset, firmware is verified and started, SRAM is tested and the core map published. Reads of the request: l1 and l2 the cores and banks that the self-test marks failed. -/
  | bringUp
  /-- SUPPLY_DROOP (R31). The supply-sag sensor stretches a die's clock on a droop, and releases it when the supply recovers. Reads of the request: n the die. -/
  | supplyDroop
  /-- THERMAL_TRIP (R32). A die crossing its trip point stops its partition's contexts. Reads of the request: n the die. -/
  | thermalTrip
  /-- SPAN_LINK_DOWN (R26). A span link fails, firmware removes it from the hash, and operations on it fail. Reads of the request: n the port, l1 the nodes that cannot be reached any more. -/
  | spanLinkDown
  /-- POOL_LINK_DOWN (R28). A CXL link fails, and accesses interleaved on it fault. Reads of the request: n the port. -/
  | poolLinkDown
  /-- SCRUB (R392). Firmware scrubs slice and accumulator words periodically and logs corrections. Reads of the request: n the core, flag whether firmware declares storage array m failed. -/
  | scrub
  /-- UNCORRECTABLE_ERROR (R396). An uncorrectable hardware error kills the context, or replays a restartable firing. Reads of the request: err. -/
  | uncorrectableError
  /-- ARRAY_COMMAND_COMPLETION (R212). An array command that issued earlier finishes its contributions or writes, or meets a deferred error found after issue. Reads of the request: t.ctx, t.vc. -/
  | arrayCommandCompletion
  /-- GENERATION_BOUNDARY (R349). The lantern completes one generation of a running RSTEP and writes the tile, GEN, REMAINING and carry. Reads of the request: t. -/
  | generationBoundary
  /-- STORE_PERFORMED (R254). A store that has left its thread is performed and becomes visible, or fails step 9 and is recorded for the next waiting instruction. Reads of the request: t, n the store. -/
  | storePerformed
  /-- QUEUE_ENTRY_READABLE (R146). The last lane of a reserved queue entry arrives and the entry becomes readable. Reads of the request: t, n the queue. -/
  | queueEntryReadable
  /-- COPY_CONTINUES (R298). A copy suspended on a page fault continues once the runtime resolves the translation. Reads of the request: t.ctx, n the copy. -/
  | copyContinues
  /-- SUPPLY_RECOVERY (R31). The supply recovers, and the sensor releases the die's clock stretch. Reads of the request: n the die. -/
  | supplyRecovery
  /-- PARTITION_RESET (R28). A partition is reset, and firmware re-interleaves pool addresses over the surviving CXL ports. Reads of the request: n the partition. -/
  | partitionReset
  /-- HOST_NODE_ACCESS (R27). A read, write or atomic from a host node or another module arrives over the span fabric and is served on the module's memory. Reads of the request: n the node, k the key slot of an access to the pool, acc. -/
  | hostNodeAccess
  deriving DecidableEq, Repr

end Sys2Proof
end

