-- ==== Sys2Proof/WellFormed.lean ====
section
/-! DEFINITION. Well-formed instructions: every field holds a value that its bits can hold (R42 to R50). Whether a
field's value is one that the instruction allows is checked by the decoder (`Instr.fieldFault`). -/

namespace Sys2Proof

/-- Every field of format R fits its bits (R42, R43). -/
def RArgs.fits (r : RArgs) : Bool :=
  decide (r.d < 64) && decide (r.a < 64) && decide (r.b < 64) && decide (r.c < 64) && decide (r.msk < 8) &&
    decide (r.ty < 8) && decide (r.rm < 16) && decide (r.x16 < 65536)

/-- Every field of format I fits its bits (R44). -/
def IArgs.fits (i : IArgs) : Bool :=
  decide (i.d < 64) && decide (i.a < 64) && decide (i.b < 64) && decide (i.imm < 4294967296)

/-- Every field of format M fits its bits (R45). -/
def MArgs.fits (m : MArgs) : Bool :=
  decide (m.d < 64) && decide (m.a < 64) && decide (m.b < 64) && decide (m.sc < 4) && decide (m.sz < 8) &&
    decide (m.ord < 8) && decide (m.scope < 8) && decide (m.q < 2) && decide (m.off < 1048576)

/-- Every field of format J fits its bits (R46). -/
def JArgs.fits (j : JArgs) : Bool :=
  decide (j.d < 64) && decide (j.a < 64) && decide (j.b < 64) && decide (j.off < 4294967296)

/-- Format R with EXT32 (R49). -/
def XArgs.fits (x : XArgs) : Bool := x.r.fits && decide (x.ext < 4294967296)

/-- Format I with EXT32 (R49). -/
def LArgs.fits (l : LArgs) : Bool := l.i.fits && decide (l.ext < 4294967296)

/-- Format R with CMD64 (R50). -/
def CArgs.fits (x : CArgs) : Bool := x.r.fits && decide (x.cmd < 18446744073709551616)

/-- A hint entry that is not an implemented hint (R54): its length, stream, opcode and code, every other field at
any value its bits can hold, and no extension word beyond its length. -/
def HArgs.fits (h : HArgs) : Bool :=
  decide (h.len < 3) && decide (h.st < 2) && decide (112 ≤ h.op) && decide (h.op < 128) && decide (h.fn < 16) && h.r.fits &&
    decide (h.ext < 4294967296 ^ h.len) && !(decide (h.len = 0) && decide (h.st = 0) && decide (h.op < 115))

/-- A thread's name is in range (R8, R34). -/
def Tid.fits (t : Tid) : Bool := decide (t.ctx < 64) && decide (t.vc < 4096) && decide (t.th < 8)

/-- The syntax is well formed: every field fits. A row with several FN values bounds its FN by its list (R55). -/
def Instr.wellFormed : Instr → Bool
  | .ialuAdd r => r.fits
  | .ialuSub r => r.fits
  | .ialuAnd r => r.fits
  | .ialuOr r => r.fits
  | .ialuXor r => r.fits
  | .ialuAndn r => r.fits
  | .ialuShl r => r.fits
  | .ialuShr r => r.fits
  | .ialuSar r => r.fits
  | .ialuRotl r => r.fits
  | .ialuMin r => r.fits
  | .ialuMax r => r.fits
  | .ialuMinn r => r.fits
  | .ialuMaxn r => r.fits
  | .ialuAddsat r => r.fits
  | .ialuSubsat r => r.fits
  | .ialuiAdd i => i.fits
  | .ialuiSub i => i.fits
  | .ialuiAnd i => i.fits
  | .ialuiOr i => i.fits
  | .ialuiXor i => i.fits
  | .ialuiAndn i => i.fits
  | .ialuiShl i => i.fits
  | .ialuiShr i => i.fits
  | .ialuiSar i => i.fits
  | .ialuiRotl i => i.fits
  | .ialuiMin i => i.fits
  | .ialuiMax i => i.fits
  | .ialuiMinn i => i.fits
  | .ialuiMaxn i => i.fits
  | .ialuiAddsat i => i.fits
  | .ialuiSubsat i => i.fits
  | .imulMul r => r.fits
  | .imulMulhs r => r.fits
  | .imulMulhn r => r.fits
  | .imulMadd r => r.fits
  | .imulMsub r => r.fits
  | .imulDivs r => r.fits
  | .imulDivn r => r.fits
  | .imulRems r => r.fits
  | .imulRemn r => r.fits
  | .icmp fn r => decide (fn ≤ 5) && r.fits
  | .icmpi fn i => decide (fn ≤ 5) && i.fits
  | .bitsClz r => r.fits
  | .bitsCtz r => r.fits
  | .bitsPopc r => r.fits
  | .bitsBrev r => r.fits
  | .bitsBswap r => r.fits
  | .bitsSext r => r.fits
  | .bitsZext r => r.fits
  | .bitsBfx r => r.fits
  | .bitsBfi r => r.fits
  | .sel r => r.fits
  | .liLi i => i.fits
  | .liLih i => i.fits
  | .liAddpc i => i.fits
  | .li64 l => l.fits
  | .laneLive r => r.fits
  | .laneLframe r => r.fits
  | .laneLkey r => r.fits
  | .laneLmask r => r.fits
  | .laneVcore r => r.fits
  | .laneThread r => r.fits
  | .br fn j => decide (fn ≤ 5) && j.fits
  | .jmpJmp j => j.fits
  | .jmpCall j => j.fits
  | .jmpJmpr j => j.fits
  | .jmpCallr j => j.fits
  | .jmpCalll j => j.fits
  | .jmpRet j => j.fits
  | .ld fn m => decide (fn ≤ 6) && m.fits
  | .st fn m => decide (fn ≤ 3) && m.fits
  | .vlq fn m => decide (fn ≤ 4) && m.fits
  | .vsq fn m => decide (fn ≤ 0) && m.fits
  | .gathq fn m => decide (fn ≤ 4) && m.fits
  | .scatq fn m => decide (fn ≤ 0) && m.fits
  | .atomqAdd m => m.fits
  | .atomqAnd m => m.fits
  | .atomqOr m => m.fits
  | .atomqXor m => m.fits
  | .atomqMin m => m.fits
  | .atomqMax m => m.fits
  | .atomqMinn m => m.fits
  | .atomqMaxn m => m.fits
  | .qopQpushs r => r.fits
  | .qopQpops r => r.fits
  | .qopQcnt r => r.fits
  | .qopXsync r => r.fits
  | .ctlCtlrd r => r.fits
  | .ctlCtlwr r => r.fits
  | .ctlCtlset r => r.fits
  | .ctlCtlclr r => r.fits
  | .bind fn r => decide (fn ≤ 15) && r.fits
  | .bindImm fn x => decide (fn ≤ 15) && x.fits
  | .binde fn r => decide (fn ≤ 6) && r.fits
  | .linkUnbind r => r.fits
  | .linkUnbindall r => r.fits
  | .linkLinkrd r => r.fits
  | .linkLinkstat r => r.fits
  | .atomAdd r => r.fits
  | .atomAnd r => r.fits
  | .atomOr r => r.fits
  | .atomXor r => r.fits
  | .atomMin r => r.fits
  | .atomMax r => r.fits
  | .atomMinn r => r.fits
  | .atomMaxn r => r.fits
  | .atomSwap r => r.fits
  | .cas r => r.fits
  | .fenceAcq r => r.fits
  | .fenceRel r => r.fits
  | .fenceFull r => r.fits
  | .waitw fn r => decide (fn ≤ 2) && r.fits
  | .holdHand r => r.fits
  | .holdTake r => r.fits
  | .holdHoldq r => r.fits
  | .holdSeal r => r.fits
  | .waitkWait r => r.fits
  | .waitkTest r => r.fits
  | .waitkClearerr r => r.fits
  | .freeb r => r.fits
  | .trapTrap r => r.fits
  | .trapBrk r => r.fits
  | .ppt i => i.fits
  | .gwGwset r => r.fits
  | .gwGwclr r => r.fits
  | .gwGwver r => r.fits
  | .taskTail r => r.fits
  | .taskJoin r => r.fits
  | .spawn fn x => decide (fn ≤ 5) && x.fits
  | .spawnq x => x.fits
  | .copy fn x => decide (fn ≤ 7) && x.fits
  | .copym fn x => decide (fn ≤ 3) && x.fits
  | .mxMclr r => r.fits
  | .mxMstat r => r.fits
  | .mloadw fn x => decide (fn ≤ 1) && x.fits
  | .mstream fn x => decide (fn ≤ 1) && x.fits
  | .mread fn x => decide (fn ≤ 5) && x.fits
  | .maddraw x => x.fits
  | .mtile fn x => decide (fn ≤ 15) && x.fits
  | .mcmd x => x.fits
  | .rload fn x => decide (fn ≤ 1) && x.fits
  | .rstepSync x => x.fits
  | .rstepCheq x => x.fits
  | .hpref fn m => decide (fn ≤ 15) && m.fits
  | .hprio fn i => decide (fn ≤ 15) && i.fits
  | .hgather fn r => decide (fn ≤ 15) && r.fits
  | .hintNop h => h.fits
  | .ldp fn m => decide (fn ≤ 15) && m.fits
  | .mma8 fn r => decide (fn ≤ 15) && r.fits
  | .bindx fn r => decide (fn ≤ 15) && r.fits
  | .vlde fn r => decide (fn ≤ 15) && r.fits
  | .vste fn r => decide (fn ≤ 15) && r.fits
  | .vdotq fn r => decide (fn ≤ 15) && r.fits
  | .vbind fn r => decide (fn ≤ 15) && r.fits
  | .vbinde fn r => decide (fn ≤ 6) && r.fits
  | .vlinkUnbind r => r.fits
  | .vlinkUnbindall r => r.fits
  | .vlinkLinkrd r => r.fits
  | .vlinkLinkstat r => r.fits
  | .vialuAdd r => r.fits
  | .vialuSub r => r.fits
  | .vialuAnd r => r.fits
  | .vialuOr r => r.fits
  | .vialuXor r => r.fits
  | .vialuAndn r => r.fits
  | .vialuShl r => r.fits
  | .vialuShr r => r.fits
  | .vialuSar r => r.fits
  | .vialuMin r => r.fits
  | .vialuMax r => r.fits
  | .vialuMinn r => r.fits
  | .vialuMaxn r => r.fits
  | .vialuAddsat r => r.fits
  | .vialuSubsat r => r.fits
  | .vialuImm fn x => decide (fn ≤ 14) && x.fits
  | .vimulMul r => r.fits
  | .vimulMulhs r => r.fits
  | .vimulMulhn r => r.fits
  | .vimulMadd r => r.fits
  | .vimulDot4 r => r.fits
  | .vimulDot2 r => r.fits
  | .vicmp fn r => decide (fn ≤ 5) && r.fits
  | .vfaluAdd r => r.fits
  | .vfaluSub r => r.fits
  | .vfaluMul r => r.fits
  | .vfaluMin r => r.fits
  | .vfaluMax r => r.fits
  | .vfaluAbs r => r.fits
  | .vfaluNeg r => r.fits
  | .vfaluCpsgn r => r.fits
  | .vfaluImm fn x => decide (fn ≤ 7) && x.fits
  | .vfmaFma r => r.fits
  | .vfmaFms r => r.fits
  | .vfmaFnma r => r.fits
  | .vfmaFnms r => r.fits
  | .vfmaImm fn x => decide (fn ≤ 3) && x.fits
  | .vfuncDiv r => r.fits
  | .vfuncSqrt r => r.fits
  | .vfuncRcp r => r.fits
  | .vfuncRsqrt r => r.fits
  | .vfuncExp2 r => r.fits
  | .vfuncLog2 r => r.fits
  | .vfcmp fn r => decide (fn ≤ 4) && r.fits
  | .vcvt fn r => decide (fn ≤ 8) && r.fits
  | .vmxMxq r => r.fits
  | .vmxPlane r => r.fits
  | .vmxUnplane r => r.fits
  | .vmxMxdq r => r.fits
  | .vmaskMand r => r.fits
  | .vmaskMor r => r.fits
  | .vmaskMxor r => r.fits
  | .vmaskMandn r => r.fits
  | .vmaskMnot r => r.fits
  | .vmaskMpopc r => r.fits
  | .vmaskMfirst r => r.fits
  | .vmaskMset r => r.fits
  | .vpermShuf r => r.fits
  | .vpermSlideup r => r.fits
  | .vpermSlidedn r => r.fits
  | .vpermBcast r => r.fits
  | .vpermRev r => r.fits
  | .vpermZiplo r => r.fits
  | .vpermZiphi r => r.fits
  | .vpermIota r => r.fits
  | .vredIadd r => r.fits
  | .vredImin r => r.fits
  | .vredImax r => r.fits
  | .vredIand r => r.fits
  | .vredIor r => r.fits
  | .vredFadd r => r.fits
  | .vredFmax r => r.fits
  | .vredFmin r => r.fits
  | .vmovMov r => r.fits
  | .vmovSel r => r.fits
  | .vmovQpush r => r.fits
  | .vmovQpop r => r.fits
  | .xaccXacc r => r.fits
  | .xaccXacci r => r.fits
  | .xaccXrnd r => r.fits
  | .nop => true
  | .enop => true
  | .trapResume => true
  | .taskDone => true
  | .taskYield => true
  | .mxMbegin => true
  | .mxMend => true
  | .mxMwait => true
  | .waitwWake => true
  | .handoverArrival => true
  | .copyComplete => true
  | .copyFailed => true
  | .multicastDelivery => true
  | .multicastAllFreed => true
  | .mtileStep => true
  | .mcmdArrival => true
  | .hprioBoostEnd => true
  | .streamDeadlock => true
  | .parkedStoreReplay => true
  | .tlbWalk => true
  | .launchKick => true
  | .launchPacket => true
  | .loadrefPacket => true
  | .unloadPacket => true
  | .unloadTakesEffect => true
  | .markerPacket => true
  | .markerComplete => true
  | .serialLaunchStart => true
  | .objectLoad => true
  | .stationFire => true
  | .gatherLimitExpiry => true
  | .parkedFiringResume => true
  | .lookForWork => true
  | .preempt => true
  | .contextSave => true
  | .watchdogStopExpiry => true
  | .watchdogSaveExpiry => true
  | .contextRestore => true
  | .threadResume => true
  | .contextKill => true
  | .contextCreate => true
  | .contextDestroy => true
  | .holdingAdd => true
  | .hostHandover => true
  | .shootdown => true
  | .attest => true
  | .loadKey => true
  | .unloadKey => true
  | .gangStop => true
  | .debugHalt => true
  | .belfryResume => true
  | .debugAccess => true
  | .errorInjection => true
  | .partitionConfig => true
  | .bringUp => true
  | .supplyDroop => true
  | .thermalTrip => true
  | .spanLinkDown => true
  | .poolLinkDown => true
  | .scrub => true
  | .uncorrectableError => true
  | .arrayCommandCompletion => true
  | .generationBoundary => true
  | .storePerformed => true
  | .queueEntryReadable => true
  | .copyContinues => true
  | .supplyRecovery => true
  | .partitionReset => true
  | .hostNodeAccess => true

end Sys2Proof
end

