-- ==== Sys2Proof/Decode.lean ====
section
/-! DEFINITION. The decoder and the encoder (R37 to R60). The decoder is total on any words, and rejects by cause. -/

namespace Sys2Proof

/-- A decode fault: its cause and what ctl.fdetail holds (R60, R382). -/
structure DecErr where
  cause : Cause
  detail : Nat
  deriving DecidableEq, Repr

/-- Bits `lo + n - 1 : lo` of a word. -/
def bits (w lo n : Nat) : Nat := w / 2 ^ lo % 2 ^ n

/-! ## Fields of the words -/

/-- LEN, ST, OP and FN of word 0 (R42). -/
def lenOf (w0 : Nat) : Nat := w0 % 4
def stOf (w0 : Nat) : Nat := w0 / 4 % 2
def opOf (w0 : Nat) : Nat := w0 / 8 % 128
def fnOf (w0 : Nat) : Nat := w0 / 1024 % 16

/-- The length in bytes that LEN gives (R37). -/
def lengthOf (len : Nat) : Nat := 8 + 4 * len

/-- The fields of format R (R42, R43). -/
def rFields (w0 w1 : Nat) : RArgs :=
  { d := w0 / 16384 % 64, a := w0 / 1048576 % 64, b := w0 / 67108864 % 64, c := w1 % 64, msk := w1 / 64 % 8,
    ty := w1 / 512 % 8, rm := w1 / 4096 % 16, x16 := w1 / 65536 % 65536 }

/-- The fields of format I (R44). -/
def iFields (w0 w1 : Nat) : IArgs :=
  { d := w0 / 16384 % 64, a := w0 / 1048576 % 64, b := w0 / 67108864 % 64, imm := w1 % 4294967296 }

/-- The fields of format M (R45). -/
def mFields (w0 w1 : Nat) : MArgs :=
  { d := w0 / 16384 % 64, a := w0 / 1048576 % 64, b := w0 / 67108864 % 64, sc := w1 % 4, sz := w1 / 4 % 8,
    ord := w1 / 32 % 8, scope := w1 / 256 % 8, q := w1 / 2048 % 2, off := w1 / 4096 % 1048576 }

/-- The fields of format J (R46). -/
def jFields (w0 w1 : Nat) : JArgs :=
  { d := w0 / 16384 % 64, a := w0 / 1048576 % 64, b := w0 / 67108864 % 64, off := w1 % 4294967296 }

/-! ## The maps -/

/-- The 8-byte A-stream map (R56, R57): the assigned, retired and implemented hint entries. -/
def mapA8 (op fn : Nat) (r : RArgs) (i : IArgs) (m : MArgs) (j : JArgs) : Option Instr :=
  match op with
  | 1 =>
    match fn with
    | 0 => some (.nop)
    | _ => none
  | 2 =>
    match fn with
    | 0 => some (.ialuAdd r)
    | 1 => some (.ialuSub r)
    | 2 => some (.ialuAnd r)
    | 3 => some (.ialuOr r)
    | 4 => some (.ialuXor r)
    | 5 => some (.ialuAndn r)
    | 6 => some (.ialuShl r)
    | 7 => some (.ialuShr r)
    | 8 => some (.ialuSar r)
    | 9 => some (.ialuRotl r)
    | 10 => some (.ialuMin r)
    | 11 => some (.ialuMax r)
    | 12 => some (.ialuMinn r)
    | 13 => some (.ialuMaxn r)
    | 14 => some (.ialuAddsat r)
    | 15 => some (.ialuSubsat r)
    | _ => none
  | 3 =>
    match fn with
    | 0 => some (.ialuiAdd i)
    | 1 => some (.ialuiSub i)
    | 2 => some (.ialuiAnd i)
    | 3 => some (.ialuiOr i)
    | 4 => some (.ialuiXor i)
    | 5 => some (.ialuiAndn i)
    | 6 => some (.ialuiShl i)
    | 7 => some (.ialuiShr i)
    | 8 => some (.ialuiSar i)
    | 9 => some (.ialuiRotl i)
    | 10 => some (.ialuiMin i)
    | 11 => some (.ialuiMax i)
    | 12 => some (.ialuiMinn i)
    | 13 => some (.ialuiMaxn i)
    | 14 => some (.ialuiAddsat i)
    | 15 => some (.ialuiSubsat i)
    | _ => none
  | 4 =>
    match fn with
    | 0 => some (.imulMul r)
    | 1 => some (.imulMulhs r)
    | 2 => some (.imulMulhn r)
    | 3 => some (.imulMadd r)
    | 4 => some (.imulMsub r)
    | 5 => some (.imulDivs r)
    | 6 => some (.imulDivn r)
    | 7 => some (.imulRems r)
    | 8 => some (.imulRemn r)
    | _ => none
  | 5 => if fn ≤ 5 then some (.icmp fn r) else none
  | 6 => if fn ≤ 5 then some (.icmpi fn i) else none
  | 7 =>
    match fn with
    | 0 => some (.bitsClz r)
    | 1 => some (.bitsCtz r)
    | 2 => some (.bitsPopc r)
    | 3 => some (.bitsBrev r)
    | 4 => some (.bitsBswap r)
    | 5 => some (.bitsSext r)
    | 6 => some (.bitsZext r)
    | 7 => some (.bitsBfx r)
    | 8 => some (.bitsBfi r)
    | _ => none
  | 8 =>
    match fn with
    | 0 => some (.sel r)
    | _ => none
  | 9 =>
    match fn with
    | 0 => some (.liLi i)
    | 1 => some (.liLih i)
    | 2 => some (.liAddpc i)
    | _ => none
  | 10 =>
    match fn with
    | 0 => some (.laneLive r)
    | 1 => some (.laneLframe r)
    | 2 => some (.laneLkey r)
    | 3 => some (.laneLmask r)
    | 4 => some (.laneVcore r)
    | 5 => some (.laneThread r)
    | _ => none
  | 16 => if fn ≤ 5 then some (.br fn j) else none
  | 17 =>
    match fn with
    | 0 => some (.jmpJmp j)
    | 1 => some (.jmpCall j)
    | 2 => some (.jmpJmpr j)
    | 3 => some (.jmpCallr j)
    | 4 => some (.jmpCalll j)
    | 5 => some (.jmpRet j)
    | _ => none
  | 24 => some (.bind fn r)
  | 25 => if fn ≤ 6 then some (.binde fn r) else none
  | 26 =>
    match fn with
    | 0 => some (.linkUnbind r)
    | 1 => some (.linkUnbindall r)
    | 2 => some (.linkLinkrd r)
    | 3 => some (.linkLinkstat r)
    | _ => none
  | 32 => if fn ≤ 6 then some (.ld fn m) else none
  | 33 => if fn ≤ 3 then some (.st fn m) else none
  | 34 => if fn ≤ 4 then some (.vlq fn m) else none
  | 35 => if fn ≤ 0 then some (.vsq fn m) else none
  | 36 => if fn ≤ 4 then some (.gathq fn m) else none
  | 37 => if fn ≤ 0 then some (.scatq fn m) else none
  | 38 =>
    match fn with
    | 0 => some (.atomqAdd m)
    | 1 => some (.atomqAnd m)
    | 2 => some (.atomqOr m)
    | 3 => some (.atomqXor m)
    | 4 => some (.atomqMin m)
    | 5 => some (.atomqMax m)
    | 6 => some (.atomqMinn m)
    | 7 => some (.atomqMaxn m)
    | _ => none
  | 39 =>
    match fn with
    | 0 => some (.qopQpushs r)
    | 1 => some (.qopQpops r)
    | 2 => some (.qopQcnt r)
    | 3 => some (.qopXsync r)
    | _ => none
  | 40 =>
    match fn with
    | 0 => some (.atomAdd r)
    | 1 => some (.atomAnd r)
    | 2 => some (.atomOr r)
    | 3 => some (.atomXor r)
    | 4 => some (.atomMin r)
    | 5 => some (.atomMax r)
    | 6 => some (.atomMinn r)
    | 7 => some (.atomMaxn r)
    | 8 => some (.atomSwap r)
    | _ => none
  | 41 =>
    match fn with
    | 0 => some (.cas r)
    | _ => none
  | 42 =>
    match fn with
    | 0 => some (.fenceAcq r)
    | 1 => some (.fenceRel r)
    | 2 => some (.fenceFull r)
    | _ => none
  | 43 => if fn ≤ 2 then some (.waitw fn r) else none
  | 44 =>
    match fn with
    | 0 => some (.holdHand r)
    | 1 => some (.holdTake r)
    | 2 => some (.holdHoldq r)
    | 3 => some (.holdSeal r)
    | _ => none
  | 45 =>
    match fn with
    | 0 => some (.waitkWait r)
    | 1 => some (.waitkTest r)
    | 2 => some (.waitkClearerr r)
    | _ => none
  | 46 =>
    match fn with
    | 0 => some (.freeb r)
    | _ => none
  | 48 =>
    match fn with
    | 0 => some (.ctlCtlrd r)
    | 1 => some (.ctlCtlwr r)
    | 2 => some (.ctlCtlset r)
    | 3 => some (.ctlCtlclr r)
    | _ => none
  | 49 =>
    match fn with
    | 0 => some (.trapTrap r)
    | 1 => some (.trapBrk r)
    | 2 => some (.trapResume)
    | _ => none
  | 50 =>
    match fn with
    | 0 => some (.ppt i)
    | _ => none
  | 56 =>
    match fn with
    | 0 => some (.gwGwset r)
    | 1 => some (.gwGwclr r)
    | 2 => some (.gwGwver r)
    | _ => none
  | 64 =>
    match fn with
    | 1 => some (.taskTail r)
    | 2 => some (.taskJoin r)
    | 0 => some (.taskDone)
    | 3 => some (.taskYield)
    | _ => none
  | 72 =>
    match fn with
    | 2 => some (.mxMclr r)
    | 4 => some (.mxMstat r)
    | 0 => some (.mxMbegin)
    | 1 => some (.mxMend)
    | 3 => some (.mxMwait)
    | _ => none
  | 96 => some (.ldp fn m)
  | 97 => some (.mma8 fn r)
  | 98 => some (.bindx fn r)
  | 112 => some (.hpref fn m)
  | 113 => some (.hprio fn i)
  | 114 => some (.hgather fn r)
  | _ => none

/-- The 12-byte A-stream map (R56, R57): the assigned, retired and implemented hint entries. -/
def mapA12 (op fn : Nat) (r : RArgs) (i : IArgs) (e : Nat) : Option Instr :=
  match op with
  | 9 =>
    match fn with
    | 0 => some (.li64 (.mk i e))
    | _ => none
  | 24 => some (.bindImm fn (.mk r e))
  | _ => none

/-- The 16-byte A-stream map (R56, R57): the assigned, retired and implemented hint entries. -/
def mapA16 (op fn : Nat) (r : RArgs) (e : Nat) : Option Instr :=
  match op with
  | 1 => if fn ≤ 5 then some (.spawn fn (.mk r e)) else none
  | 2 =>
    match fn with
    | 6 => some (.spawnq (.mk r e))
    | _ => none
  | 8 => if fn ≤ 7 then some (.copy fn (.mk r e)) else none
  | 9 => if fn ≤ 3 then some (.copym fn (.mk r e)) else none
  | 16 => if fn ≤ 1 then some (.mloadw fn (.mk r e)) else none
  | 17 => if fn ≤ 1 then some (.mstream fn (.mk r e)) else none
  | 18 => if fn ≤ 5 then some (.mread fn (.mk r e)) else none
  | 19 =>
    match fn with
    | 0 => some (.maddraw (.mk r e))
    | _ => none
  | 20 => some (.mtile fn (.mk r e))
  | 21 =>
    match fn with
    | 0 => some (.mcmd (.mk r e))
    | _ => none
  | 24 => if fn ≤ 1 then some (.rload fn (.mk r e)) else none
  | 25 =>
    match fn with
    | 0 => some (.rstepSync (.mk r e))
    | 1 => some (.rstepCheq (.mk r e))
    | _ => none
  | _ => none

/-- The 8-byte E-stream map (R56, R57): the assigned, retired and implemented hint entries. -/
def mapE8 (op fn : Nat) (r : RArgs) (_i : IArgs) (_m : MArgs) (_j : JArgs) : Option Instr :=
  match op with
  | 1 =>
    match fn with
    | 0 => some (.enop)
    | _ => none
  | 2 =>
    match fn with
    | 0 => some (.vialuAdd r)
    | 1 => some (.vialuSub r)
    | 2 => some (.vialuAnd r)
    | 3 => some (.vialuOr r)
    | 4 => some (.vialuXor r)
    | 5 => some (.vialuAndn r)
    | 6 => some (.vialuShl r)
    | 7 => some (.vialuShr r)
    | 8 => some (.vialuSar r)
    | 9 => some (.vialuMin r)
    | 10 => some (.vialuMax r)
    | 11 => some (.vialuMinn r)
    | 12 => some (.vialuMaxn r)
    | 13 => some (.vialuAddsat r)
    | 14 => some (.vialuSubsat r)
    | _ => none
  | 4 =>
    match fn with
    | 0 => some (.vimulMul r)
    | 1 => some (.vimulMulhs r)
    | 2 => some (.vimulMulhn r)
    | 3 => some (.vimulMadd r)
    | 4 => some (.vimulDot4 r)
    | 5 => some (.vimulDot2 r)
    | _ => none
  | 5 => if fn ≤ 5 then some (.vicmp fn r) else none
  | 6 =>
    match fn with
    | 0 => some (.vfaluAdd r)
    | 1 => some (.vfaluSub r)
    | 2 => some (.vfaluMul r)
    | 3 => some (.vfaluMin r)
    | 4 => some (.vfaluMax r)
    | 5 => some (.vfaluAbs r)
    | 6 => some (.vfaluNeg r)
    | 7 => some (.vfaluCpsgn r)
    | _ => none
  | 7 =>
    match fn with
    | 0 => some (.vfmaFma r)
    | 1 => some (.vfmaFms r)
    | 2 => some (.vfmaFnma r)
    | 3 => some (.vfmaFnms r)
    | _ => none
  | 8 =>
    match fn with
    | 0 => some (.vfuncDiv r)
    | 1 => some (.vfuncSqrt r)
    | 2 => some (.vfuncRcp r)
    | 3 => some (.vfuncRsqrt r)
    | 4 => some (.vfuncExp2 r)
    | 5 => some (.vfuncLog2 r)
    | _ => none
  | 9 => if fn ≤ 4 then some (.vfcmp fn r) else none
  | 10 => if fn ≤ 8 then some (.vcvt fn r) else none
  | 11 =>
    match fn with
    | 0 => some (.vmxMxq r)
    | 1 => some (.vmxPlane r)
    | 2 => some (.vmxUnplane r)
    | 3 => some (.vmxMxdq r)
    | _ => none
  | 12 =>
    match fn with
    | 0 => some (.vmaskMand r)
    | 1 => some (.vmaskMor r)
    | 2 => some (.vmaskMxor r)
    | 3 => some (.vmaskMandn r)
    | 4 => some (.vmaskMnot r)
    | 5 => some (.vmaskMpopc r)
    | 6 => some (.vmaskMfirst r)
    | 7 => some (.vmaskMset r)
    | _ => none
  | 13 =>
    match fn with
    | 0 => some (.vpermShuf r)
    | 1 => some (.vpermSlideup r)
    | 2 => some (.vpermSlidedn r)
    | 3 => some (.vpermBcast r)
    | 4 => some (.vpermRev r)
    | 5 => some (.vpermZiplo r)
    | 6 => some (.vpermZiphi r)
    | 7 => some (.vpermIota r)
    | _ => none
  | 14 =>
    match fn with
    | 0 => some (.vredIadd r)
    | 1 => some (.vredImin r)
    | 2 => some (.vredImax r)
    | 3 => some (.vredIand r)
    | 4 => some (.vredIor r)
    | 5 => some (.vredFadd r)
    | 6 => some (.vredFmax r)
    | 7 => some (.vredFmin r)
    | _ => none
  | 15 =>
    match fn with
    | 0 => some (.vmovMov r)
    | 1 => some (.vmovSel r)
    | 2 => some (.vmovQpush r)
    | 3 => some (.vmovQpop r)
    | _ => none
  | 16 =>
    match fn with
    | 0 => some (.xaccXacc r)
    | 1 => some (.xaccXacci r)
    | 2 => some (.xaccXrnd r)
    | _ => none
  | 24 => some (.vbind fn r)
  | 25 => if fn ≤ 6 then some (.vbinde fn r) else none
  | 26 =>
    match fn with
    | 0 => some (.vlinkUnbind r)
    | 1 => some (.vlinkUnbindall r)
    | 2 => some (.vlinkLinkrd r)
    | 3 => some (.vlinkLinkstat r)
    | _ => none
  | 96 => some (.vlde fn r)
  | 97 => some (.vste fn r)
  | 98 => some (.vdotq fn r)
  | _ => none

/-- The 12-byte E-stream map (R56, R57): the assigned, retired and implemented hint entries. -/
def mapE12 (op fn : Nat) (r : RArgs) (_i : IArgs) (e : Nat) : Option Instr :=
  match op with
  | 2 => if fn ≤ 14 then some (.vialuImm fn (.mk r e)) else none
  | 6 => if fn ≤ 7 then some (.vfaluImm fn (.mk r e)) else none
  | 7 => if fn ≤ 3 then some (.vfmaImm fn (.mk r e)) else none
  | _ => none


/-- The instruction of an entry of the maps, with the words beyond word 1 as one number `e` (R54, R56, R57). `none` is
an entry that traps with ILLEGAL_OPCODE: 0x00, an unassigned major, or an FN that its major does not list (R55). -/
def entryOf (w0 w1 e : Nat) : Option Instr :=
  let op := opOf w0
  let fn := fnOf w0
  let r := rFields w0 w1
  let hint : Option Instr :=
    if 112 ≤ op then some (.hintNop { len := lenOf w0, st := stOf w0, op := op, fn := fn, r := r, ext := e }) else none
  match lenOf w0, stOf w0 with
  | 0, 0 => (mapA8 op fn r (iFields w0 w1) (mFields w0 w1) (jFields w0 w1)).or hint
  | 0, _ => (mapE8 op fn r (iFields w0 w1) (mFields w0 w1) (jFields w0 w1)).or hint
  | 1, 0 => (mapA12 op fn r (iFields w0 w1) e).or hint
  | 1, _ => (mapE12 op fn r (iFields w0 w1) e).or hint
  | 2, 0 => (mapA16 op fn r e).or hint
  | _, _ => hint

/-! ## Reserved fields, queue directions and read-only destinations (R47 to R53) -/

/-- The first of a list of conditions that holds, as its fault. -/
def firstErr : List (Bool × Cause × Nat) → Option DecErr
  | [] => none
  | (b, c, n) :: rest => if b then some ⟨c, n⟩ else firstErr rest

/-- A field or combination that must not be (R53). -/
def rsv (b : Bool) : Bool × Cause × Nat := (b, .reservedField, 0)
/-- A queue field that must lie in `lo .. lo + 3` (R52). -/
def dir (b : Bool) (q lo : Nat) : Bool × Cause × Nat := (b && !(decide (lo ≤ q) && decide (q < lo + 4)), .queueDirection, q)
/-- m0 as a destination (R51). -/
def ro (b : Bool) : Bool × Cause × Nat := (b, .readonlyReg, 0)

def nz (n : Nat) : Bool := decide (n ≠ 0)
/-- A rounding mode that R47 assigns, other than STOCH. -/
def rmPlain (rm : Nat) : Bool := decide (rm ≤ 4) || decide (rm = 15)
/-- A rounding mode that R47 assigns. -/
def rmAny (rm : Nat) : Bool := decide (rm ≤ 5) || decide (rm = 15)

/-- ORD and SCOPE of a load or store: plain with SCOPE 0, or the ordering `o` with SCOPE 0 to 4 (R142). -/
def badOrd (o ord scope : Nat) : Bool :=
  !((decide (ord = 0) && decide (scope = 0)) || (decide (ord = o) && decide (scope ≤ 4)))

/-- The integer forms of R130 to R132 with a third field `c` allowed or not. -/
def intR (r : RArgs) (useC : Bool) : Option DecErr :=
  firstErr [rsv (decide (1 < r.ty)), rsv (!useC && nz r.c), rsv (nz r.msk), rsv (nz r.rm), rsv (nz r.x16)]

def intI (i : IArgs) : Option DecErr := firstErr [rsv (nz (i.b / 8)), rsv (decide (1 < i.b % 8))]

/-- The operation width of an A-stream TY (R47). -/
def widthOf (ty : Nat) : Nat := if ty = 1 then 32 else 64

/-- BITS with no position or length (R134). -/
def bitsPlain (r : RArgs) : Option DecErr :=
  firstErr [rsv (decide (1 < r.ty)), rsv (nz r.b), rsv (nz r.c), rsv (nz r.msk), rsv (nz r.rm), rsv (nz r.x16)]

/-- BITS with LEN, and POS where `usePos` (R133, R134). -/
def bitsField (r : RArgs) (usePos useB : Bool) : Option DecErr :=
  let len := r.x16 / 64 % 128
  let pos := r.x16 % 64
  firstErr [rsv (decide (1 < r.ty)), rsv (!useB && nz r.b), rsv (nz r.c), rsv (nz r.msk), rsv (nz r.rm),
    rsv (nz (r.x16 / 8192)), rsv (decide (len = 0)), rsv (decide (widthOf r.ty < len)), rsv (!usePos && nz pos),
    rsv (decide (widthOf r.ty < pos + len))]

def laneR (r : RArgs) (useL : Bool) : Option DecErr :=
  firstErr [rsv (nz r.a), rsv (nz r.b), rsv (nz r.c), rsv (nz r.ty), rsv (nz r.rm), rsv (nz r.msk),
    rsv (if useL then nz (r.x16 / 32) else nz r.x16)]

/-- JMP with a register target: OFF32 is reserved (R139). -/
def jmpReg (j : JArgs) (link : Bool) : Option DecErr :=
  firstErr [rsv (!link && nz j.d), rsv (nz j.b), rsv (nz j.off)]

def queueM (m : MArgs) (load gather : Bool) : Option DecErr :=
  firstErr [rsv (decide (m.q ≠ 1)), rsv (decide (8 ≤ m.d)), rsv (gather && decide (8 ≤ m.b)),
    rsv (!gather && decide (m.b = 0) && nz m.sc), rsv (gather && !load && decide (m.b = m.d)),
    rsv (if load then nz m.sz else decide (2 < m.sz)), rsv (badOrd (if load then 1 else 2) m.ord m.scope),
    dir true m.d (if load then 0 else 4), dir gather m.b 4]

def atomqM (m : MArgs) : Option DecErr :=
  firstErr [rsv (decide (m.q ≠ 1)), rsv (decide (m.sz ≠ 2)), rsv (decide (8 ≤ m.d)), rsv (decide (8 ≤ m.b)), rsv (decide (m.b = m.d)),
    rsv (!(decide (m.ord = 0) || decide (m.ord = 2))), rsv (decide (4 < m.scope)), dir true m.d 4, dir true m.b 4]

def qopR (r : RArgs) : List (Bool × Cause × Nat) :=
  [rsv (nz r.b), rsv (nz r.c), rsv (nz r.msk), rsv (nz r.rm), rsv (nz r.x16)]

def ctlR (r : RArgs) (useA : Bool) : Option DecErr :=
  firstErr [rsv (!useA && nz r.a), rsv (nz r.b), rsv (nz r.c), rsv (nz r.msk), rsv (nz r.ty), rsv (nz r.rm)]

/-- BIND and VBIND (R169). -/
def bindR (fn : Nat) (r : RArgs) (imm : Bool) : Option DecErr :=
  firstErr [rsv (nz r.ty), rsv (nz r.rm), rsv (nz r.msk), rsv (nz (r.x16 / 4096)),
    rsv (decide (fn ≠ 3) && nz (r.x16 / 64 % 64)), rsv (decide (3 < fn) && nz (r.x16 / 32 % 2)),
    rsv (!(decide (fn = 2) || decide (fn = 6) || decide (fn = 14)) && nz r.c), rsv (decide (fn = 15) && (imm || nz r.b)),
    rsv (imm && nz r.b)]

/-- BINDE and VBINDE (R171). -/
def bindeR (fn : Nat) (r : RArgs) : Option DecErr :=
  firstErr [rsv (nz r.c), rsv (nz r.ty), rsv (nz r.rm), rsv (nz r.msk), rsv (nz (r.x16 / 64)),
    rsv (!(decide (fn = 0) || decide (fn = 1) || decide (fn = 4)) && nz (r.x16 / 32 % 2))]

/-- LINK and VLINK (R172). -/
def linkR (r : RArgs) (useD useSlot : Bool) : Option DecErr :=
  firstErr [rsv (!useD && nz r.d), rsv (nz r.a), rsv (nz r.b), rsv (nz r.c), rsv (nz r.ty), rsv (nz r.rm), rsv (nz r.msk),
    rsv (if useSlot then nz (r.x16 / 32) else nz r.x16)]

/-- ATOM and CAS (R276). -/
def atomR (r : RArgs) (useC : Bool) : Option DecErr :=
  firstErr [rsv (!useC && nz r.c), rsv (nz r.ty), rsv (nz r.rm), rsv (nz r.msk), rsv (nz (r.x16 / 64)), rsv (decide (3 < r.x16 % 8)),
    rsv (decide (4 < r.x16 / 8 % 8))]

def fenceR (r : RArgs) : Option DecErr :=
  firstErr [rsv (nz r.d), rsv (nz r.a), rsv (nz r.b), rsv (nz r.c), rsv (nz r.ty), rsv (nz r.rm), rsv (nz r.msk), rsv (nz (r.x16 % 8)),
    rsv (nz (r.x16 / 64)), rsv (decide (4 < r.x16 / 8 % 8))]

def waitwR (r : RArgs) : Option DecErr :=
  firstErr [rsv (nz r.c), rsv (nz r.ty), rsv (nz r.rm), rsv (nz r.msk), rsv (decide (r.x16 % 8 ≠ 1)), rsv (nz (r.x16 / 64)),
    rsv (decide (4 < r.x16 / 8 % 8))]

/-- HOLD: HAND, TAKE and SEAL take SCOPE 3 or 4 (R284). -/
def holdR (r : RArgs) (useD useB useScope : Bool) : Option DecErr :=
  firstErr [rsv (!useD && nz r.d), rsv (!useB && nz r.b), rsv (nz r.c), rsv (nz r.ty), rsv (nz r.rm), rsv (nz r.msk),
    rsv (if useScope then !(decide (r.x16 = 24) || decide (r.x16 = 32)) else nz r.x16)]

def waitkR (r : RArgs) (useD : Bool) : Option DecErr :=
  firstErr [rsv (!useD && nz r.d), rsv (nz r.a), rsv (nz r.b), rsv (nz r.c), rsv (nz r.ty), rsv (nz r.rm), rsv (nz r.msk),
    rsv (nz (r.x16 / 256))]

/-- Every field zero but those that the flags allow. -/
def onlyR (r : RArgs) (useD useA useB useC useMk useX : Bool) : Option DecErr :=
  firstErr [rsv (!useD && nz r.d), rsv (!useA && nz r.a), rsv (!useB && nz r.b), rsv (!useC && nz r.c), rsv (!useMk && nz r.msk),
    rsv (nz r.ty), rsv (nz r.rm), rsv (!useX && nz r.x16)]

/-- The queue operands A and B of the E-stream majors (R177): `al` holds the bits of X16 2:0 that the major allows. -/
def vq (r : RArgs) (al : Nat) : List (Bool × Cause × Nat) :=
  let bq := decide (r.x16 % 2 = 1)
  let aq := decide (r.x16 / 4 % 2 = 1)
  [rsv (bq && decide (al % 2 = 0)), rsv (decide (r.x16 / 2 % 2 = 1) && decide (al / 2 % 2 = 0)), rsv (aq && decide (al / 4 % 2 = 0)),
    rsv (bq && decide (8 ≤ r.b)), rsv (aq && decide (8 ≤ r.a)), rsv (aq && bq && decide (r.a = r.b)), dir aq r.a 0, dir bq r.b 0]

/-- An integer or float E-stream major: `extra` are its own reserved conditions, checked with the others. -/
def vmaj (r : RArgs) (al : Nat) (extra : List (Bool × Cause × Nat)) (tail : List (Bool × Cause × Nat)) : Option DecErr :=
  firstErr (extra ++ vq r al ++ tail)

/-- VIALU, VIMUL, VICMP (R179). -/
def vint (r : RArgs) (useC : Bool) : Option DecErr :=
  vmaj r 7 [rsv (decide (2 < r.ty)), rsv (nz r.rm), rsv (!useC && nz r.c), rsv (nz (r.x16 / 8))] []

/-- A compare into a mask register (R179, R51). -/
def vcmp (r : RArgs) : Option DecErr :=
  vmaj r 7 [rsv (decide (2 < r.ty)), rsv (nz r.rm), rsv (nz r.c), rsv (nz (r.x16 / 8)), rsv (decide (8 ≤ r.d))] [ro (decide (r.d = 0))]

/-- VFALU, VFMA and VFUNC: `okRm` says whether the RM field is allowed (R186 to R188). -/
def vflt (r : RArgs) (al : Nat) (okRm useB useC : Bool) : Option DecErr :=
  vmaj r al [rsv (decide (2 < r.ty)), rsv (!okRm), rsv (!useB && nz r.b), rsv (!useC && nz r.c), rsv (nz (r.x16 / 8))] []

/-- The element counts of VCVT's sources and destinations (R191). -/
def cvtCount : Nat → Nat → Nat
  | fn, ty => if ty = 0 then (match fn with | 0 => 1 | 1 => 2 | 2 => 2 | 3 => 4 | 4 => 4 | 5 => 1 | 6 => 1 | 7 => 2 | _ => 4)
      else (match fn with | 0 => 1 | 1 => 2 | 2 => 2 | 3 => 4 | 4 => 4 | 5 => 1 | 6 => 2 | _ => 4)
def cvtSrcCount (fn : Nat) : Nat := cvtCount fn 0
def cvtDstCount (ty : Nat) : Nat := cvtCount ty 1

def vcvtR (fn : Nat) (r : RArgs) : Option DecErr :=
  let nS := cvtSrcCount fn
  let nD := cvtDstCount r.ty
  let ratio := max nS nD / min nS nD
  let float := decide (r.ty ≤ 4) || decide (fn ≤ 4)
  vmaj r 4 [rsv (nz r.b), rsv (nz (r.x16 / 64)), rsv (decide (ratio ≤ r.x16 / 8 % 4)),
    rsv (decide (r.x16 / 32 % 2 = 1) && !(decide (r.ty = 3) || decide (r.ty = 4))),
    rsv (if float then !rmAny r.rm else nz r.rm), rsv (!(decide (r.rm = 5) || decide (r.rm = 15)) && nz r.c),
    rsv (decide (r.rm = 5) && decide (min nS nD = 4))] []

/-- VMX (R193 to R195): `lo` is the least p. -/
def vmxR (r : RArgs) (mxq evenA : Bool) (lo : Nat) : Option DecErr :=
  let p := r.x16 / 16 % 32
  firstErr [rsv (nz r.ty), rsv (nz r.b), rsv (nz (r.x16 % 16)), rsv (nz (r.x16 / 512)), rsv (decide (p < lo)), rsv (decide (16 < p)),
    rsv (if mxq then !rmAny r.rm else nz r.rm), rsv (mxq && decide (r.d % 2 = 1)), rsv (evenA && decide (r.a % 2 = 1)),
    rsv (!(mxq && (decide (r.rm = 5) || decide (r.rm = 15))) && nz r.c)]

/-- VMASK on mask registers (R196). -/
def vmaskR (r : RArgs) (useB : Bool) : Option DecErr :=
  firstErr [rsv (nz r.ty), rsv (nz r.rm), rsv (nz r.c), rsv (nz r.msk), rsv (nz r.x16), rsv (decide (8 ≤ r.d)), rsv (decide (8 ≤ r.a)),
    rsv (if useB then decide (8 ≤ r.b) else nz r.b), ro (decide (r.d = 0))]

/-- VPERM (R197): `al` the queue bits allowed. -/
def vpermR (r : RArgs) (al : Nat) (useA useB useN : Bool) : Option DecErr :=
  vmaj r al [rsv (nz r.ty), rsv (nz r.rm), rsv (nz r.c), rsv (!useA && nz r.a), rsv (!useB && nz r.b), rsv (nz (r.x16 / 8 % 2)),
    rsv (!useN && nz (r.x16 / 16 % 32)), rsv (nz (r.x16 / 512))] []

def vredR (r : RArgs) : Option DecErr :=
  firstErr [rsv (nz r.ty), rsv (nz r.rm), rsv (nz r.b), rsv (nz r.c), rsv (nz r.x16)]

def xaccR (r : RArgs) : Option DecErr :=
  firstErr [rsv (nz r.d), rsv (nz r.b), rsv (nz r.c), rsv (nz r.ty), rsv (nz r.rm), rsv (nz (r.x16 / 32768))]

/-- A 16-byte form: the reserved register fields, and the CMD64 bits of `bad`. -/
def cmdR (x : CArgs) (useD useA useB useC useMk okTy okRm useX bad : Bool) : Option DecErr :=
  firstErr [rsv (!useD && nz x.r.d), rsv (!useA && nz x.r.a), rsv (!useB && nz x.r.b), rsv (!useC && nz x.r.c),
    rsv (!useMk && nz x.r.msk), rsv (!okTy), rsv (!okRm), rsv (!useX && nz x.r.x16), rsv bad]

/-- The causes of R60 steps 7 and 8 and READONLY_REG (R180 step 2) that an instruction's fields raise. -/
def Instr.fieldFault : Instr → Option DecErr
  | .ialuAdd r | .ialuSub r | .ialuAnd r | .ialuOr r | .ialuXor r | .ialuAndn r | .ialuShl r | .ialuShr r | .ialuSar r | .ialuRotl r
  | .ialuMin r | .ialuMax r | .ialuMinn r | .ialuMaxn r | .ialuAddsat r | .ialuSubsat r => intR r false
  | .ialuiAdd i | .ialuiSub i | .ialuiAnd i | .ialuiOr i | .ialuiXor i | .ialuiAndn i | .ialuiShl i | .ialuiShr i | .ialuiSar i
  | .ialuiRotl i | .ialuiMin i | .ialuiMax i | .ialuiMinn i | .ialuiMaxn i | .ialuiAddsat i | .ialuiSubsat i => intI i
  | .imulMul r | .imulMulhs r | .imulMulhn r | .imulDivs r | .imulDivn r | .imulRems r | .imulRemn r => intR r false
  | .imulMadd r | .imulMsub r => intR r true
  | .icmp _ r => intR r false
  | .icmpi _ i => intI i
  | .bitsClz r | .bitsCtz r | .bitsPopc r | .bitsBrev r | .bitsBswap r => bitsPlain r
  | .bitsSext r | .bitsZext r => bitsField r false false
  | .bitsBfx r => bitsField r true false
  | .bitsBfi r => bitsField r true true
  | .sel r => onlyR r true true true true false false
  | .liLi i | .liAddpc i => firstErr [rsv (nz i.a), rsv (nz i.b)]
  | .liLih i => firstErr [rsv (nz i.b)]
  | .li64 l => firstErr [rsv (nz l.i.a), rsv (nz l.i.b)]
  | .laneLive r | .laneLmask r | .laneVcore r | .laneThread r => laneR r false
  | .laneLframe r | .laneLkey r => laneR r true
  | .br _ j => firstErr [rsv (nz j.d)]
  | .jmpJmp j => firstErr [rsv (nz j.d), rsv (nz j.a), rsv (nz j.b)]
  | .jmpCall j => firstErr [rsv (nz j.a), rsv (nz j.b)]
  | .jmpJmpr j | .jmpRet j => jmpReg j false
  | .jmpCallr j | .jmpCalll j => jmpReg j true
  | .ld _ m => firstErr [rsv (nz m.sz), rsv (nz m.q), rsv (badOrd 1 m.ord m.scope)]
  | .st _ m => firstErr [rsv (nz m.sz), rsv (nz m.q), rsv (badOrd 2 m.ord m.scope)]
  | .vlq _ m => queueM m true false
  | .vsq _ m => queueM m false false
  | .gathq _ m => queueM m true true
  | .scatq _ m => queueM m false true
  | .atomqAdd m | .atomqAnd m | .atomqOr m | .atomqXor m | .atomqMin m | .atomqMax m | .atomqMinn m | .atomqMaxn m => atomqM m
  | .qopQpushs r => firstErr (qopR r ++ [rsv (decide (1 < r.ty)), rsv (decide (8 ≤ r.d)), dir true r.d 0])
  | .qopQpops r => firstErr (qopR r ++ [rsv (decide (1 < r.ty)), rsv (decide (8 ≤ r.a)), dir true r.a 4])
  | .qopQcnt r => firstErr (qopR r ++ [rsv (nz r.ty), rsv (decide (8 ≤ r.a))])
  | .qopXsync r => firstErr (qopR r ++ [rsv (nz r.ty), rsv (nz r.d), rsv (nz r.a)])
  | .ctlCtlrd r => ctlR r false
  | .ctlCtlwr r | .ctlCtlset r | .ctlCtlclr r => ctlR r true
  | .bind fn r | .vbind fn r => bindR fn r false
  | .bindImm fn x => bindR fn x.r true
  | .binde fn r | .vbinde fn r => bindeR fn r
  | .linkUnbind r | .vlinkUnbind r => linkR r false true
  | .linkUnbindall r | .vlinkUnbindall r => linkR r false false
  | .linkLinkrd r | .vlinkLinkrd r => linkR r true true
  | .linkLinkstat r | .vlinkLinkstat r => linkR r true false
  | .atomAdd r | .atomAnd r | .atomOr r | .atomXor r | .atomMin r | .atomMax r | .atomMinn r | .atomMaxn r | .atomSwap r => atomR r false
  | .cas r => atomR r true
  | .fenceAcq r | .fenceRel r | .fenceFull r => fenceR r
  | .waitw _ r => waitwR r
  | .holdHand r => holdR r false true true
  | .holdTake r | .holdSeal r => holdR r false false true
  | .holdHoldq r => holdR r true false false
  | .waitkWait r | .waitkClearerr r => waitkR r false
  | .waitkTest r => waitkR r true
  | .freeb r => onlyR r false true false false false false
  | .trapTrap r | .trapBrk r => onlyR r false false false false false true
  | .ppt i => firstErr [rsv (nz i.d), rsv (nz i.a), rsv (nz i.b)]
  | .gwGwset r => onlyR r true true true false false true
  | .gwGwclr r | .gwGwver r => (onlyR r true false false false false true).or (firstErr [rsv (nz (r.x16 % 4096))])
  | .taskTail r => onlyR r false true true false true false
  | .taskJoin r => (onlyR r false true true false true true).or (firstErr [rsv (nz (r.x16 / 256))])
  | .spawn fn x => cmdR x true true (decide (fn = 5)) false true (!nz x.r.ty) (!nz x.r.rm) true (nz (x.r.x16 / 2))
  | .spawnq x => cmdR x true true true false true (!nz x.r.ty) (!nz x.r.rm) true (nz (x.r.x16 / 2))
  | .copy fn x => cmdR x (decide (fn < 4)) true true true true (decide (x.r.ty ≤ 4)) (!nz x.r.rm) false (nz (x.cmd / 2 ^ 36))
  | .copym _ x => cmdR x true true true true true (decide (x.r.ty ≤ 4)) (!nz x.r.rm) false (nz (x.cmd / 2 ^ 60))
  | .mxMclr r => (onlyR r false true true false false true).or (firstErr [rsv (nz (r.x16 / 2048))])
  | .mxMstat r => onlyR r true true false false false false
  | .mloadw _ x => cmdR x false true true false false (!nz x.r.ty) (!nz x.r.rm) false (nz (x.cmd / 2 ^ 18))
  | .mstream _ x => cmdR x true true true true false (!nz x.r.ty) (!nz x.r.rm) false
      (nz (x.cmd / 2 ^ 17) || nz (x.cmd / 2 ^ 11 % 32) || nz (x.cmd / 32 % 8))
  | .mread fn x => cmdR x true true true false false (!nz x.r.ty) (rmPlain x.r.rm && !(decide (fn = 5) && nz x.r.rm)) false
      (nz (x.cmd / 2 ^ 14))
  | .maddraw x => cmdR x true true false true false (!nz x.r.ty) (!nz x.r.rm) false (nz (x.cmd / 256))
  | .mtile _ x => cmdR x false true false false false (!nz x.r.ty) (!nz x.r.rm) false (nz x.cmd)
  | .mcmd x => cmdR x false true true true false (!nz x.r.ty) (!nz x.r.rm) false (nz (x.cmd / 4))
  | .rload _ x => cmdR x false true true false false (!nz x.r.ty) (!nz x.r.rm) false (nz (x.cmd / 256))
  | .rstepSync x | .rstepCheq x => cmdR x false true true false false (!nz x.r.ty) (!nz x.r.rm) false (nz x.cmd)
  | .vialuAdd r | .vialuSub r | .vialuAnd r | .vialuOr r | .vialuXor r | .vialuAndn r | .vialuShl r | .vialuShr r | .vialuSar r
  | .vialuMin r | .vialuMax r | .vialuMinn r | .vialuMaxn r | .vialuAddsat r | .vialuSubsat r => vint r false
  | .vialuImm _ x => vmaj x.r 4 [rsv (decide (2 < x.r.ty)), rsv (nz x.r.rm), rsv (nz x.r.b), rsv (nz x.r.c), rsv (nz (x.r.x16 / 8))] []
  | .vimulMul r | .vimulMulhs r | .vimulMulhn r => vint r false
  | .vimulMadd r => vint r true
  | .vimulDot4 r => (firstErr [rsv (decide (r.ty ≠ 2))]).or (vint r true)
  | .vimulDot2 r => (firstErr [rsv (decide (r.ty ≠ 1))]).or (vint r true)
  | .vicmp _ r | .vfcmp _ r => vcmp r
  | .vfaluAdd r | .vfaluSub r | .vfaluMul r => vflt r 7 (rmPlain r.rm) true false
  | .vfaluMin r | .vfaluMax r | .vfaluCpsgn r => vflt r 7 (!nz r.rm) true false
  | .vfaluAbs r | .vfaluNeg r => vflt r 4 (!nz r.rm) false false
  | .vfaluImm fn x => (firstErr [rsv (decide (fn = 5) || decide (fn = 6))]).or
      (vflt x.r 4 (if fn ≤ 2 then rmPlain x.r.rm else !nz x.r.rm) false false)
  | .vfmaFma r | .vfmaFms r | .vfmaFnma r | .vfmaFnms r => vflt r 7 (rmPlain r.rm) true true
  | .vfmaImm _ x => vflt x.r 7 (rmPlain x.r.rm) true false
  | .vfuncDiv r => vflt r 7 (rmPlain r.rm) true false
  | .vfuncSqrt r => vflt r 4 (rmPlain r.rm) false false
  | .vfuncRcp r | .vfuncRsqrt r | .vfuncExp2 r | .vfuncLog2 r => vflt r 4 (decide (r.rm = 0) || decide (r.rm = 15)) false false
  | .vcvt fn r => vcvtR fn r
  | .vmxMxq r => vmxR r true false 2
  | .vmxPlane r | .vmxUnplane r => vmxR r false false 1
  | .vmxMxdq r => vmxR r false true 1
  | .vmaskMand r | .vmaskMor r | .vmaskMxor r | .vmaskMandn r => vmaskR r true
  | .vmaskMnot r | .vmaskMfirst r => vmaskR r false
  | .vmaskMpopc r => firstErr [rsv (nz r.ty), rsv (nz r.rm), rsv (nz r.b), rsv (nz r.c), rsv (nz r.msk), rsv (nz r.x16), rsv (decide (8 ≤ r.a))]
  | .vmaskMset r => vmaj r 4 [rsv (nz r.ty), rsv (nz r.rm), rsv (nz r.b), rsv (nz r.c), rsv (nz r.msk), rsv (nz (r.x16 / 8)),
      rsv (decide (8 ≤ r.d))] [ro (decide (r.d = 0))]
  | .vpermShuf r | .vpermZiplo r | .vpermZiphi r => vpermR r 7 true true false
  | .vpermSlideup r | .vpermSlidedn r => vpermR r 7 true true true
  | .vpermBcast r => vpermR r 4 true false true
  | .vpermRev r => vpermR r 4 true false false
  | .vpermIota r => vpermR r 0 false false false
  | .vredIadd r | .vredImin r | .vredImax r | .vredIand r | .vredIor r | .vredFadd r | .vredFmax r | .vredFmin r => vredR r
  | .vmovMov r => vmaj r 4 [rsv (nz r.ty), rsv (nz r.rm), rsv (nz r.b), rsv (nz r.c), rsv (nz (r.x16 / 8))] []
  | .vmovSel r => vmaj r 7 [rsv (nz r.ty), rsv (nz r.rm), rsv (nz r.c), rsv (nz (r.x16 / 8))] []
  | .vmovQpush r => firstErr [rsv (nz r.ty), rsv (nz r.rm), rsv (nz r.b), rsv (nz r.c), rsv (nz r.x16), rsv (decide (8 ≤ r.d)), dir true r.d 4]
  | .vmovQpop r => firstErr [rsv (nz r.ty), rsv (nz r.rm), rsv (nz r.b), rsv (nz r.x16), rsv (decide (8 ≤ r.c)), rsv (decide (8 ≤ r.a)),
      dir true r.a 0]
  | .xaccXacc r | .xaccXacci r => xaccR r
  | .xaccXrnd r => firstErr [rsv (nz r.a), rsv (nz r.b), rsv (nz r.c), rsv (nz r.ty), rsv (!rmPlain r.rm), rsv (nz (r.x16 / 32768))]
  | _ => none

/-- The instructions that use no field: every field of theirs is reserved (R53). -/
def Instr.zeroFields : Instr → Bool
  | .nop
  | .enop
  | .trapResume
  | .taskDone
  | .taskYield
  | .mxMbegin
  | .mxMend
  | .mxMwait => true
  | _ => false

/-- The decoder: words 0 and 1 and the words beyond as one number, to an instruction or the first cause of R60 steps 5, 7
and 8. (Retired majors decode: their trap is what they do, R59.) -/
def decode (w0 w1 e : Nat) : Except DecErr Instr :=
  match entryOf w0 w1 e with
  | none => .error ⟨.illegalOpcode, 0⟩
  | some i =>
    if i.zeroFields && (nz (w0 / 16384 % 262144) || nz (w1 % 4294967296)) then .error ⟨.reservedField, 0⟩
    else
      match i.fieldFault with
      | some err => .error err
      | none => .ok i

/-! ## Fetching an instruction's bytes -/

/-- The little-endian number of a list of bytes (R5). -/
def leNat : List Byte → Nat
  | [] => 0
  | b :: bs => b.toNat + 256 * leNat bs

/-- `n` bytes of a number, little-endian (R5). -/
def leBytes : Nat → Nat → List Byte
  | 0, _ => []
  | n + 1, x => BitVec.ofNat 8 x :: leBytes n (x / 256)

/-- What stands at a place of the instruction stream: an instruction and its length, a pad word (R38), or a fault. -/
inductive Decoded where
  | instr (i : Instr) (len : Nat)
  | pad
  | fault (e : DecErr)
  deriving DecidableEq, Repr

/-- Decode from the bytes of one fetch block that begin at offset `off` of the block (R37 to R39, R60): total on any bytes, of
which missing ones read as zero. -/
def decodeAt (off : Nat) (bs : List Byte) : Decoded :=
  let w0 := leNat (bs.take 4)
  if w0 = 4294967295 then .pad
  else if lenOf w0 = 3 then .fault ⟨.illegalLength, 0⟩
  else if 32 < off + lengthOf (lenOf w0) then .fault ⟨.fetchCrossing, 0⟩
  else
    match decode w0 (leNat ((bs.drop 4).take 4)) (leNat ((bs.drop 8).take (4 * lenOf w0))) with
    | .ok i => .instr i (lengthOf (lenOf w0))
    | .error e => .fault e

/-- The stream that an instruction's ST names (R42): true for the E-stream. -/
def stBit (bs : List Byte) : Bool := decide (stOf (leNat (bs.take 4)) = 1)

/-! ## The encoder -/

def word0 (len st op fn d a b : Nat) : Nat :=
  len + 4 * st + 8 * op + 1024 * fn + 16384 * d + 1048576 * a + 67108864 * b
def rWord1 (r : RArgs) : Nat := r.c + 64 * r.msk + 512 * r.ty + 4096 * r.rm + 65536 * r.x16
def mWord1 (m : MArgs) : Nat := m.sc + 4 * m.sz + 32 * m.ord + 256 * m.scope + 2048 * m.q + 4096 * m.off

def rWords (len st op fn : Nat) (r : RArgs) : List Nat := [word0 len st op fn r.d r.a r.b, rWord1 r]
def iWords (len st op fn : Nat) (i : IArgs) : List Nat := [word0 len st op fn i.d i.a i.b, i.imm]
def mWords (len st op fn : Nat) (m : MArgs) : List Nat := [word0 len st op fn m.d m.a m.b, mWord1 m]
def jWords (len st op fn : Nat) (j : JArgs) : List Nat := [word0 len st op fn j.d j.a j.b, j.off]
def xWords (len st op fn : Nat) (x : XArgs) : List Nat := rWords len st op fn x.r ++ [x.ext]
def lWords (len st op fn : Nat) (l : LArgs) : List Nat := iWords len st op fn l.i ++ [l.ext]
def cWords (len st op fn : Nat) (x : CArgs) : List Nat := rWords len st op fn x.r ++ [x.cmd % 4294967296, x.cmd / 4294967296]
def zWords (len st op fn : Nat) : List Nat := [word0 len st op fn 0 0 0, 0]
def hWords (h : HArgs) : List Nat :=
  rWords h.len h.st h.op h.fn h.r ++
    (match h.len with | 1 => [h.ext] | 2 => [h.ext % 4294967296, h.ext / 4294967296] | _ => [])

/-- The words of an instruction (R37, R42 to R50), word 0 first. A row that is no instruction has none. -/
def encode : Instr → List Nat
  | .ialuAdd r => rWords 0 0 2 0 r
  | .ialuSub r => rWords 0 0 2 1 r
  | .ialuAnd r => rWords 0 0 2 2 r
  | .ialuOr r => rWords 0 0 2 3 r
  | .ialuXor r => rWords 0 0 2 4 r
  | .ialuAndn r => rWords 0 0 2 5 r
  | .ialuShl r => rWords 0 0 2 6 r
  | .ialuShr r => rWords 0 0 2 7 r
  | .ialuSar r => rWords 0 0 2 8 r
  | .ialuRotl r => rWords 0 0 2 9 r
  | .ialuMin r => rWords 0 0 2 10 r
  | .ialuMax r => rWords 0 0 2 11 r
  | .ialuMinn r => rWords 0 0 2 12 r
  | .ialuMaxn r => rWords 0 0 2 13 r
  | .ialuAddsat r => rWords 0 0 2 14 r
  | .ialuSubsat r => rWords 0 0 2 15 r
  | .ialuiAdd i => iWords 0 0 3 0 i
  | .ialuiSub i => iWords 0 0 3 1 i
  | .ialuiAnd i => iWords 0 0 3 2 i
  | .ialuiOr i => iWords 0 0 3 3 i
  | .ialuiXor i => iWords 0 0 3 4 i
  | .ialuiAndn i => iWords 0 0 3 5 i
  | .ialuiShl i => iWords 0 0 3 6 i
  | .ialuiShr i => iWords 0 0 3 7 i
  | .ialuiSar i => iWords 0 0 3 8 i
  | .ialuiRotl i => iWords 0 0 3 9 i
  | .ialuiMin i => iWords 0 0 3 10 i
  | .ialuiMax i => iWords 0 0 3 11 i
  | .ialuiMinn i => iWords 0 0 3 12 i
  | .ialuiMaxn i => iWords 0 0 3 13 i
  | .ialuiAddsat i => iWords 0 0 3 14 i
  | .ialuiSubsat i => iWords 0 0 3 15 i
  | .imulMul r => rWords 0 0 4 0 r
  | .imulMulhs r => rWords 0 0 4 1 r
  | .imulMulhn r => rWords 0 0 4 2 r
  | .imulMadd r => rWords 0 0 4 3 r
  | .imulMsub r => rWords 0 0 4 4 r
  | .imulDivs r => rWords 0 0 4 5 r
  | .imulDivn r => rWords 0 0 4 6 r
  | .imulRems r => rWords 0 0 4 7 r
  | .imulRemn r => rWords 0 0 4 8 r
  | .icmp fn r => rWords 0 0 5 fn r
  | .icmpi fn i => iWords 0 0 6 fn i
  | .bitsClz r => rWords 0 0 7 0 r
  | .bitsCtz r => rWords 0 0 7 1 r
  | .bitsPopc r => rWords 0 0 7 2 r
  | .bitsBrev r => rWords 0 0 7 3 r
  | .bitsBswap r => rWords 0 0 7 4 r
  | .bitsSext r => rWords 0 0 7 5 r
  | .bitsZext r => rWords 0 0 7 6 r
  | .bitsBfx r => rWords 0 0 7 7 r
  | .bitsBfi r => rWords 0 0 7 8 r
  | .sel r => rWords 0 0 8 0 r
  | .liLi i => iWords 0 0 9 0 i
  | .liLih i => iWords 0 0 9 1 i
  | .liAddpc i => iWords 0 0 9 2 i
  | .li64 l => lWords 1 0 9 0 l
  | .laneLive r => rWords 0 0 10 0 r
  | .laneLframe r => rWords 0 0 10 1 r
  | .laneLkey r => rWords 0 0 10 2 r
  | .laneLmask r => rWords 0 0 10 3 r
  | .laneVcore r => rWords 0 0 10 4 r
  | .laneThread r => rWords 0 0 10 5 r
  | .br fn j => jWords 0 0 16 fn j
  | .jmpJmp j => jWords 0 0 17 0 j
  | .jmpCall j => jWords 0 0 17 1 j
  | .jmpJmpr j => jWords 0 0 17 2 j
  | .jmpCallr j => jWords 0 0 17 3 j
  | .jmpCalll j => jWords 0 0 17 4 j
  | .jmpRet j => jWords 0 0 17 5 j
  | .ld fn m => mWords 0 0 32 fn m
  | .st fn m => mWords 0 0 33 fn m
  | .vlq fn m => mWords 0 0 34 fn m
  | .vsq fn m => mWords 0 0 35 fn m
  | .gathq fn m => mWords 0 0 36 fn m
  | .scatq fn m => mWords 0 0 37 fn m
  | .atomqAdd m => mWords 0 0 38 0 m
  | .atomqAnd m => mWords 0 0 38 1 m
  | .atomqOr m => mWords 0 0 38 2 m
  | .atomqXor m => mWords 0 0 38 3 m
  | .atomqMin m => mWords 0 0 38 4 m
  | .atomqMax m => mWords 0 0 38 5 m
  | .atomqMinn m => mWords 0 0 38 6 m
  | .atomqMaxn m => mWords 0 0 38 7 m
  | .qopQpushs r => rWords 0 0 39 0 r
  | .qopQpops r => rWords 0 0 39 1 r
  | .qopQcnt r => rWords 0 0 39 2 r
  | .qopXsync r => rWords 0 0 39 3 r
  | .ctlCtlrd r => rWords 0 0 48 0 r
  | .ctlCtlwr r => rWords 0 0 48 1 r
  | .ctlCtlset r => rWords 0 0 48 2 r
  | .ctlCtlclr r => rWords 0 0 48 3 r
  | .bind fn r => rWords 0 0 24 fn r
  | .bindImm fn x => xWords 1 0 24 fn x
  | .binde fn r => rWords 0 0 25 fn r
  | .linkUnbind r => rWords 0 0 26 0 r
  | .linkUnbindall r => rWords 0 0 26 1 r
  | .linkLinkrd r => rWords 0 0 26 2 r
  | .linkLinkstat r => rWords 0 0 26 3 r
  | .atomAdd r => rWords 0 0 40 0 r
  | .atomAnd r => rWords 0 0 40 1 r
  | .atomOr r => rWords 0 0 40 2 r
  | .atomXor r => rWords 0 0 40 3 r
  | .atomMin r => rWords 0 0 40 4 r
  | .atomMax r => rWords 0 0 40 5 r
  | .atomMinn r => rWords 0 0 40 6 r
  | .atomMaxn r => rWords 0 0 40 7 r
  | .atomSwap r => rWords 0 0 40 8 r
  | .cas r => rWords 0 0 41 0 r
  | .fenceAcq r => rWords 0 0 42 0 r
  | .fenceRel r => rWords 0 0 42 1 r
  | .fenceFull r => rWords 0 0 42 2 r
  | .waitw fn r => rWords 0 0 43 fn r
  | .holdHand r => rWords 0 0 44 0 r
  | .holdTake r => rWords 0 0 44 1 r
  | .holdHoldq r => rWords 0 0 44 2 r
  | .holdSeal r => rWords 0 0 44 3 r
  | .waitkWait r => rWords 0 0 45 0 r
  | .waitkTest r => rWords 0 0 45 1 r
  | .waitkClearerr r => rWords 0 0 45 2 r
  | .freeb r => rWords 0 0 46 0 r
  | .trapTrap r => rWords 0 0 49 0 r
  | .trapBrk r => rWords 0 0 49 1 r
  | .ppt i => iWords 0 0 50 0 i
  | .gwGwset r => rWords 0 0 56 0 r
  | .gwGwclr r => rWords 0 0 56 1 r
  | .gwGwver r => rWords 0 0 56 2 r
  | .taskTail r => rWords 0 0 64 1 r
  | .taskJoin r => rWords 0 0 64 2 r
  | .spawn fn x => cWords 2 0 1 fn x
  | .spawnq x => cWords 2 0 2 6 x
  | .copy fn x => cWords 2 0 8 fn x
  | .copym fn x => cWords 2 0 9 fn x
  | .mxMclr r => rWords 0 0 72 2 r
  | .mxMstat r => rWords 0 0 72 4 r
  | .mloadw fn x => cWords 2 0 16 fn x
  | .mstream fn x => cWords 2 0 17 fn x
  | .mread fn x => cWords 2 0 18 fn x
  | .maddraw x => cWords 2 0 19 0 x
  | .mtile fn x => cWords 2 0 20 fn x
  | .mcmd x => cWords 2 0 21 0 x
  | .rload fn x => cWords 2 0 24 fn x
  | .rstepSync x => cWords 2 0 25 0 x
  | .rstepCheq x => cWords 2 0 25 1 x
  | .hpref fn m => mWords 0 0 112 fn m
  | .hprio fn i => iWords 0 0 113 fn i
  | .hgather fn r => rWords 0 0 114 fn r
  | .hintNop h => hWords h
  | .ldp fn m => mWords 0 0 96 fn m
  | .mma8 fn r => rWords 0 0 97 fn r
  | .bindx fn r => rWords 0 0 98 fn r
  | .vlde fn r => rWords 0 1 96 fn r
  | .vste fn r => rWords 0 1 97 fn r
  | .vdotq fn r => rWords 0 1 98 fn r
  | .vbind fn r => rWords 0 1 24 fn r
  | .vbinde fn r => rWords 0 1 25 fn r
  | .vlinkUnbind r => rWords 0 1 26 0 r
  | .vlinkUnbindall r => rWords 0 1 26 1 r
  | .vlinkLinkrd r => rWords 0 1 26 2 r
  | .vlinkLinkstat r => rWords 0 1 26 3 r
  | .vialuAdd r => rWords 0 1 2 0 r
  | .vialuSub r => rWords 0 1 2 1 r
  | .vialuAnd r => rWords 0 1 2 2 r
  | .vialuOr r => rWords 0 1 2 3 r
  | .vialuXor r => rWords 0 1 2 4 r
  | .vialuAndn r => rWords 0 1 2 5 r
  | .vialuShl r => rWords 0 1 2 6 r
  | .vialuShr r => rWords 0 1 2 7 r
  | .vialuSar r => rWords 0 1 2 8 r
  | .vialuMin r => rWords 0 1 2 9 r
  | .vialuMax r => rWords 0 1 2 10 r
  | .vialuMinn r => rWords 0 1 2 11 r
  | .vialuMaxn r => rWords 0 1 2 12 r
  | .vialuAddsat r => rWords 0 1 2 13 r
  | .vialuSubsat r => rWords 0 1 2 14 r
  | .vialuImm fn x => xWords 1 1 2 fn x
  | .vimulMul r => rWords 0 1 4 0 r
  | .vimulMulhs r => rWords 0 1 4 1 r
  | .vimulMulhn r => rWords 0 1 4 2 r
  | .vimulMadd r => rWords 0 1 4 3 r
  | .vimulDot4 r => rWords 0 1 4 4 r
  | .vimulDot2 r => rWords 0 1 4 5 r
  | .vicmp fn r => rWords 0 1 5 fn r
  | .vfaluAdd r => rWords 0 1 6 0 r
  | .vfaluSub r => rWords 0 1 6 1 r
  | .vfaluMul r => rWords 0 1 6 2 r
  | .vfaluMin r => rWords 0 1 6 3 r
  | .vfaluMax r => rWords 0 1 6 4 r
  | .vfaluAbs r => rWords 0 1 6 5 r
  | .vfaluNeg r => rWords 0 1 6 6 r
  | .vfaluCpsgn r => rWords 0 1 6 7 r
  | .vfaluImm fn x => xWords 1 1 6 fn x
  | .vfmaFma r => rWords 0 1 7 0 r
  | .vfmaFms r => rWords 0 1 7 1 r
  | .vfmaFnma r => rWords 0 1 7 2 r
  | .vfmaFnms r => rWords 0 1 7 3 r
  | .vfmaImm fn x => xWords 1 1 7 fn x
  | .vfuncDiv r => rWords 0 1 8 0 r
  | .vfuncSqrt r => rWords 0 1 8 1 r
  | .vfuncRcp r => rWords 0 1 8 2 r
  | .vfuncRsqrt r => rWords 0 1 8 3 r
  | .vfuncExp2 r => rWords 0 1 8 4 r
  | .vfuncLog2 r => rWords 0 1 8 5 r
  | .vfcmp fn r => rWords 0 1 9 fn r
  | .vcvt fn r => rWords 0 1 10 fn r
  | .vmxMxq r => rWords 0 1 11 0 r
  | .vmxPlane r => rWords 0 1 11 1 r
  | .vmxUnplane r => rWords 0 1 11 2 r
  | .vmxMxdq r => rWords 0 1 11 3 r
  | .vmaskMand r => rWords 0 1 12 0 r
  | .vmaskMor r => rWords 0 1 12 1 r
  | .vmaskMxor r => rWords 0 1 12 2 r
  | .vmaskMandn r => rWords 0 1 12 3 r
  | .vmaskMnot r => rWords 0 1 12 4 r
  | .vmaskMpopc r => rWords 0 1 12 5 r
  | .vmaskMfirst r => rWords 0 1 12 6 r
  | .vmaskMset r => rWords 0 1 12 7 r
  | .vpermShuf r => rWords 0 1 13 0 r
  | .vpermSlideup r => rWords 0 1 13 1 r
  | .vpermSlidedn r => rWords 0 1 13 2 r
  | .vpermBcast r => rWords 0 1 13 3 r
  | .vpermRev r => rWords 0 1 13 4 r
  | .vpermZiplo r => rWords 0 1 13 5 r
  | .vpermZiphi r => rWords 0 1 13 6 r
  | .vpermIota r => rWords 0 1 13 7 r
  | .vredIadd r => rWords 0 1 14 0 r
  | .vredImin r => rWords 0 1 14 1 r
  | .vredImax r => rWords 0 1 14 2 r
  | .vredIand r => rWords 0 1 14 3 r
  | .vredIor r => rWords 0 1 14 4 r
  | .vredFadd r => rWords 0 1 14 5 r
  | .vredFmax r => rWords 0 1 14 6 r
  | .vredFmin r => rWords 0 1 14 7 r
  | .vmovMov r => rWords 0 1 15 0 r
  | .vmovSel r => rWords 0 1 15 1 r
  | .vmovQpush r => rWords 0 1 15 2 r
  | .vmovQpop r => rWords 0 1 15 3 r
  | .xaccXacc r => rWords 0 1 16 0 r
  | .xaccXacci r => rWords 0 1 16 1 r
  | .xaccXrnd r => rWords 0 1 16 2 r
  | .nop => zWords 0 0 1 0
  | .enop => zWords 0 1 1 0
  | .trapResume => zWords 0 0 49 2
  | .taskDone => zWords 0 0 64 0
  | .taskYield => zWords 0 0 64 3
  | .mxMbegin => zWords 0 0 72 0
  | .mxMend => zWords 0 0 72 1
  | .mxMwait => zWords 0 0 72 3
  | .waitwWake => []
  | .handoverArrival => []
  | .copyComplete => []
  | .copyFailed => []
  | .multicastDelivery => []
  | .multicastAllFreed => []
  | .mtileStep => []
  | .mcmdArrival => []
  | .hprioBoostEnd => []
  | .streamDeadlock => []
  | .parkedStoreReplay => []
  | .tlbWalk => []
  | .launchKick => []
  | .launchPacket => []
  | .loadrefPacket => []
  | .unloadPacket => []
  | .unloadTakesEffect => []
  | .markerPacket => []
  | .markerComplete => []
  | .serialLaunchStart => []
  | .objectLoad => []
  | .stationFire => []
  | .gatherLimitExpiry => []
  | .parkedFiringResume => []
  | .lookForWork => []
  | .preempt => []
  | .contextSave => []
  | .watchdogStopExpiry => []
  | .watchdogSaveExpiry => []
  | .contextRestore => []
  | .threadResume => []
  | .contextKill => []
  | .contextCreate => []
  | .contextDestroy => []
  | .holdingAdd => []
  | .hostHandover => []
  | .shootdown => []
  | .attest => []
  | .loadKey => []
  | .unloadKey => []
  | .gangStop => []
  | .debugHalt => []
  | .belfryResume => []
  | .debugAccess => []
  | .errorInjection => []
  | .partitionConfig => []
  | .bringUp => []
  | .supplyDroop => []
  | .thermalTrip => []
  | .spanLinkDown => []
  | .poolLinkDown => []
  | .scrub => []
  | .uncorrectableError => []
  | .arrayCommandCompletion => []
  | .generationBoundary => []
  | .storePerformed => []
  | .queueEntryReadable => []
  | .copyContinues => []
  | .supplyRecovery => []
  | .partitionReset => []
  | .hostNodeAccess => []

/-- The words beyond word 1 as one number, as `decode` takes them. -/
def wordsExt : List Nat → Nat
  | [] => 0
  | w :: ws => w + 4294967296 * wordsExt ws

/-- Decode a list of words, word 0 first. -/
def decodeWords : List Nat → Except DecErr Instr
  | w0 :: w1 :: rest => decode w0 w1 (wordsExt rest)
  | _ => .error ⟨.illegalOpcode, 0⟩

/-- The instructions that the encoding can carry: those the decoder's field checks accept. -/
def Instr.encodable (i : Instr) : Bool := i.wellFormed && i.fieldFault.isNone && !(encode i).isEmpty

/-- The instruction the decoder reads from an instruction whose bits are `w`: bit 0 is the least significant bit of word 0, and a
later word's bits count on from it. Bits at `nbits` and above are zero. -/
def decodeTableWord (nbits w : Nat) : Option Instr :=
  match decodeAt 0 (leBytes 16 (w % 2 ^ nbits)) with
  | .instr i _ => some i
  | _ => none

end Sys2Proof
end

