-- ==== Sys2Proof/Machine/State.lean ====
section
/-! DEFINITION. The state of the machine as plain data: threads, virtual cores, contexts and the module (spec 01, 05, 06, 08,
09, 12, 14, 15, 17, 18), and the machine right after reset. -/

namespace Sys2Proof.Machine

/-- Why the model stops. A fault is no trap of the machine: traps are next states. -/
inductive Fault where
  /-- A table walk, a host access or a write-back reached a physical address that R362 says does not exist. Raised by the walker
  and by the steps that take a physical address from outside. Safe: the machine gives it no effect. -/
  | physicalHole (pa : Nat)
  deriving DecidableEq, Repr

/-- Why the model refuses to go on. -/
inductive Refusal where
  /-- The instruction has no meaning in the model yet. Raised by its arm of `exec`. Safe: nothing is claimed of it. -/
  | notModelled (mnemonic : String)
  deriving DecidableEq, Repr

/-! ## Memory -/

/-- The physical memory of the module: slices, pool and far apertures (R362), as address and byte pairs. -/
abbrev Memory := SMap Byte

/-- What an unlisted address reads as (log 2, DESIGN CHOICE). -/
def Memory.default : Byte := 0

/-- The canonical form: keys strictly rising, no entry equal to what an unlisted key reads as. -/
abbrev SMap.wf {α : Type} [DecidableEq α] (d : α) (m : SMap α) : Prop :=
  (m.map Prod.fst).Pairwise (· < ·) ∧ ∀ e ∈ m, e.2 ≠ d

/-- The canonical form of memory. -/
abbrev Memory.wf (m : Memory) : Prop := SMap.wf Memory.default m

/-! ## Records of a thread -/

/-- The 32 lanes of a vector register or of a queue entry (R175). -/
abbrev Lanes := Vector W32 32

/-- An entry of a queue register (R146): `ready` is false while its lanes have not all arrived. -/
structure QEntry where
  lanes : Lanes
  mask : W32
  ready : Bool
  deriving DecidableEq, Repr

/-- A token (R282): `cause` is a cause code, 0 while `err` is clear. -/
structure Token where
  count : Nat
  err : Bool
  cause : Nat
  addr : Nat
  deriving DecidableEq, Repr

/-- A link, with the fields of its descriptor (R173). -/
structure Link where
  ek : Bool
  edge : Bool
  imm : Bool
  ck : Bool
  op : Nat
  d : Nat
  a : Nat
  c : Nat
  sh : Nat
  opb : Nat
  deriving DecidableEq, Repr

/-- A task record or a join record (R304). -/
structure TaskRec where
  rs : Nat
  restart : Bool
  code : Nat
  fsize : Nat
  count : Nat
  frame : Nat
  result : Nat
  join : Nat
  key : Nat
  deriving DecidableEq, Repr

/-- A record waiting to fire: its launch, its domain of stealing (0 none, 1 dome, 2 die, 3 device; R324), the group that it was
enqueued with (R320), the cycles at which it entered its core's deque (R333) and its station (R326), and its slot of the spill area
while it lies there (R328). -/
structure DRec where
  task : TaskRec
  launch : Nat
  domain : Nat
  group : Nat
  since : Nat
  entered : Nat
  slot : Option Nat
  deriving DecidableEq, Repr

/-- A live lane of a firing (R327), and whether it executed JOIN in this firing (R316). -/
structure LaneRec where
  task : TaskRec
  joined : Bool
  deriving DecidableEq, Repr

/-- An entry of the window table (R234). -/
structure Window where
  isSet : Bool
  version : W32
  base : Nat
  lsize : Nat
  kind : Nat
  fmt : Nat
  p : List Nat
  freq : List Nat
  deriving DecidableEq, Repr

/-- One access of a parked store (R145): its address, its bytes, its lane where it is of a vector store, whether its translation was missing at
issue, and the view that it was found to write through (R244). -/
structure PAcc where
  va : Nat
  bytes : List Byte
  lane : Option Nat
  missing : Bool
  view : Option Window
  deriving DecidableEq, Repr

/-- A failure to be reported later at a waiting instruction (R141, R145, R212). -/
structure LateErr where
  cause : Cause
  faddr : Nat
  fdetail : Nat
  deriving DecidableEq, Repr

/-- A store parked in the replay queue (R145): its place in the order of issue, its accesses, and the failure that it met on replay, which is
still to be reported. -/
structure Parked where
  order : Nat
  accs : List PAcc
  failed : Option LateErr
  deriving DecidableEq, Repr

/-- A store that left the thread and is not yet performed (R252): `pa` is its bus address, the physical address with the key slot above it, and
`view` the view address of one that was made through a CONVERT window (R244). -/
structure PStore where
  va : Nat
  pa : Nat
  bytes : List Byte
  view : Option Nat
  deriving DecidableEq, Repr

/-- The 64-byte report of R381. -/
structure Report where
  cause : Cause
  disp : Nat
  thread : Nat
  ctxid : Nat
  vcore : Nat
  stream : Nat
  epc : Nat
  aepc : Nat
  faddr : Nat
  fdetail : Nat
  inst : Nat
  cycle : Nat
  deriving DecidableEq, Repr

/-- What a thread does (R381, R385, R389). -/
inductive Status where
  | free
  | running
  | parked (r : Report)
  | stopped
  deriving DecidableEq, Repr

/-- What a stream's next instruction waits for. -/
inductive Wait where
  | none
  /-- A pop of an empty queue, a push to a full one (R146). -/
  | pop (q : Nat)
  | push (q : Nat)
  /-- A pop of an instruction that can still fault when the entry is there (R10). -/
  | popFirst (q : Nat)
  /-- A push of what VLQ or GATHQ has read, to a full queue: the checks and the reads are done (R10, R151). -/
  | held (q : Nat) (e : QEntry)
  /-- WAITW asleep, TAKE, RSTEP and MTILE between their steps. -/
  | word
  | take
  | rstep
  | mtile
  /-- A store that passed its checks and finds no free replay entry (R145), with what is to be parked. -/
  | replayRoom (p : Parked)
  /-- XSYNC, or an access of a floating-point control register behind older E-stream instructions (R154, R114). -/
  | estream
  /-- The L1 TLB holds no entry for an access's page yet (R363). -/
  | tlb (va : Nat) (kind : AccKind)
  /-- Anything else: older instructions, tokens, the replay queue, array commands. -/
  | other
  deriving DecidableEq, Repr

/-- A hardware thread of a virtual core. -/
structure Thread where
  id : Nat
  status : Status
  s : Vector W64 64
  v : Vector Lanes 64
  m : Vector W32 8
  q : Vector (List QEntry) 8
  k : Vector Token 8
  l : Vector (Option Link) 32
  /-- The A position (R41). -/
  apc : W64
  /-- The E-stream instructions of the path that the A-stream has passed and the E-stream has not executed, oldest first. -/
  ePath : List W64
  /-- Where the E-stream, ahead of a waiting A-stream instruction, has gone to (R10): the E-stream instructions below it have been
  executed. Zero where it is not ahead. -/
  eNext : W64
  /-- The bytes that were fetched of the instructions of the E-stream's path, by their addresses (R41). -/
  eWords : SMap (List Byte)
  /-- The path that an E-stream trap interrupted (log 14). -/
  trapPath : List W64
  waitA : Wait
  waitE : Wait
  handler : Bool
  donePending : Bool
  cause : W64
  epc : W64
  faddr : W64
  fdetail : W64
  einst : W64
  hsave : W64
  aepc : W64
  fpflags : W64
  fpen : W64
  rmode : W64
  lanes : List LaneRec
  launch : Nat
  /-- The number of the firing, by which its copies know it (R282). -/
  firing : Nat
  replay : List Parked
  stores : List PStore
  /-- Failures of stores that left the thread, to be reported at the next instruction that waits for the replay queue (R141). -/
  storeErr : List LateErr
  deferred : List LateErr
  /-- The first row and the row count of the liveness record of the last PPT (R387). -/
  liveRows : Nat × Nat
  /-- The firing issued a command that changes accumulators or weight banks (R396). -/
  touchedArray : Bool
  /-- The HPRIO boost: the A-stream issues left plus 1, or 0 where no boost stands (R62). -/
  hprio : Nat
  lastA : Nat
  lastE : Nat
  /-- The cycles since the last issue of a stream in which it had a ready instruction (R332). -/
  agedA : Nat
  agedE : Nat
  singleStep : Bool
  /-- The watchpoints that the instruction has raised and passes when it is executed again (R381): 0 to 3 for one of the A-stream, 4 more for one of
  the E-stream. -/
  watchPass : List Nat
  deriving DecidableEq, Repr

/-! ## Records of a virtual core -/

/-- A weight block of a bank (R217): its 32 weights as integers over the sub-block grid, their logical positions in the
column's K rows, and its scale byte. -/
structure WBlock where
  weights : List Int
  positions : List Nat
  scale : Nat
  deriving DecidableEq, Repr

/-- A loaded weight bank (R200): columns of blocks. -/
structure Bank where
  n : Nat
  kb : Nat
  wp : Nat
  sparse : Bool
  wsplit : Bool
  cols : List (List WBlock)
  deriving DecidableEq, Repr

/-- An accumulator row (R200): X and the flags of its columns, as numbers of one bit per column, the anchor, PAIR and ANCHOR.
`x` holds the columns that are not zero. -/
structure AccRow where
  x : SMap (BitVec 192)
  nan : BitVec 128
  posInf : BitVec 128
  negInf : BitVec 128
  e : BitVec 10
  pair : Bool
  anchor : Bool
  deriving DecidableEq, Repr

/-- A row right after context creation (R201). -/
def AccRow.clear : AccRow := { x := [], nan := 0, posInf := 0, negInf := 0, e := 0, pair := false, anchor := false }

/-- An array command that has entered the array order and has not completed (R208, R212): the virtual core and the thread that issued it,
the rows it touches, and the error found after issue. -/
structure ArrayCmd where
  vcore : Nat
  thread : Nat
  first : Nat
  count : Nat
  err : Option LateErr
  deriving DecidableEq, Repr

/-- The running MTILE of a group (R231, R232): its thread, the address and the bytes of its record, the next step, and the members
that have made a step since it started. -/
structure TileJob where
  thread : Nat
  addr : Nat
  image : List Byte
  step : Nat
  begun : List Nat
  deriving DecidableEq, Repr

/-- The kinds of a rule table (R336). -/
inductive RuleKind where
  | full | total
  deriving DecidableEq, Repr

/-- A loaded lantern table (R336). -/
structure RuleTab where
  kind : RuleKind
  hood : Nat
  bits : Nat
  entries : List Byte
  deriving DecidableEq, Repr

/-- The running RSTEP of the lantern (R349): the address and the bytes of its descriptor, the run's length and counters, and the codes of
the stored cells, row by row. The tile, the carry tile and the descriptor are read once, when it starts. -/
structure RuleJob where
  thread : Nat
  cheq : Bool
  addr : Nat
  image : List Byte
  run : Nat
  gen : Nat
  remaining : Nat
  working : List Nat
  deriving DecidableEq, Repr

/-- A gather station (R325): free when it holds no record; `expired` when HGATHER made it count as expired (R62). -/
structure Station where
  launch : Nat
  code : Nat
  recs : List DRec
  expired : Bool
  deriving DecidableEq, Repr

/-- A firing parked by YIELD (R317), and the cycle at which it was parked. -/
structure ParkSlot where
  thr : Thread
  since : Nat
  deriving DecidableEq, Repr

/-- A pending free (R301): its key, its sender and the copy it belongs to. -/
structure PendingFree where
  key : Nat
  sender : Nat
  order : Nat
  deriving DecidableEq, Repr

/-- A COPYM between issue and its mailbox increment (R303). -/
structure OutCopym where
  order : Nat
  members : List Nat
  mailbox : Nat
  scope : Nat
  deriving DecidableEq, Repr

/-- A translation as a TLB holds it (R363, R364): the page's base and size, and its leaf entry. -/
structure TlbEntry where
  ctx : Nat
  base : Nat
  size : Nat
  pte : Nat
  deriving DecidableEq, Repr

/-- A virtual core of a context, with the state that goes where the core goes. -/
structure VCore where
  id : Nat
  phys : Nat
  mkeys : Vector W64 4
  bank0 : Option Bank
  bank1 : Option Bank
  acc : SMap AccRow
  outstanding : List ArrayCmd
  chain : Bool
  groupLock : Option Nat
  tile : Option TileJob
  table : Option RuleTab
  rule : Option RuleJob
  /-- The threads whose RLOAD or RSTEP has entered the lantern order and has not completed or stopped, oldest first (R337). -/
  lantern : List Nat
  /-- The deque's records, oldest first, and the address of its spill area (R328). -/
  deque : List DRec
  spillBase : Nat
  stations : List Station
  parks : List ParkSlot
  frees : List PendingFree
  copyms : List OutCopym
  dead : List Nat
  itlb : List TlbEntry
  dtlb : List TlbEntry
  threads : SMap Thread
  deriving DecidableEq, Repr

/-! ## Records of a context -/

/-- The classes of a holding (R367). -/
inductive HClass where
  | exclusive | localOnly | common | frame | queue | sealed
  deriving DecidableEq, Repr

/-- A valid entry of the holding table (R367): `holder` is an agent code (R274), `inflight` the recipient's code while a handover is
in flight. -/
structure Holding where
  base : Nat
  lsize : Nat
  cls : HClass
  holder : Nat
  inflight : Option Nat
  deriving DecidableEq, Repr

/-- A handover message in flight (R285), and its place among the messages of its class (R24). -/
structure Handover where
  sender : Nat
  holding : Nat
  dest : Nat
  seq : Nat
  deriving DecidableEq, Repr

/-- A global symbol of a loaded object (R79): the bytes of its name, its value and its kind. -/
structure Sym where
  name : List Byte
  value : Nat
  kind : Nat
  deriving DecidableEq, Repr

/-- A registered object (R91): its handle, its entries, the address and number of 32-byte slots of its pool, its handlers by message
type, its global symbols, its linkage holdings, every holding that it uses, and the ranges of its NEAR sections. -/
structure Obj where
  handle : Nat
  entries : List Nat
  pool : Nat
  poolCount : Nat
  handlers : List (Nat × Nat)
  globals : List Sym
  linkages : List Nat
  holdings : List Nat
  nears : List (Nat × Nat)
  deriving DecidableEq, Repr

/-- A launch (R310): what ctl.launch and ctl.nvcore read, its join and its completion word. -/
structure Launch where
  det : Bool
  replay : Bool
  prio : Nat
  nv : Nat
  join : Nat
  queue : Nat
  object : Nat
  doneAddr : Nat
  doneVal : W64
  deriving DecidableEq, Repr

/-- A tensor record (R289) with BASEREG resolved. -/
structure Tensor where
  base : Nat
  fmt : Nat
  rank : Nat
  plane : Bool
  fill : Nat
  ext : List Nat
  stride : List Int
  scaleOff : Int
  deriving DecidableEq, Repr

/-- A box record (R292). -/
structure Box where
  ext : List Nat
  perm : List Nat
  rm : Nat
  deriving DecidableEq, Repr

/-- Who issued a copy: the identity under which its engine acts (R18). -/
structure Ident where
  vcore : Nat
  lanes : List LaneRec
  launch : Nat
  deriving DecidableEq, Repr

/-- A copy or a multicast copy in flight (R294, R300). -/
structure CopyJob where
  ident : Ident
  thread : Nat
  /-- The firing that issued it, whose token it counts in (R282). -/
  firing : Nat
  token : Nat
  src : Tensor
  dst : Tensor
  box : Box
  srcOrigin : Nat
  dstOrigin : Nat
  acq : Bool
  rel : Bool
  scope : Nat
  word : Nat
  value : W64
  spawn : Option TaskRec
  /-- The members still to be served, for a COPYM. -/
  members : Option (List Nat)
  landing : Nat
  order : Nat
  /-- The window table when the copy was issued (R249). -/
  windows : List Window
  /-- The member that is being served, and the number of steps of R295 that have been performed. -/
  serving : Nat
  pos : Nat
  /-- The failure that an access met, and whether it is a page fault, which suspends the copy (R298). -/
  stop : Option LateErr
  suspended : Bool
  deriving DecidableEq, Repr

/-- A free message in flight (R302): the core whose COPYM it answers, that copy, the member that frees, and its place among the messages of its
class (R24). -/
structure FreeMsg where
  sender : Nat
  order : Nat
  member : Nat
  seq : Nat
  deriving DecidableEq, Repr

/-- An MCMD command in flight (R227, R228): its place in the order of issue, and ctl.rmode when it was issued (R114). -/
structure Mcmd where
  ident : Ident
  thread : Nat
  order : Nat
  rmode : W64
  target : Nat
  channel : Nat
  cap : W64
  kind : Nat
  fmt : Nat
  first : Nat
  count : Nat
  arg : Nat
  addr : Nat
  deriving DecidableEq, Repr

/-- A pre-emption of a context (R385, R386). -/
inductive Preempt where
  | none
  /-- Requested: the threads stop; when the limits of the requests expire, by the die hubs' clock (R3). -/
  | pending (deadlines : List Nat)
  /-- Saved to the regions, cores freed. -/
  | saved
  deriving DecidableEq, Repr

/-- A watchpoint (R391). -/
structure Watch where
  base : Nat
  lsize : Nat
  rd : Bool
  wr : Bool
  deriving DecidableEq, Repr

/-- A context (R354). -/
structure Ctx where
  id : Nat
  live : Bool
  part : Nat
  nmax : Nat
  hosts : List Nat
  root : Nat
  savebase : Nat
  stub : Nat
  trapvec : W64
  framebase : W64
  framesize : W64
  spillsize : W64
  qtable : W64
  gather : W64
  agesh : W64
  windows : Vector Window 16
  holdings : SMap Holding
  objects : List Obj
  launches : SMap Launch
  handovers : List Handover
  copies : SMap CopyJob
  freeMsgs : List FreeMsg
  mcmds : List Mcmd
  /-- The records of the named queues, oldest first (R331). -/
  queued : SMap (List DRec)
  preempt : Preempt
  saveSeq : Nat
  /-- The virtual cores of a saved context: what the save regions hold of them, and what the layout of R387 leaves to the machine. -/
  saved : List VCore
  killed : Bool
  halted : Bool
  watch : Vector (Option Watch) 4
  vcores : SMap VCore
  deriving DecidableEq, Repr

/-! ## Records of the module -/

/-- The halt record of a core (R389). -/
structure HaltRec where
  cycle : W64
  sent : Vector W64 4
  recv : Vector W64 4
  deriving DecidableEq, Repr

/-- The error logs of a core: of its slice, its accumulator memory, and its scalar and its vector register file (R8, R393). -/
inductive ErrLog where
  | slice
  | acc
  | sregs
  | vregs
  deriving DecidableEq, Repr

/-- An error log entry (R393). The manual gives no value of SYNDROME: it is a free value (log 6). -/
structure LogEntry where
  addr : Nat
  syndrome : W32
  ctxid : Nat
  uncorrected : Bool
  arrayFailed : Bool
  cycle : Nat
  deriving DecidableEq, Repr

/-- A physical core: the counters of R25 and R34, its error logs and halt record. -/
structure PCore where
  cycle : W64
  sent : Vector W64 4
  recv : Vector W64 4
  sliceLog : List LogEntry
  accLog : List LogEntry
  sregLog : List LogEntry
  vregLog : List LogEntry
  halt : Option HaltRec
  deriving DecidableEq, Repr

/-- A loaded or assigned key slot (R372). -/
structure KeySlot where
  key : BitVec 512
  loaded : Bool
  ctxs : List Nat
  deriving DecidableEq, Repr

/-- What a LAUNCH packet asks for (R308), and its index in the queue. -/
structure Packet where
  index : Nat
  det : Bool
  replay : Bool
  prio : Nat
  serial : Bool
  object : Nat
  code : Nat
  nv : Nat
  roots : Nat
  frame : Nat
  key : Nat
  fstride : Nat
  fsize : Nat
  doneAddr : Nat
  doneVal : W64
  deriving DecidableEq, Repr

/-- A packet that waits to take effect (R311, R92): a marker waits for the launches listed. -/
inductive QWait where
  | serial (p : Packet)
  | unload (obj : Nat) (doneAddr : Nat) (doneVal : W64)
  | marker (doneAddr : Nat) (doneVal : W64) (after : List Nat)
  deriving DecidableEq, Repr

/-- A launch slot of the launch unit (R309): the control block it is bound to, the TAIL it read, the handles it holds references to
(R92), and the packets that wait. -/
structure LQueue where
  ctx : Nat
  block : Nat
  tail : Nat
  refs : List Nat
  waits : List QWait
  deriving DecidableEq, Repr

/-- A partition (R353): dies m * 2^k and on, its feature mask, and the cause that stopped it. -/
structure Part where
  k : Nat
  m : Nat
  features : Nat
  stopped : Option Cause
  deriving DecidableEq, Repr

/-- The phases of bring-up (R33): nothing done, the firmware checked and started, the slices tested, the core map published. -/
inductive Phase where
  | reset
  | started
  | tested
  | up
  deriving DecidableEq, Repr

/-- A reply on the management channel (R91, R366, R373, R375). -/
inductive Reply where
  | loaded (status handle : Nat) (buildId : List Byte)
  | attest (report : List Nat) (signature : List Nat)
  | value (x : Nat)
  | bytes (bs : List Byte)
  | done
  | refused
  deriving DecidableEq, Repr

/-- A move of an agent: a row of the table with its request, or an issue of a stream of a thread. -/
inductive Move where
  | event (i : Instr) (r : Req)
  | run (t : Tid) (estream : Bool)
  deriving DecidableEq, Repr

/-- The state of the machine. `ctx`, `vc` and `thr` are the context, virtual core and thread in focus; the maps hold the others, and an
older copy of these. -/
structure State where
  phase : Phase
  fused : List Nat
  enabled : W64
  parts : List Part
  cores : SMap PCore
  mem : Memory
  /-- The 16-byte words of the pool and far apertures that stand enciphered, with the key pair that they were written under: memory holds what they
  read as under it (R29, R372, log 52). -/
  keyed : SMap (BitVec 512)
  keySlots : SMap KeySlot
  queues : SMap LQueue
  /-- What the launch unit keeps of control blocks that firmware has unmapped, and the context and address of the blocks with PENDING set that
  firmware is to map (R309). -/
  unmapped : List LQueue
  pendingBlocks : List (Nat × Nat)
  heldMoves : List (Instr × Req)
  /-- The partitions whose STOP is not reported yet: a copy of theirs has still to complete (R390). -/
  stops : List Nat
  reports : List Report
  replies : List Reply
  spanDown : List Nat
  /-- Nodes of the span fabric that cannot be reached (R27). -/
  farLost : List Nat
  /-- The CXL ports over which the pool is interleaved, and those that have failed (R28). -/
  poolPorts : List Nat
  cxlDown : List Nat
  /-- Addresses of 128-bit words that cannot be corrected, and of words with one bad symbol, which every read corrects (R392). -/
  badWords : List Nat
  softWords : List Nat
  /-- Accumulator words with an error that every read corrects: core, row and column (R392). -/
  softAccs : List (Nat × Nat × Nat)
  failedArrays : List (Nat × Nat)
  /-- The banks of slices that the self-test of bring-up marked failed: core and bank (R13, R33). -/
  failedBanks : List (Nat × Nat)
  stretched : List Nat
  tripped : List Nat
  l2tlb : List (Nat × TlbEntry)
  ctx : Ctx
  vc : VCore
  thr : Thread
  ctxs : SMap Ctx
  agenda : List Move
  req : Req
  freeCtr : Nat
  nextId : Nat
  /-- The die hubs' clock (R3), one cycle a step; the model's policy takes turns by it (log 7). -/
  clock : Nat
  deriving DecidableEq, Repr

/-! ## Reset -/

def Token.zero : Token := { count := 0, err := false, cause := 0, addr := 0 }

/-- The lanes that are all zero. -/
def Lanes.zero : Lanes := Vector.replicate 32 0

/-- A free thread: the values of R327 at firing start, with no firing. -/
def Thread.fresh (n : Nat) : Thread where
  id := n
  status := .free
  s := Vector.replicate 64 0
  v := Vector.replicate 64 Lanes.zero
  m := Vector.replicate 8 0
  q := Vector.replicate 8 []
  k := Vector.replicate 8 Token.zero
  l := Vector.replicate 32 none
  apc := 0
  ePath := []
  eNext := 0
  eWords := []
  trapPath := []
  waitA := .none
  waitE := .none
  handler := false
  donePending := false
  cause := 0
  epc := 0
  faddr := 0
  fdetail := 0
  einst := 0
  hsave := 0
  aepc := 0
  fpflags := 0
  fpen := 0
  rmode := 0
  lanes := []
  launch := 0
  firing := 0
  replay := []
  stores := []
  storeErr := []
  deferred := []
  liveRows := (0, 0)
  touchedArray := false
  hprio := 0
  lastA := 0
  lastE := 0
  agedA := 0
  agedE := 0
  singleStep := false
  watchPass := []

def Station.empty : Station := { launch := 0, code := 0, recs := [], expired := false }

/-- A virtual core at context creation (R201, R336, R374). -/
def VCore.fresh (n phys : Nat) : VCore where
  id := n
  phys := phys
  mkeys := Vector.replicate 4 0
  bank0 := none
  bank1 := none
  acc := []
  outstanding := []
  chain := false
  groupLock := none
  tile := none
  table := none
  rule := none
  lantern := []
  deque := []
  spillBase := 0
  stations := List.replicate 16 Station.empty
  parks := []
  frees := []
  copyms := []
  dead := []
  itlb := []
  dtlb := []
  threads := []

/-- A clear window (R234). -/
def Window.clear : Window := { isSet := false, version := 0, base := 0, lsize := 0, kind := 0, fmt := 0, p := [], freq := [] }

/-- A context right after creation (R34, R354). -/
def Ctx.fresh (n : Nat) : Ctx where
  id := n
  live := false
  part := 0
  nmax := 0
  hosts := []
  root := 0
  savebase := 0
  stub := 0
  trapvec := 0
  framebase := 0
  framesize := 0
  spillsize := 0
  qtable := 0
  gather := 256
  agesh := 10
  windows := Vector.replicate 16 Window.clear
  holdings := []
  objects := []
  launches := []
  handovers := []
  copies := []
  freeMsgs := []
  mcmds := []
  queued := []
  preempt := .none
  saveSeq := 0
  saved := []
  killed := false
  halted := false
  watch := Vector.replicate 4 none
  vcores := []

/-- A physical core at module reset (R34). -/
def PCore.fresh : PCore := { cycle := 0, sent := Vector.replicate 4 0, recv := Vector.replicate 4 0, sliceLog := [], accLog := [], sregLog := [], vregLog := [], halt := none }

def Tid.zero : Tid := { ctx := 0, vc := 0, th := 0 }

/-- A request that asks for nothing. -/
def Req.zero : Req where
  t := Tid.zero
  n := 0
  m := 0
  k := 0
  flag := false
  kind := .read
  l1 := []
  l2 := []
  params := { id := 0, nmax := 0, hosts := [], root := 0, savebase := 0, phys := [], keys := [], stub := 0, spills := [], regs := [] }
  holding := none
  dbg := .readNear 0 0
  err := .sram 0
  acc := .read 0 0
  parts := []

/-- The machine right after reset (R33, R34): no context, memory with nothing listed (log 2), no fused core (log 3), one partition of the
eight dies (log 4), the model's own fields at zero (log 5, log 6). -/
def State.reset : State where
  phase := .reset
  fused := []
  enabled := 0
  parts := [{ k := 3, m := 0, features := 1023, stopped := none }]
  cores := []
  mem := []
  keyed := []
  keySlots := []
  queues := []
  unmapped := []
  pendingBlocks := []
  heldMoves := []
  stops := []
  reports := []
  replies := []
  spanDown := []
  farLost := []
  poolPorts := List.range 16
  cxlDown := []
  badWords := []
  softWords := []
  softAccs := []
  failedArrays := []
  failedBanks := []
  stretched := []
  tripped := []
  l2tlb := []
  ctx := Ctx.fresh 0
  vc := VCore.fresh 0 0
  thr := Thread.fresh 0
  ctxs := []
  agenda := []
  req := Req.zero
  freeCtr := 0
  nextId := 1
  clock := 0

end Sys2Proof.Machine
end

