-- ==== Sys2Proof/Machine/Memory.lean ====
section
/-! DEFINITION. The named operations under every meaning: sparse maps, memory bytes, registers, the focus, table walks (R357 to R359), the
keys of pool and far pages (R29, R372), links (R26 to R28), and the accesses that the hardware makes by itself (R398). -/

namespace Sys2Proof.Machine

/-! ## Sparse maps -/

/-- The value at a key, if one is listed. -/
def SMap.find {α : Type} : SMap α → Nat → Option α
  | [], _ => none
  | (a, x) :: r, k => if k = a then some x else SMap.find r k

/-- The value at a key, `d` where none is listed. -/
def SMap.get {α : Type} (d : α) (m : SMap α) (k : Nat) : α := (SMap.find m k).getD d

/-- The map with `k` listed as `x`. -/
def SMap.put {α : Type} : SMap α → Nat → α → SMap α
  | [], k, x => [(k, x)]
  | (a, y) :: r, k, x => if k < a then (k, x) :: (a, y) :: r else if k = a then (k, x) :: r else (a, y) :: SMap.put r k x

/-- The map without `k`. -/
def SMap.del {α : Type} : SMap α → Nat → SMap α
  | [], _ => []
  | (a, y) :: r, k => if k < a then (a, y) :: r else if k = a then r else (a, y) :: SMap.del r k

/-- The map with `k` at `x`, which is not listed when it is the default `d`. -/
def SMap.set {α : Type} [DecidableEq α] (d : α) (m : SMap α) (k : Nat) (x : α) : SMap α :=
  if x = d then SMap.del m k else SMap.put m k x

/-! ## Bytes of memory -/

/-- One byte of physical memory. -/
def Memory.read (m : Memory) (a : Nat) : Byte := SMap.get Memory.default m a

/-- Memory with one byte written. -/
def Memory.write (m : Memory) (a : Nat) (b : Byte) : Memory := SMap.set Memory.default m a b

/-- `n` bytes from `a` on. -/
def Memory.readN (m : Memory) (a : Nat) : Nat → List Byte
  | 0 => []
  | n + 1 => Memory.read m a :: Memory.readN m (a + 1) n

/-- Memory with a list of bytes written from `a` on. -/
def Memory.writeN (m : Memory) (a : Nat) : List Byte → Memory
  | [] => m
  | b :: bs => Memory.writeN (Memory.write m a b) (a + 1) bs

/-- Memory with the bytes `a` to `a + n - 1` at zero. -/
def Memory.zeroN (m : Memory) (a n : Nat) : Memory := m.filter fun e => !(decide (a ≤ e.1) && decide (e.1 < a + n))

/-- A little-endian number of `n` bytes (R5). -/
def Memory.readLe (m : Memory) (a n : Nat) : Nat := leNat (Memory.readN m a n)

/-! ## Numbers -/

/-- The signed reading of the low `w` bits of a number (R100). -/
def toSigned (w n : Nat) : Int := if n % 2 ^ w < 2 ^ (w - 1) then (n % 2 ^ w : Nat) else (n % 2 ^ w : Nat) - (2 ^ w : Nat)

/-- An integer modulo 2^w. -/
def wrapNat (w : Nat) (x : Int) : Nat := (x % (2 ^ w : Nat)).toNat

/-- Sign extension of an immediate of `n` bits to 64 (R5). -/
def sext64 (n x : Nat) : W64 := BitVec.signExtend 64 (BitVec.ofNat n x)

/-- A little-endian field of a record. -/
def fieldAt (bs : List Byte) (off n : Nat) : Nat := leNat ((bs.drop off).take n)

/-- Two ranges meet. -/
def meets (a n b m : Nat) : Bool := decide (a < b + m) && decide (b < a + n)

/-- A bit of a number. -/
def bitOf (n i : Nat) : Bool := Nat.testBit n i

/-- The number of a Boolean. -/
def b2n (b : Bool) : Nat := if b then 1 else 0

/-! ## Registers of a thread -/

/-- A scalar register: s0 reads zero (R51). -/
def Thread.getS (t : Thread) (n : Nat) : W64 := if n = 0 then 0 else t.s[n]?.getD 0
/-- A write of a scalar register: s0 discards (R51). -/
def Thread.setS (t : Thread) (n : Nat) (x : W64) : Thread := if n = 0 then t else { t with s := t.s.setIfInBounds n x }
/-- A vector register (R175). -/
def Thread.getV (t : Thread) (n : Nat) : Lanes := t.v[n]?.getD Lanes.zero
def Thread.setV (t : Thread) (n : Nat) (x : Lanes) : Thread := { t with v := t.v.setIfInBounds n x }
/-- A lane of a lane list. -/
def Lanes.lane (x : Lanes) (i : Nat) : W32 := x[i]?.getD 0
/-- Lanes from a function of the lane number. -/
def Lanes.make (f : Nat → W32) : Lanes := Vector.ofFn fun i : Fin 32 => f i.val
/-- A mask register (R176). -/
def Thread.getM (t : Thread) (n : Nat) : W32 := t.m[n]?.getD 0
def Thread.setM (t : Thread) (n : Nat) (x : W32) : Thread := { t with m := t.m.setIfInBounds n x }
/-- A queue register (R146). -/
def Thread.getQ (t : Thread) (n : Nat) : List QEntry := t.q[n]?.getD []
def Thread.setQ (t : Thread) (n : Nat) (x : List QEntry) : Thread := { t with q := t.q.setIfInBounds n x }
/-- A token (R282). -/
def Thread.getK (t : Thread) (n : Nat) : Token := t.k[n]?.getD Token.zero
def Thread.setK (t : Thread) (n : Nat) (x : Token) : Thread := { t with k := t.k.setIfInBounds n x }
/-- A link slot (R157). -/
def Thread.getL (t : Thread) (n : Nat) : Option Link := t.l[n]?.getD none
def Thread.setL (t : Thread) (n : Nat) (x : Option Link) : Thread := { t with l := t.l.setIfInBounds n x }

/-- The E position (R41): the oldest instruction of the path that has not executed, where the E-stream has gone ahead to, or where the
A-stream stands. -/
def Thread.ePos (t : Thread) : W64 :=
  match t.ePath with
  | a :: _ => a
  | [] => if t.eNext = 0 then t.apc else t.eNext

/-! ## The state in focus -/

def State.setThr (s : State) (t : Thread) : State := { s with thr := t }
def State.updThr (s : State) (f : Thread → Thread) : State := { s with thr := f s.thr }
def State.updVc (s : State) (f : VCore → VCore) : State := { s with vc := f s.vc }
def State.updCtx (s : State) (f : Ctx → Ctx) : State := { s with ctx := f s.ctx }

/-- The physical core in focus (R7). -/
def State.core (s : State) : PCore := SMap.get PCore.fresh s.cores s.vc.phys
def State.setCore (s : State) (c : PCore) : State := { s with cores := SMap.put s.cores s.vc.phys c }
/-- ctl.cycle of the core in focus (R34). -/
def State.now (s : State) : Nat := s.core.cycle.toNat

/-- The state whose maps hold what stands in focus, where they list it. -/
def State.sync (s : State) : State :=
  let vc := { s.vc with threads := SMap.put s.vc.threads s.thr.id s.thr }
  let cx := if (SMap.find s.ctx.vcores vc.id).isSome then { s.ctx with vcores := SMap.put s.ctx.vcores vc.id vc } else s.ctx
  { s with vc := vc, ctx := cx, ctxs := if (SMap.find s.ctxs cx.id).isSome then SMap.put s.ctxs cx.id cx else s.ctxs }

/-- The state with a thread taken into focus from its maps: of one that is not there, a fresh one. -/
def State.load (s : State) (t : Tid) : State :=
  let cx := SMap.get (Ctx.fresh t.ctx) s.ctxs t.ctx
  let vc := SMap.get (VCore.fresh t.vc 0) cx.vcores t.vc
  { s with ctx := cx, vc := vc, thr := SMap.get (Thread.fresh t.th) vc.threads t.th }

/-- The name of the thread in focus. -/
def State.tid (s : State) : Tid := { ctx := s.ctx.id, vc := s.vc.id, th := s.thr.id }

/-- The focus moved to a thread. -/
def State.focus (s : State) (t : Tid) : State := if t = s.tid then s else s.sync.load t

/-- A live context. -/
def State.ctxAt (s : State) (c : Nat) : Option Ctx :=
  match (if c = s.ctx.id then some s.ctx else SMap.find s.ctxs c) with
  | some x => if x.live then some x else none
  | none => none

/-- A context whose threads run: live, neither stopped by a pre-emption nor halted. -/
def Ctx.runs (c : Ctx) : Bool := c.live && !c.killed && !c.halted && decide (c.preempt ≠ .saved)

/-- A context whose long instructions go on to their next step: it runs, and no pre-emption is pending (R385). -/
def Ctx.goesOn (c : Ctx) : Bool := c.runs && decide (c.preempt = .none)

/-- Whether a context has a virtual core placed. -/
def Ctx.hasVc (c : Ctx) (v : Nat) : Bool := (SMap.find c.vcores v).isSome

/-- A change of every context but through the maps: the focus is written back before and taken again after. -/
def State.viaMaps (s : State) (f : State → State) : State := (f s.sync).load s.tid

/-- A change of every thread of a virtual core. -/
def VCore.mapThreads (v : VCore) (f : Thread → Thread) : VCore := { v with threads := v.threads.map fun e => (e.1, f e.2) }

/-- A change of every virtual core of a context. -/
def Ctx.mapVcs (c : Ctx) (f : VCore → VCore) : Ctx := { c with vcores := c.vcores.map fun e => (e.1, f e.2) }

/-- A change of one context, in the maps. -/
def State.onCtx (s : State) (c : Nat) (f : Ctx → Ctx) : State :=
  match SMap.find s.ctxs c with
  | none => s
  | some x => { s with ctxs := SMap.put s.ctxs c (f x) }

/-- A virtual core of the context in focus, and a change of one. -/
def State.vcAt (s : State) (v : Nat) : Option VCore := if v = s.vc.id then some s.vc else SMap.find s.ctx.vcores v
def State.onVc (s : State) (v : Nat) (f : VCore → VCore) : State :=
  if v = s.vc.id then s.updVc f
  else match SMap.find s.ctx.vcores v with
    | some x => s.updCtx fun c => { c with vcores := SMap.put c.vcores v (f x) }
    | none => s

/-- The physical core of a virtual core of the context in focus. -/
def State.physOf (s : State) (v : Nat) : Nat :=
  if v = s.vc.id then s.vc.phys else match SMap.find s.ctx.vcores v with | some c => c.phys | none => 0

/-- ctl.cycle of a virtual core's physical core. -/
def State.nowOf (s : State) (v : Nat) : Nat := (SMap.get PCore.fresh s.cores (s.physOf v)).cycle.toNat

/-- A fresh free value (log 6) of width `w`, and the state with the counter advanced. -/
def State.freeWord (s : State) : W64 × State := (Config.freeValue s.freeCtr, { s with freeCtr := s.freeCtr + 1 })

/-! ## Table walks (R357 to R359) -/

/-- The index of an address at a level of the tables (R357). -/
def walkIndex (va : Nat) : Nat → Nat
  | 1 => va / 2 ^ 48 % 256
  | 2 => va / 2 ^ 39 % 512
  | 3 => va / 2 ^ 30 % 512
  | 4 => va / 2 ^ 21 % 512
  | _ => va / 2 ^ 16 % 32

/-- The page size of a leaf at a level (R357). -/
def pageSize : Nat → Nat
  | 3 => 2 ^ 30
  | 4 => 2 ^ 21
  | _ => 2 ^ 16

/-- Whether a physical address exists (R362). -/
def physExists (a : Nat) : Bool :=
  decide (a < 0x000240000000) || (decide (0x080000000000 ≤ a) && decide (a < 0x100000000000)) ||
  (decide (0x100000000000 ≤ a) && decide (a < 0x500000000000))

/-- A page table entry that R358 and R359 call malformed. -/
def pteMalformed (e lv : Nat) : Bool :=
  if e / 2 % 2 = 1 then
    decide (lv ≤ 2) || decide (e / 2 ^ 10 % 64 ≠ 0) || decide (4 ≤ e / 32 % 8) || decide (e / 2 ^ 16 % 2 ^ 38 * 2 ^ 16 % pageSize lv ≠ 0) ||
      !physExists (e / 2 ^ 16 % 2 ^ 38 * 2 ^ 16)
  else decide (lv = 5) || decide (e / 2 ^ 54 ≠ 0) || decide (e / 4 % 2 ^ 10 ≠ 0)

/-- What a walk finds (R359). -/
inductive Walk where
  | leaf (pte lv pteAddr : Nat)
  | fault (lv : Nat) (malformed : Bool)
  | hole (pa : Nat)
  deriving DecidableEq, Repr

/-- The walk of R359 from level `lv` with `n` levels left. -/
def walkFrom (m : Memory) (va : Nat) : Nat → Nat → Nat → Walk
  | 0, lv, _ => .fault lv true
  | n + 1, lv, t =>
    let a := t + 8 * walkIndex va lv
    if !physExists a then .hole a
    else
      let e := Memory.readLe m a 8
      if e % 2 = 0 then .fault lv false
      else if pteMalformed e lv then .fault lv true
      else if e / 2 % 2 = 1 then .leaf e lv a
      else walkFrom m va n (lv + 1) (e / 2 ^ 12 % 2 ^ 42 * 2 ^ 12)

/-- The walk of a context's tables (R359). -/
def State.walk (s : State) (va : Nat) : Walk := walkFrom s.mem va 5 1 s.ctx.root

/-- The physical address that a leaf gives (R358). -/
def leafAddr (pte lv va : Nat) : Nat := pte / 2 ^ 16 % 2 ^ 38 * 2 ^ 16 + va % pageSize lv

/-- A and D set in the leaf of an address, as an atomic OR (R361). A near address has none. -/
def State.markLeaf (s : State) (va : Nat) (write : Bool) : State :=
  if va < 0x400000 then s
  else match s.walk va with
    | .leaf pte _ pa => { s with mem := Memory.writeN s.mem pa (leBytes 8 (pte ||| (if write then 0x300 else 0x100))) }
    | _ => s

/-! ## Bus addresses and keys (R29, R372) -/

/-- The bus address of a physical address: pool and far addresses carry the slot that the leaf's KEY names above bit 53. -/
def busOf (slot pa : Nat) : Nat := if pa < 0x80000000000 then pa else pa + 2 ^ 54 * slot

/-- The physical address of a bus address, and its key slot. -/
def paOf (b : Nat) : Nat := b % 2 ^ 54
def slotOfBus (b : Nat) : Nat := b / 2 ^ 54

/-- KEY of a leaf (R358). -/
def pteSlot (pte : Nat) : Nat := pte / 2 ^ 54 % 1024

def isPool (b : Nat) : Bool := decide (0x100000000000 ≤ paOf b)
def isFar (b : Nat) : Bool := decide (0x80000000000 ≤ paOf b) && decide (paOf b < 0x100000000000)

/-- The key pair in a loaded slot. -/
def State.keyAt (s : State) (slot : Nat) : Option (BitVec 512) :=
  match SMap.find s.keySlots slot with
  | some k => if k.loaded then some k.key else none
  | none => none

/-- Whether a slot holds a loaded key and is assigned to a context (R372). -/
def State.keyLoaded (s : State) (slot ctx : Nat) : Bool :=
  match SMap.find s.keySlots slot with
  | some k => k.loaded && k.ctxs.contains ctx
  | none => false

/-- The bytes of 16-byte word `n` as they read under a key pair, or as they stand in the cells where there is none: deciphered from the cells, which
hold the word enciphered under the key that it was written under (R372, log 52). -/
def State.wordUnder (s : State) (k : Option (BitVec 512)) (n : Nat) : List Byte :=
  let bs := Memory.readN s.mem (16 * n) 16
  match SMap.find s.keyed n, k with
  | none, none => bs
  | none, some k1 => xtsDec k1 n bs
  | some k0, none => xtsEnc k0 n bs
  | some k0, some k1 => if k0 = k1 then bs else xtsDec k1 n (xtsEnc k0 n bs)

/-- One byte at a bus address: in the clear in a slice, deciphered under the key of its slot elsewhere. -/
def State.busByte (s : State) (b : Nat) : Byte :=
  if b < 0x80000000000 then Memory.read s.mem b
  else (s.wordUnder (s.keyAt (slotOfBus b)) (paOf b / 16))[paOf b % 16]?.getD 0

/-- `n` bytes from a bus address on. -/
def State.busRead (s : State) (b n : Nat) : List Byte := (List.range n).map fun i => s.busByte (b + i)

/-- Word `n` brought under a key pair, or under none. -/
def State.rekeyWord (k : Option (BitVec 512)) (s : State) (n : Nat) : State :=
  match SMap.find s.keyed n, k with
  | none, none => s
  | _, some x => { s with mem := Memory.writeN s.mem (16 * n) (s.wordUnder k n), keyed := SMap.put s.keyed n x }
  | some _, none => { s with mem := Memory.writeN s.mem (16 * n) (s.wordUnder k n), keyed := SMap.del s.keyed n }

/-- The words of `n` bytes at a bus address brought under the key of its slot. -/
def State.rekey (s : State) (b n : Nat) : State :=
  ((List.range ((paOf b + n - 1) / 16 + 1 - paOf b / 16)).map (· + paOf b / 16)).foldl (State.rekeyWord (s.keyAt (slotOfBus b))) s

/-- The pages of a slice that a write reaches stop being dead (R384). -/
def VCore.undead (v : VCore) (pa n : Nat) : VCore :=
  if pa / 0x400000 = v.phys then
    { v with dead := v.dead.filter fun p => !(decide (pa % 0x400000 / 4096 ≤ p) && decide (p ≤ (pa % 0x400000 + n - 1) / 4096)) }
  else v

/-- Memory written at a bus address. -/
def State.writePhys (s : State) (b : Nat) (bs : List Byte) : State :=
  if b < 0x80000000000 then
    let s1 := { s with mem := Memory.writeN s.mem b bs }
    if b < 0x240000000 && !(s1.vc.dead.isEmpty && s1.ctx.vcores.all fun e => e.2.dead.isEmpty) then
      { s1 with vc := s1.vc.undead b bs.length, ctx := s1.ctx.mapVcs fun v => v.undead b bs.length }
    else s1
  else
    let s1 := s.rekey b bs.length
    { s1 with mem := Memory.writeN s1.mem (paOf b) bs }

/-! ## Links (R26 to R28) -/

/-- The CXL port of a pool address, and the span ports in use (log 9). -/
def State.portOf (s : State) (b : Nat) : Nat := Config.poolPort s.poolPorts (paOf b)
def State.liveSpans (s : State) : List Nat := (List.range 24).filter fun p => !s.spanDown.contains p

/-- A link that an access needs is down, or its node cannot be reached (R26 to R28). -/
def State.linkFails (s : State) (b : Nat) : Option (Cause × Nat) :=
  if isPool b && s.cxlDown.contains (s.portOf b) then some (.poolLinkDown, s.portOf b)
  else if isFar b && (s.liveSpans.isEmpty || s.farLost.contains (Config.farNode (paOf b))) then some (.farUnreachable, Config.farNode (paOf b))
  else none

/-! ## The windows of a context, as far as they override a mapping (R17, R245) -/

/-- Whether an address lies in a set window. -/
def Window.covers (w : Window) (va : Nat) : Bool := w.isSet && decide (w.base ≤ va) && decide (va < w.base + 2 ^ w.lsize)

/-- The set window that covers an address (R245). -/
def findWindow (ws : List Window) (va : Nat) : Option Window := ws.find? fun w => w.covers va

/-- The windows of the context in focus. -/
def State.windows (s : State) : List Window := s.ctx.windows.toList

/-! ## The L1 TLBs (R363) -/

/-- The entry of an L1 TLB for an address. -/
def tlbLookup (es : List TlbEntry) (ctx va : Nat) : Option TlbEntry :=
  es.find? fun e => decide (e.ctx = ctx) && decide (e.base ≤ va) && decide (va < e.base + e.size)

/-- The physical address that an entry gives. -/
def TlbEntry.addr (e : TlbEntry) (va : Nat) : Nat := e.pte / 2 ^ 16 % 2 ^ 38 * 2 ^ 16 + va % e.size

/-- The leaf and the bus address of the code at a position: from the instruction TLB, else from the tables. -/
def State.codeAt (s : State) (pos : W64) : Option (Nat × Nat) :=
  match tlbLookup s.vc.itlb s.ctx.id pos.toNat with
  | some e => some (e.pte, busOf (pteSlot e.pte) (e.addr pos.toNat))
  | none => match s.walk pos.toNat with
    | .leaf pte lv _ => some (pte, busOf (pteSlot pte) (leafAddr pte lv pos.toNat))
    | _ => none

/-- The bytes that a fetch at a position takes, none where nothing can be read. -/
def State.codeBytes (s : State) (pos : W64) : Option (List Byte) :=
  (s.codeAt pos).map fun x => s.busRead x.2 (min 16 (32 - pos.toNat % 32))

/-! ## Reports -/

def State.report (s : State) (r : Report) : State := { s with reports := s.reports ++ [r] }

/-- The causes whose ctl.faddr holds an address (R378): the fetch causes and the memory causes; JOIN_UNDERFLOW and
BAD_CODE_POINTER name theirs in the cause table (R382). -/
def causeHasAddr (c : Cause) : Bool :=
  (decide (5 ≤ c.ctorIdx) && decide (c.ctorIdx ≤ 7)) || (decide (24 ≤ c.ctorIdx) && decide (c.ctorIdx ≤ 47)) ||
  (decide (68 ≤ c.ctorIdx) && decide (c.ctorIdx ≤ 73)) || decide (c = .joinUnderflow) || decide (c = .badCodePointer)

/-- A report that concerns no thread (R381). -/
def reportOf (c : Cause) (disp ctxid vcore faddr fdetail cycle : Nat) : Report where
  cause := c
  disp := disp
  thread := 255
  ctxid := ctxid
  vcore := vcore
  stream := 2
  epc := 0
  aepc := 0
  faddr := if causeHasAddr c then faddr else 0
  fdetail := fdetail
  inst := 0
  cycle := cycle

/-! ## Accesses of the hardware by itself (R398) -/

/-- Whether the bytes meet the reserved top of a slice, directly or through a view (R14, R16). -/
def inTail (nmax va size : Nat) : Bool :=
  (decide (va < 0x400000) && decide (0x3C0000 < va + size)) ||
  (decide (0x10000000000 ≤ va) && decide (va < 0x20000000000) && decide ((va - 0x10000000000) / 0x400000 < nmax) &&
    decide (0x3C0000 < (va - 0x10000000000) % 0x400000 + size))

/-- The near guard (R15). -/
def inGuard (va : Nat) : Bool := decide (0x400000 ≤ va) && decide (va < 0x1000000)

/-- Whether a physical range meets the reserved top of a slice (R362, log 53). -/
def paTail (pa size : Nat) : Bool := decide (pa < 0x240000000) && decide (0x3C0000 < pa % 0x400000 + size)

/-- The cause of a write into a window (R17, R245). -/
def windowCause (w : Window) : Cause := if w.kind = 6 then .aliasPartial else .windowStore

/-- The cause of a translation fault by the kind of access (R359). -/
def pageFault : AccKind → Cause
  | .read => .pageFaultRead
  | .fetch => .fetchPageFault
  | _ => .pageFaultWrite

/-- The bus address of one byte of the context in focus below its windows: a translation and a loaded key suffice (R398). A near address has no
translation: it names the slice of the core that makes the access (R15), `own`, and nothing for the launch unit and the save. -/
def State.hwBus (s : State) (k : AccKind) (va : Nat) (own : Bool := false) : Except (Cause × Nat) Nat :=
  if 2 ^ 56 ≤ va then .error (.addressRange, 0)
  else if inTail s.ctx.nmax va 1 then .error (.contextTail, 0)
  else if inGuard va then .error (.nearRange, 0)
  else if va < 0x400000 then (if own then .ok (s.vc.phys * 0x400000 + va) else .error (pageFault k, 0))
  else match s.walk va with
    | .fault lv mal => .error (pageFault k, lv + 8 * b2n mal)
    | .hole _ => .error (pageFault k, 0)
    | .leaf pte lv _ =>
      let pa := leafAddr pte lv va
      if paTail pa 1 then .error (.contextTail, 0)
      else if !(decide (pa < 0x80000000000) || s.keyLoaded (pteSlot pte) s.ctx.id) then .error (.keyInvalid, pteSlot pte)
      else match s.linkFails (busOf (pteSlot pte) pa) with
        | some x => .error x
        | none => .ok (busOf (pteSlot pte) pa)

/-- The bus address of one byte that the hardware writes: no window lies over it. -/
def State.hwAddr (s : State) (va : Nat) (own : Bool := false) : Except (Cause × Nat) Nat :=
  match findWindow s.windows va with
  | some w => .error (windowCause w, 0)
  | none => s.hwBus .write va own

/-- The bus addresses of a range that the hardware writes. -/
def State.hwAddrs (s : State) (own : Bool := false) : Nat → Nat → Except (Cause × Nat) (List Nat)
  | 0, _ => .ok []
  | n + 1, va => do
    let a ← s.hwAddr va own
    let r ← s.hwAddrs own n (va + 1)
    .ok (a :: r)

/-- A hardware write to the memory of the context in focus: made whole, or not made and reported. -/
def State.hwWrite (s : State) (va : Nat) (bs : List Byte) (own : Bool := false) : State :=
  match s.hwAddrs own bs.length va with
  | .ok as => ((as.zip bs).foldl (fun s x => s.writePhys x.1 [x.2]) (s.markLeaf va true))
  | .error (c, d) => s.report (reportOf c 1 s.ctx.id 0xFFFF va d s.now)

/-! ## Messages (R22, R25) -/

def bump (v : Vector W64 4) (k : Nat) : Vector W64 4 := v.setIfInBounds k ((v[k]?.getD 0) + 1)
/-- A message of a class that the core in focus sends. -/
def State.sentMsg (s : State) (k : Nat) : State := s.setCore { s.core with sent := bump s.core.sent k }
/-- A message that a virtual core of the context receives. -/
def State.receivedMsg (s : State) (v k : Nat) : State :=
  let p := s.physOf v
  let c := SMap.get PCore.fresh s.cores p
  { s with cores := SMap.put s.cores p { c with recv := bump c.recv k } }

def addTo (v : Vector W64 4) (k n : Nat) : Vector W64 4 := v.setIfInBounds k ((v[k]?.getD 0) + BitVec.ofNat 64 n)
/-- Messages of a class that a core sends and receives. -/
def PCore.count (c : PCore) (k sent recv : Nat) : PCore := { c with sent := addTo c.sent k sent, recv := addTo c.recv k recv }
def State.countAt (s : State) (core k sent recv : Nat) : State :=
  match SMap.find s.cores core with
  | some c => { s with cores := SMap.put s.cores core (c.count k sent recv) }
  | none => s

/-- Whether a bus address lies outside the slice of core `phys` (R19). -/
def remoteBus (phys b : Nat) : Bool := !decide (b / 0x400000 = phys)

/-- An access served by the core in whose slice it lies: a request, and the data of a store, received, and a response sent. -/
def State.servedAt (s : State) (store : Bool) (b : Nat) : State :=
  if b < 0x240000000 then
    let s1 := (s.countAt (b / 0x400000) 0 0 1).countAt (b / 0x400000) 2 1 0
    if store then s1.countAt (b / 0x400000) 1 0 1 else s1
  else s

/-- The messages of accesses of core `phys` at bus addresses: a request and a response each, and store data for stores (R22, R25; log 12). -/
def State.busTraffic (s : State) (phys : Nat) (store : Bool) (bs : List Nat) : State :=
  let far := bs.filter (remoteBus phys)
  let s1 := far.foldl (fun s b => s.servedAt store b) s
  let n := far.length
  if n = 0 then s
  else
    let s2 := (s1.countAt phys 0 n 0).countAt phys 2 0 n
    if store then s2.countAt phys 1 n 0 else s2

/-- The messages of an access that core `phys` makes by itself at an address of the context, where it reaches one (R328, R330, R314). -/
def State.hwTraffic (s : State) (phys : Nat) (store : Bool) (va : Nat) : State :=
  match s.hwBus .read va true with
  | .ok b => s.busTraffic phys store [b]
  | .error _ => s

/-! ## Translations as TLBs hold them (R361, R364 to R366) -/

/-- The home position of an address (R364). -/
def homePos (c va : Nat) : Nat :=
  let vpn := va / 2 ^ 16 % 2 ^ 40
  Nat.xor (Nat.xor (c * 0x01000193) (vpn % 2 ^ 32)) (vpn / 2 ^ 32) * 0x9E3779B1 % 2 ^ 32 % 288

/-- The home core on a die: the position, or the next enabled one after it. -/
def State.home (s : State) (die c va : Nat) : Nat :=
  let p := homePos c va
  die * 288 + (((List.range 288).map fun i => (p + i) % 288).find? fun x => (SMap.find s.cores (die * 288 + x)).isSome).getD p

/-- The granule entry of a leaf (R364). -/
def granule (c va : Nat) (e : TlbEntry) : TlbEntry :=
  { ctx := c, base := va / 65536 * 65536, size := 65536, pte := e.pte + (va / 65536 * 65536 - e.base) }

/-- A write through an entry whose D is clear and whose W is set needs a fresh walk (R361). -/
def needsD (k : AccKind) (pte : Nat) : Bool := (decide (k = .write) || decide (k = .atomic)) && bitOf pte 3 && !bitOf pte 9

/-- The granule that the L2 home of an address holds for the context in focus and that serves an access of a kind (R364, R365). -/
def State.l2Hit (s : State) (k : AccKind) (va : Nat) : Option (Nat × TlbEntry) :=
  let home := s.home (s.vc.phys / 288) s.ctx.id va
  s.l2tlb.find? fun x => decide (x.1 = home) && decide (x.2.ctx = s.ctx.id) && decide (x.2.base ≤ va) && decide (va < x.2.base + x.2.size) &&
    !needsD k x.2.pte

/-- Copies of translations that an entry new from the tables replaces: none of them is used any more (R366). -/
def TlbEntry.replaces (e x : TlbEntry) : Bool :=
  decide (x.ctx = e.ctx) && meets x.base x.size e.base e.size && decide (x.pte ≠ (granule e.ctx x.base e).pte) && decide (x.pte ≠ e.pte)
def State.dropOlder (s : State) (die : Nat) (e : TlbEntry) : State :=
  { (s.updVc fun v => { v with itlb := v.itlb.filter fun x => !e.replaces x, dtlb := v.dtlb.filter fun x => !e.replaces x }) with
    l2tlb := s.l2tlb.filter fun x => !(decide (x.1 / 288 = die) && e.replaces x.2) }

/-- The entry that a walk of an address gives. -/
def leafEntry (ctx va pte lv : Nat) : TlbEntry := { ctx := ctx, base := va / pageSize lv * pageSize lv, size := pageSize lv, pte := pte }

/-- An address translated by a walk of its own: the copies that the tables no longer agree with are dropped from the TLBs that the core uses, so that
none of its accesses uses an older translation after this one (R366). -/
def State.renew (s : State) (va : Nat) : State :=
  if va < 0x400000 then s
  else match s.walk va with
    | .leaf pte lv _ => s.dropOlder (s.vc.phys / 288) (leafEntry s.ctx.id va pte lv)
    | _ => s

/-- The same for every page of a range. -/
def State.renewRange (s : State) (va n : Nat) : State :=
  ((List.range ((va + n - 1) / 65536 + 1 - va / 65536)).map fun i => (va / 65536 + i) * 65536).foldl State.renew s

/-- A in the leaves of the pages that a range lies in (R361). -/
def State.markRange (s : State) (va n : Nat) : State :=
  ((List.range ((va + n - 1) / 65536 + 1 - va / 65536)).map fun i => (va / 65536 + i) * 65536).foldl
    (fun s a => if n = 0 then s else s.markLeaf a false) s

end Sys2Proof.Machine
end

