-- ==== Sys2Proof/Machine/Gather.lean ====
section
/-! DEFINITION. Task records (R304), deques with their spill areas (R328), gather stations (R325, R326) and enqueuing (R320, R324, R333). -/

namespace Sys2Proof.Machine

/-! ## Records (R304) -/

/-- Offsets that name nothing, and the launch join. -/
def offNone : Nat := 0xFFFFFFFF
def joinLaunch : Nat := 0xFFFFFFFE

/-- The CODE field of a record. -/
def TaskRec.codeWord (t : TaskRec) : Nat := t.rs * 2 ^ 60 + b2n t.restart * 2 ^ 56 + t.code

/-- The 32 bytes of a record. -/
def TaskRec.bytes (t : TaskRec) : List Byte :=
  leBytes 8 t.codeWord ++ leBytes 4 (t.fsize * 2 ^ 20 + t.count) ++ leBytes 4 t.frame ++ leBytes 4 t.result ++ leBytes 4 t.join ++
    leBytes 8 t.key

/-- The record that 32 bytes hold. -/
def taskOf (bs : List Byte) : TaskRec where
  rs := fieldAt bs 0 8 / 2 ^ 60
  restart := bitOf (fieldAt bs 0 8) 56
  code := fieldAt bs 0 8 % 2 ^ 56 / 32 * 32
  fsize := fieldAt bs 8 4 / 2 ^ 20
  count := fieldAt bs 8 4 % 2 ^ 20
  frame := fieldAt bs 12 4
  result := fieldAt bs 16 4
  join := fieldAt bs 20 4
  key := fieldAt bs 24 8

/-- A record as it enters a deque. -/
def deckRec (launch domain group since : Nat) (t : TaskRec) : DRec :=
  { task := t, launch := launch, domain := domain, group := group, since := since, entered := 0, slot := none }

/-! ## Deques (R328) -/

/-- The records on chip, and the slots of the spill area in use. -/
def VCore.onChip (v : VCore) : List DRec := v.deque.filter fun r => r.slot.isNone
def VCore.slots (v : VCore) : List Nat := v.deque.filterMap DRec.slot

/-- The records that a core's spill area holds: none where the runtime placed none. -/
def VCore.spillCap (v : VCore) (spillsize : Nat) : Nat := if v.spillBase = 0 then 0 else spillsize

/-- The room of a deque and its spill area. -/
def VCore.room (v : VCore) (spillsize : Nat) : Nat := 1024 + v.spillCap spillsize - v.deque.length

/-- The lowest slot that is not in use. -/
def freeSlot (used : List Nat) : Nat := ((List.range (used.length + 1)).find? fun k => !used.contains k).getD 0

/-- The `n` oldest records on chip moved to the spill area of `cap` records, as far as it has room. -/
def moveOut (cap : Nat) : Nat → List Nat → List DRec → List DRec
  | n + 1, used, r :: rest =>
    match r.slot with
    | some _ => r :: moveOut cap (n + 1) used rest
    | none =>
      let k := freeSlot used
      if k < cap then { r with slot := some k } :: moveOut cap n (k :: used) rest else r :: rest
  | _, _, rs => rs

/-- The `n` oldest spilled records returned. -/
def moveIn : Nat → List DRec → List DRec
  | n + 1, r :: rest => match r.slot with
    | some _ => { r with slot := none } :: moveIn n rest
    | none => r :: moveIn (n + 1) rest
  | _, rs => rs

/-- What lies on chip after a change: above 1,024 records the oldest move to the spill area, and at 512 spilled records return until 768
are on chip. -/
def VCore.respill (v : VCore) (spillsize : Nat) : VCore :=
  let n := v.onChip.length
  if 1024 < n then { v with deque := moveOut (v.spillCap spillsize) (n - 1024) v.slots v.deque }
  else if n ≤ 512 then { v with deque := moveIn (768 - n) v.deque }
  else v

/-! ## Gather stations (R325) -/

/-- A record put into the station of its key that has room, or into a free station, if there is one. -/
def placeStation (now : Nat) (r : DRec) (ss : List Station) : Option (List Station) :=
  match ss.findIdx? fun x => !x.recs.isEmpty && decide (x.launch = r.launch) && decide (x.code = r.task.code) && decide (x.recs.length < 32) with
  | some i => some (ss.modify i fun x => { x with recs := x.recs ++ [{ r with entered := now }] })
  | none =>
    match ss.findIdx? fun x => x.recs.isEmpty with
    | some i => some (ss.set i { launch := r.launch, code := r.task.code, recs := [{ r with entered := now }], expired := false })
    | none => none

/-- The groups of a deque, the newest first, each in its internal order. -/
def groupsOf (rs : List DRec) : List DRec := ((rs.splitBy fun a b => decide (a.group = b.group)).reverse).flatten

/-- Records placed in their order: the stations, and the records that stay. -/
def gatherLoop (now : Nat) : List DRec → List Station → List DRec → List Station × List DRec
  | [], ss, kept => (ss, kept)
  | r :: rest, ss, kept =>
    match placeStation now r ss with
    | some ss' => gatherLoop now rest ss' kept
    | none => gatherLoop now rest ss (kept ++ [r])

/-- A deque without the records on chip that do not stay, of which `kept` lists the others in order. -/
def keepRecs : List DRec → List DRec → List DRec
  | [], _ => []
  | r :: rest, kept =>
    if r.slot.isSome then r :: keepRecs rest kept
    else match kept with
      | k :: ks => if k = r then r :: keepRecs rest ks else keepRecs rest kept
      | [] => keepRecs rest []

/-- The records on chip moved into stations as far as they fit. -/
def VCore.gatherOnce (v : VCore) (spillsize now : Nat) : VCore :=
  let (ss, kept) := gatherLoop now (groupsOf v.onChip) v.stations []
  VCore.respill { v with deque := keepRecs v.deque (groupsOf kept), stations := ss } spillsize

/-- The gather unit's moves until none is left to make. -/
def gatherFuel (spillsize now : Nat) : Nat → VCore → VCore
  | 0, v => v
  | n + 1, v =>
    let v1 := v.gatherOnce spillsize now
    if v1.deque.length = v.deque.length then v1 else gatherFuel spillsize now n v1
def VCore.gather (v : VCore) (spillsize now : Nat) : VCore := gatherFuel spillsize now (v.deque.length + 1) v

/-- No record left in the deque could enter a station (R326). -/
def VCore.gatherDone (v : VCore) (now : Nat) : Bool := v.deque.all fun r => (placeStation now r v.stations).isNone

/-! ## Changes of a deque -/

/-- Whether a virtual core of the context takes `n` more records (R328). -/
def State.fits (s : State) (v n : Nat) : Bool :=
  match s.vcAt v with
  | some x => decide (n ≤ x.room s.ctx.spillsize.toNat)
  | none => false

/-- The address of a spilled record of a virtual core. -/
def VCore.spillAddr (v : VCore) (r : DRec) : Nat := v.spillBase + 32 * r.slot.getD 0

/-- The records that a change of the deque of virtual core `v` took out of its spill area are read there, and those that it moved there are
written (R328), with their messages (R25). -/
def State.writeSpills (s : State) (v : Nat) (before : List DRec) : State :=
  match s.vcAt v with
  | none => s
  | some x =>
    let s1 := (before.filter fun r => r.slot.isSome && !x.deque.contains r).foldl
      (fun s r => (s.hwTraffic x.phys false (x.spillAddr r)).markLeaf (x.spillAddr r) false) s
    (x.deque.filter fun r => r.slot.isSome && !before.contains r).foldl
      (fun s r => (s.hwTraffic x.phys true (x.spillAddr r)).hwWrite (x.spillAddr r) r.task.bytes) s1

/-- A change of the deque of a virtual core, after which the spill area and the gather unit make their moves (R325, R328). -/
def State.changeDeque (s : State) (v : Nat) (f : VCore → VCore) : State :=
  match s.vcAt v with
  | none => s
  | some x =>
    (s.onVc v fun x => ((f x).respill s.ctx.spillsize.toNat).gather s.ctx.spillsize.toNat (s.nowOf v)).writeSpills v x.deque

/-- Records entering the deque of a virtual core as one group, in order (R320, R333). -/
def State.enqueue (s : State) (v launch domain : Nat) (ts : List TaskRec) : State :=
  let s1 := s.changeDeque v fun x => { x with deque := x.deque ++ ts.map (deckRec launch domain s.nextId (s.nowOf v)) }
  { s1 with nextId := s1.nextId + 1 }

end Sys2Proof.Machine
end

