-- ==== Sys2Proof/Machine/Ops.lean ====
section
/-! DEFINITION. The control flow of a meaning, causes (R377, R382), reports, containment (R394), taking a trap (R376 to R381, R396), and
completing an instruction (R10, R41). -/

namespace Sys2Proof.Machine

/-! ## The control flow of a meaning -/

/-- What a trap is taken with (R378). -/
structure TrapInfo where
  cause : Cause
  faddr : Nat
  fdetail : Nat
  deriving DecidableEq, Repr

/-- Why a meaning's body does not complete: a trap, a trap that leaves a changed state (a report of a late error, R141), or a wait. -/
inductive Stop where
  | trap (t : TrapInfo)
  | trapIn (s : State) (t : TrapInfo)
  | wait (w : Wait)
  | waitIn (s : State) (w : Wait)
  /-- A table walk reached a physical address that does not exist. -/
  | fault (f : Fault)
  deriving DecidableEq, Repr

/-- The result of a body. -/
abbrev Res (α : Type) := Except Stop α

/-- A trap with no address and no detail. -/
def raise {α : Type} (c : Cause) : Res α := .error (.trap ⟨c, 0, 0⟩)
def raiseD {α : Type} (c : Cause) (detail : Nat) : Res α := .error (.trap ⟨c, 0, detail⟩)
def raiseA {α : Type} (c : Cause) (addr detail : Nat) : Res α := .error (.trap ⟨c, addr, detail⟩)
def waitFor {α : Type} (w : Wait) : Res α := .error (.wait w)

/-- Go on where a condition does not hold, else raise the cause. -/
def refuseIf (b : Bool) (c : Cause) : Res Unit := if b then raise c else .ok ()
def refuseIfD (b : Bool) (c : Cause) (d : Nat) : Res Unit := if b then raiseD c d else .ok ()

/-- Go on where a condition does not hold, else wait. -/
def waitIf (b : Bool) (w : Wait) : Res Unit := if b then waitFor w else .ok ()

/-! ## Causes -/

/-- The code of a cause (R382). -/
def causeCode (c : Cause) : Nat := c.ctorIdx

/-- The dispositions of R377. -/
inductive Disp where
  | h | e | p | f
  deriving DecidableEq, Repr

/-- The disposition of a cause (R382). -/
def causeDisp : Cause → Disp
  | .fetchPageFault | .breakpoint | .singleStep | .watchpoint | .pageFaultRead | .pageFaultWrite | .keyInvalid | .farUnreachable
  | .spawnOverflow | .queueFull | .launchNoObject | .launchInvalid | .copyFailed | .preempt | .gangStop | .debugHalt => .p
  | .retiredOp => .e
  | .poolError | .watchdog | .saveAbandoned | .sramUncorrectable | .accUncorrectable | .regfileUncorrectable | .spanLinkDown
  | .poolLinkDown | .containment | .firmwareError | .thermalTrip | .machineCheck | .contextKilled => .f
  | _ => .h

/-- The cause of a code, none above 97. -/
def causeOfCode (n : Nat) : Cause :=
  ([Cause.none, .illegalOpcode, .illegalLength, .reservedField, .fetchCrossing, .fetchMisaligned, .fetchPageFault, .fetchPerm,
    .retiredOp, .handlerOnly, .readonlyReg, .ctlAccess, .softTrap, .breakpoint, .singleStep, .watchpoint] ++
   [.bindCycle, .boundWrite, .linkOverflow, .linkOperand, .linkStream, .streamDeadlock, .queueDirection, .queueAtPpt,
    .pageFaultRead, .pageFaultWrite, .permRead, .permWrite, .misaligned, .notHolder, .localNotHolder, .commonPlainStore] ++
   [.frameWindow, .sealedWrite, .holdingInvalid, .handInvalid, .windowStore, .windowConfig, .aliasPartial, .keyInvalid,
    .contextTail, .nearRange, .atomicClass, .nondetOp, .replayFailed, .farUnreachable, .poolError, .addressRange] ++
   [.spawnOverflow, .queueFull, .queueInvalid, .joinUnderflow, .badCodePointer, .placementInvalid, .launchNoObject, .launchInvalid,
    .frameArena, .tailInvalid, .accAnchor, .accRange, .formatMismatch, .mcmdReject, .mcmdTarget, .planeRecord] ++
   [.sparseIndex, .weightBank, .tileGroup, .seqRecord, .copyFailed, .recordInvalid, .recordIndex, .tokenError,
    .multicastGroup, .convertInvalid, .haloShort, .ruleTable, .tileDescriptor, .ruleIndexWidth, .fpInvalid, .fpDivzero] ++
   [.fpOverflow, .fpUnderflow, .fpInexact, .preempt, .watchdog, .gangStop, .debugHalt, .saveAbandoned,
    .sramUncorrectable, .accUncorrectable, .regfileUncorrectable, .spanLinkDown, .poolLinkDown, .containment, .firmwareError,
    .thermalTrip, .machineCheck, .contextKilled])[n]?.getD .none

/-! ## Launches -/

/-- The launch of the thread in focus. -/
def State.launchOf (s : State) : Option Launch := SMap.find s.ctx.launches s.thr.launch

/-- Whether the running launch is deterministic (R35). -/
def State.det (s : State) : Bool := match s.launchOf with | some l => l.det | none => false

/-- Nv of the running launch (R34). -/
def State.nv (s : State) : Nat := match s.launchOf with | some l => l.nv | none => 0

/-- Whether a live lane of the firing is RESTARTABLE (R370). -/
def Thread.restartable (t : Thread) : Bool := t.lanes.any fun l => l.task.restart

/-! ## Reports and containment -/

/-- A context whose threads, firings, records, copies and commands are discarded (R394): its holdings, objects, page tables and
memory remain. -/
def Ctx.discard (c : Ctx) : Ctx :=
  { c with launches := [], handovers := [], copies := [], freeMsgs := [], mcmds := [], preempt := .none, saved := [],
           killed := true, vcores := [] }

/-- Containment of a context (R394) with the report that the host receives. -/
def State.kill (s : State) (c : Nat) (r : Report) : State :=
  let s1 := s.sync
  let s2 := State.onCtx s1 c Ctx.discard
  State.report (s2.load s1.tid) { r with disp := 2 }

/-- Whether a thread or a copy has an operation on a link that failed: a store on its way over it, or one that the failure cost (R26, R28). -/
def Thread.usesLink (on : Nat → Bool) (lost : LateErr → Bool) (t : Thread) : Bool :=
  (t.stores.any fun x => on x.pa) || (t.storeErr ++ t.deferred).any lost
def State.vaOn (s : State) (root : Nat) (on : Nat → Bool) (va : Nat) : Bool :=
  match walkFrom s.mem va 5 1 root with
  | .leaf pte lv _ => on (leafAddr pte lv va)
  | _ => false

/-- Whether two details name one port of a failed link: that of an access through a view is its view address and names none (R244). -/
def samePort (d e : Nat) : Bool := decide (d = e) || decide (24 ≤ d) || decide (24 ≤ e)

/-- Whether a context uses the link whose failure a cause names (R394, log 39). -/
def State.usesLink (s : State) (i : TrapInfo) (x : Ctx) : Bool :=
  let on := fun b => decide (i.cause = .poolLinkDown) && isPool b && s.cxlDown.contains (s.portOf b) && samePort (s.portOf b) i.fdetail
  let lost := fun e : LateErr => decide (e.cause = i.cause) && samePort e.fdetail i.fdetail
  x.live && !x.killed && ((x.vcores.any fun v => v.2.threads.any fun t => t.2.usesLink on lost) ||
    x.copies.any fun j => j.2.stop.any lost || s.vaOn x.root on j.2.src.base || s.vaOn x.root on j.2.dst.base)

/-- The entries of a table of a level (R357). -/
def tableEntries : Nat → Nat
  | 1 => 256
  | 5 => 32
  | _ => 512

/-- Whether the tables from level `lv` on, with `n` levels left, map a physical address (R357 to R359). -/
def mapsFrom (m : Memory) (pa : Nat) : Nat → Nat → Nat → Bool
  | 0, _, _ => false
  | n + 1, lv, t =>
    (List.range (tableEntries lv)).any fun k =>
      let e := Memory.readLe m (t + 8 * k) 8
      decide (e % 2 = 1) && !pteMalformed e lv &&
        (if e / 2 % 2 = 1 then decide (e / 2 ^ 16 % 2 ^ 38 * 2 ^ 16 ≤ pa) && decide (pa < e / 2 ^ 16 % 2 ^ 38 * 2 ^ 16 + pageSize lv)
         else mapsFrom m pa n (lv + 1) (e / 2 ^ 12 % 2 ^ 42 * 2 ^ 12))

/-- The word of pool memory that an access of the context in focus at an address met: the first one from there on that cannot be corrected. -/
def State.badPoolWord (s : State) (va : Nat) : Option Nat :=
  match s.walk va with
  | .leaf pte lv _ =>
    let pa := leafAddr pte lv va
    (s.badWords.filter fun w => isPool w && decide (pa < w + 16) && decide (w < pa + 64)).min?
  | _ => none

/-- Whether a context shares the pool memory whose error a cause reports: its page tables map the word (R356, R394, log 39). -/
def State.sharesWord (s : State) (i : TrapInfo) (x : Ctx) : Bool :=
  x.live && !x.killed && (s.badPoolWord i.faddr).any fun w => mapsFrom s.mem w 5 1 x.root

/-- Whether a context was using what failed with a cause. -/
def State.shares (s : State) (i : TrapInfo) (x : Ctx) : Bool :=
  if i.cause = .poolLinkDown || i.cause = .spanLinkDown then s.usesLink i x
  else if i.cause = .poolError then s.sharesWord i x
  else false

/-- The other contexts that were using a link or the pool memory that failed, killed with it: their reports name the context in focus, whose access
found the failure (R382, R394). -/
def State.containShared (s : State) (i : TrapInfo) : State :=
  (s.sync.ctxs.filter fun x => s.shares i x.2).foldl (fun u x => u.kill x.1 (reportOf .containment 2 x.1 0xFFFF 0 s.ctx.id u.now)) s

/-! ## Trap entry -/

/-- The first two words of an instruction's bytes. -/
def firstWords (bs : List Byte) : Nat := leNat (bs.take 8)

/-- Words 0 and 1 of the instruction at a position, zero where nothing can be read there (R34: ctl.einst). Of an instruction of the
E-stream's path they are those that were fetched (R41). -/
def State.instAt (s : State) (pos : W64) : Nat := firstWords ((s.codeBytes pos).getD [])
def State.einstAt (s : State) (pos : W64) : Nat :=
  match SMap.find s.thr.eWords pos.toNat with
  | some bs => firstWords bs
  | none => s.instAt pos
def State.instOf (s : State) (estream : Bool) : Nat := if estream then s.einstAt s.thr.ePos else s.instAt s.thr.apc

/-! ## The path of the E-stream (R38, R41) -/

/-- The causes that the A-stream raises whatever the ST bit (R41). -/
def fetchCause (c : Cause) : Bool := decide (c = .illegalLength) || decide (c = .fetchCrossing)

/-- The position after a pad word (R38). -/
def padNext (pos : W64) : W64 := BitVec.ofNat 64 (pos.toNat / 32 * 32 + 32)

/-- The A position moved past an instruction that the E-stream executes: it joins the path with the bytes that were fetched, unless the
E-stream, ahead of the A-stream, has executed it. -/
def Thread.pass (t : Thread) (len : Nat) (bs : List Byte) : Thread :=
  let next := t.apc + BitVec.ofNat 64 len
  if t.eNext ≤ t.apc then
    { t with apc := next, ePath := t.ePath ++ [t.apc], eWords := SMap.put t.eWords t.apc.toNat bs, eNext := 0, waitA := .none }
  else { t with apc := next, eNext := if t.eNext ≤ next then 0 else t.eNext, waitA := .none }

/-- The A position moved past a pad word (R38). -/
def Thread.passPad (t : Thread) : Thread :=
  let next := padNext t.apc
  { t with apc := next, eNext := if t.eNext ≤ next then 0 else t.eNext, waitA := .none }

/-- The A position moved past the pad word or the instruction of the E-stream whose bytes stand there; none at an instruction of the
A-stream. -/
def Thread.passCode (t : Thread) (bs : List Byte) : Option Thread :=
  match decodeAt (t.apc.toNat % 32) bs with
  | .pad => some t.passPad
  | .instr _ len => if stBit bs then some (t.pass len bs) else none
  | .fault e => if fetchCause e.cause || !stBit bs then none else some (t.pass (lengthOf (lenOf (leNat (bs.take 4)))) bs)

/-- The A position moved to the next instruction of the A-stream, or to where a fetch fails: the oldest A-stream instruction that has not
completed (R181). -/
def State.passOver : Nat → State → State
  | 0, s => s
  | n + 1, s =>
    match s.codeAt s.thr.apc, (s.codeBytes s.thr.apc).bind s.thr.passCode with
    | some (pte, _), some t => if s.thr.apc.toNat % 4 = 0 && bitOf pte 4 && !bitOf pte 3 then State.passOver n (s.setThr t) else s
    | _, _ => s

/-- The report of a trap of the thread in focus (R381). -/
def State.trapReport (s : State) (estream : Bool) (epc : W64) (t : TrapInfo) (disp : Nat) : Report where
  cause := t.cause
  disp := disp
  thread := s.thr.id
  ctxid := s.ctx.id
  vcore := s.vc.id
  stream := b2n estream
  epc := epc.toNat
  aepc := if estream then s.thr.apc.toNat else 0
  faddr := if causeHasAddr t.cause then t.faddr else 0
  fdetail := t.fdetail
  inst := s.instOf estream
  cycle := s.now

/-- Handler mode entered (R378). -/
def Thread.enter (t : Thread) (trapvec : W64) (estream : Bool) (inst : Nat) (i : TrapInfo) : Thread :=
  { t with
    cause := BitVec.ofNat 64 (causeCode i.cause)
    epc := if estream then t.ePos else t.apc
    aepc := if estream then t.apc else 0
    faddr := BitVec.ofNat 64 (if causeHasAddr i.cause then i.faddr else 0)
    fdetail := BitVec.ofNat 64 i.fdetail
    einst := BitVec.ofNat 64 inst
    handler := true
    trapPath := if estream then t.ePath else []
    apc := trapvec
    ePath := []
    eNext := 0
    eWords := []
    waitA := .none
    waitE := .none
    watchPass := [] }

/-- The thread freed, its firing and links discarded (R166, R314). With the firing an HPRIO boost of its ends, whatever issues it has left:
a DESIGN CHOICE (log 54). -/
def Thread.freed (t : Thread) : Thread :=
  { Thread.fresh t.id with singleStep := t.singleStep, lastA := t.lastA, lastE := t.lastE, agedA := t.agedA, agedE := t.agedE }

/-- Whether R396 replays the firing of the thread in focus. -/
def State.replayable (s : State) (c : Cause) : Bool :=
  (decide (c = .sramUncorrectable) || decide (c = .accUncorrectable) || decide (c = .regfileUncorrectable) ||
    decide (c = .machineCheck)) &&
  (match s.launchOf with | some l => l.replay | none => false) &&
  !s.thr.lanes.isEmpty && s.thr.lanes.all (fun l => l.task.restart) && !s.thr.touchedArray

/-- The running MTILE and RSTEP of a core stopped at their boundaries, and its group's locks given up (R231, R233, R337, R350). -/
def VCore.stopJobs (v : VCore) : VCore :=
  { v with
    tile := none
    rule := none
    groupLock := none
    lantern := match v.rule with | some j => v.lantern.filter fun t => decide (t ≠ j.thread) | none => v.lantern }

/-- The same of every core of the context in focus: their instructions are executed again when the context goes on. -/
def State.stopJobs (s : State) : State := { s with vc := s.vc.stopJobs, ctx := s.ctx.mapVcs VCore.stopJobs }

/-- R396: the firing is discarded, a pre-emption is requested, and each lane's record is enqueued again. -/
def State.replayFiring (s : State) (r : Report) : State :=
  let s1 := { s.stopJobs with
    thr := s.thr.freed
    ctx := { s.stopJobs.ctx with preempt := match s.ctx.preempt with | .none => .pending [] | p => p } }
  (s1.enqueue s.vc.id s.thr.launch 0 (s.thr.lanes.map LaneRec.task)).report { r with disp := 1 }

/-- The members' locks of an MTILE group released: those that core `v` took (R231). -/
def VCore.unlock (v : Nat) (x : VCore) : VCore := if x.groupLock = some v then { x with groupLock := none } else x

/-- The lantern order without a thread (R337). -/
def VCore.leaveLantern (v : VCore) (n : Nat) : VCore := { v with lantern := v.lantern.filter fun t => decide (t ≠ n) }

/-- The running MTILE of a thread of the core in focus stopped at its step boundary (R233): its group is unlocked. -/
def State.dropTile (s : State) (th : Nat) : State :=
  if s.vc.tile.any fun j => decide (j.thread = th) then
    { s with
      vc := { s.vc.unlock s.vc.id with tile := none }
      ctx := s.ctx.mapVcs (VCore.unlock s.vc.id) }
  else s

/-- The running RSTEP of a thread stopped at its boundary (R350), and the thread's place in the lantern order given up. -/
def VCore.dropRule (v : VCore) (th : Nat) : VCore :=
  { v.leaveLantern th with rule := if v.rule.any (fun j => decide (j.thread = th)) then none else v.rule }

/-- A running MTILE or RSTEP of the thread in focus stopped, and its place in the lantern order given up. -/
def State.dropJobs (s : State) : State := (s.dropTile s.thr.id).updVc fun v => v.dropRule s.thr.id

/-- The thread in focus as a trap of a stream finds it: its jobs are stopped, and at a trap of the E-stream the A-stream stands at its oldest
instruction that has not completed (R181). -/
def State.atTrap (s : State) (estream : Bool) : State := if estream then (s.passOver 0x10000).dropJobs else s.dropJobs

/-- A trap of the thread in focus, taken under its disposition (R377). `next` is the EPC of a report that names the next instruction. -/
def State.takeTrap (s0 : State) (estream : Bool) (i : TrapInfo) (next : Option W64 := none) : State :=
  let s := s0.atTrap estream
  let epc := next.getD (if estream then s.thr.ePos else s.thr.apc)
  match causeDisp i.cause with
  | .p =>
    let r := s.trapReport estream epc i 1
    State.report (s.updThr fun t => { t with status := .parked r, waitA := .none, waitE := .none }) r
  | .h | .e =>
    if s.ctx.trapvec = 0 || s.thr.handler then s.kill s.ctx.id (s.trapReport estream epc i 2)
    else s.updThr fun t => t.enter s.ctx.trapvec estream (s.instOf estream) i
  | .f =>
    if s.replayable i.cause then s.replayFiring (s.trapReport estream epc i 1)
    else (s.kill s.ctx.id (s.trapReport estream epc i 2)).containShared i

/-! ## Completing an instruction -/

abbrev Out := Host.Outcome State Fault Refusal

/-- After an instruction of a stepped thread completes, the thread parks (R391). -/
def State.stepPark (s : State) (estream : Bool) : State :=
  if s.thr.singleStep && decide (s.thr.status = .running) then
    s.takeTrap estream ⟨.singleStep, 0, 0⟩ none
  else s

/-- One A-stream issue taken from a boost (R62): `hprio` is the number of issues left plus 1 while a boost stands, and 0 otherwise. -/
def useBoost (h : Nat) : Nat := if 2 ≤ h then h - 1 else h

/-- The A position moved to `pos` after an A-stream instruction: one issue of an HPRIO boost is used (R62), the waits end. -/
def State.retireTo (s : State) (pos : W64) : State :=
  (s.updThr fun t => { t with apc := pos, waitA := .none, waitE := .none, watchPass := t.watchPass.filter fun n => decide (4 ≤ n), hprio := useBoost t.hprio, lastA := s.now, agedA := 0 }).stepPark false

/-- The waits of an instruction that can raise nothing any more when its wait ends (R10). -/
def Wait.cleared : Wait → Bool
  | .pop _ | .push _ | .held _ _ | .word | .take | .rstep | .replayRoom _ => true
  | _ => false

/-- Those of them that the instruction itself ends: RSTEP, whose boundaries an engine makes, can still meet a hardware error (R350). -/
def Wait.settled (w : Wait) : Bool := w.cleared && decide (w ≠ .rstep)

/-- An A-stream trap is taken after every older E-stream instruction has completed (R376), in the state `s'` that the stop leaves. An instruction
that has cleared its checks and only waits raises none (R10). -/
def State.trapFrom (s s' : State) (i : TrapInfo) : State :=
  if s.thr.waitA.settled then s
  else if s.thr.ePath.isEmpty then s'.takeTrap false i
  else s.updThr fun t => { t with waitA := .other }
def State.trapA (s : State) (i : TrapInfo) : State := s.trapFrom s i

/-- The outcome of an A-stream instruction whose body gives the next position. -/
def finishTo (s : State) (r : Res (State × W64)) : Out :=
  match r with
  | .ok (s', pos) => .next (s'.retireTo pos)
  | .error (.trap i) => .next (s.trapFrom s i)
  | .error (.trapIn s' i) => .next (s.trapFrom s' i)
  | .error (.wait w) => .next (if s.thr.waitA.settled && !w.settled then s else s.updThr fun t => { t with waitA := w })
  | .error (.waitIn s' w) => .next (s'.updThr fun t => { t with waitA := w })
  | .error (.fault f) => .fault f

/-- The outcome of an A-stream instruction of `len` bytes. -/
def finishA (len : Nat) (s : State) (r : Res State) : Out :=
  finishTo s (match r with
    | .ok s' => .ok (s', s.thr.apc + BitVec.ofNat 64 len)
    | .error e => .error e)

/-- The E position past an instruction of `len` bytes. -/
def Thread.retireE (t : Thread) (len : Nat) (now : Nat) : Thread :=
  let t1 := { t with waitE := .none, watchPass := t.watchPass.filter fun n => decide (n < 4), lastE := now, agedE := 0 }
  match t.ePath with
  | pos :: rest => { t1 with ePath := rest, eWords := if rest.contains pos then t.eWords else SMap.del t.eWords pos.toNat }
  | [] => { t1 with eNext := t.eNext + BitVec.ofNat 64 len }

/-- The outcome of an E-stream instruction of `len` bytes. -/
def finishE (len : Nat) (s : State) (r : Res State) : Out :=
  match r with
  | .ok s' => .next ((s'.updThr fun t => t.retireE len s.now).stepPark true)
  | .error (.trap i) => .next (s.takeTrap true i)
  | .error (.trapIn s' i) => .next (s'.takeTrap true i)
  | .error (.wait w) => .next (s.updThr fun t => { t with waitE := w })
  | .error (.waitIn s' w) => .next (s'.updThr fun t => { t with waitE := w })
  | .error (.fault f) => .fault f

/-- The position of the instruction after an A-stream instruction of `len` bytes. -/
def State.after (s : State) (len : Nat) : W64 := s.thr.apc + BitVec.ofNat 64 len

end Sys2Proof.Machine
end

