-- ==== Sys2Proof/Machine/Links.lean ====
section
/-! DEFINITION. Links and the settle (R157 to R168, R173). -/

namespace Sys2Proof.Machine

/-- Whether an integer lies outside the signed w-bit range. -/
def outside (w : Nat) (x : Int) : Bool := decide (x < -(2 ^ (w - 1) : Nat)) || decide ((2 ^ (w - 1) : Nat) ≤ x)

/-- The value of a level link and whether it overflows under CK (R158). -/
def levelFn (w : Nat) (op k : Nat) (a b c : BitVec w) : BitVec w × Bool :=
  match op with
  | 0 => (a + b, outside w (a.toInt + b.toInt))
  | 1 => (a - b, outside w (a.toInt - b.toInt))
  | 2 => (a + b * c, outside w (a.toInt + b.toInt * c.toInt))
  | 3 => (a + b <<< k, outside w (a.toInt + b.toInt * (2 ^ k : Nat)))
  | 4 => (if a.sle b then a else b, false)
  | 5 => (if a.sle b then b else a, false)
  | 6 => (let m := if a.sle b then b else a; if m.sle c then m else c, false)
  | 7 => (if a.slt b then 1 else 0, false)
  | 8 => (if a.ult b then 1 else 0, false)
  | 9 => (if a.sle b then 1 else 0, false)
  | 10 => (if a = b then 1 else 0, false)
  | 11 => (a &&& b, false)
  | 12 => (a ||| b, false)
  | 13 => (a ^^^ b, false)
  | 14 => (if c = 0 then b else a, false)
  | _ => (a, false)

/-- What an edge link makes of its destination `d` and its trigger's new value `a` (R159). -/
def edgeFn (w : Nat) (op : Nat) (d a : BitVec w) : BitVec w × Bool :=
  match op with
  | 0 => (d + a, outside w (d.toInt + a.toInt))
  | 1 => (d + 1, outside w (d.toInt + 1))
  | 2 => (if d.sle a then d else a, false)
  | 3 => (if d.sle a then a else d, false)
  | 4 => (d + a * a, outside w (d.toInt + a.toInt * a.toInt))
  | 5 => (a, false)
  | _ => (d ||| a, false)

/-- Whether a level operation reads b, and c (R158). -/
def levelUsesB (op : Nat) : Bool := decide (op ≠ 15)
def levelUsesC (op : Nat) : Bool := decide (op = 2) || decide (op = 6) || decide (op = 14)

/-- The registers that are sources, trigger or gate of a link: the tails of the arcs of R161. -/
def Link.reads (l : Link) : List Nat :=
  if l.edge then l.a :: (if l.opb = 0 then [] else [l.opb])
  else l.a :: ((if levelUsesB l.op && !l.imm then [l.opb] else []) ++ (if levelUsesC l.op then [l.c] else []))

/-- The bound links of a kind with their slots, in ascending slot order. -/
def Thread.links (t : Thread) (ek : Bool) : List (Nat × Link) :=
  (List.range 32).filterMap fun n =>
    match t.getL n with
    | some l => if l.ek = ek then some (n, l) else none
    | none => none

/-- A link that no link of `rem` feeds: the next in topological order, ties by ascending slot (R161). -/
def nextLink (rem : List (Nat × Link)) : Option (Nat × Link) :=
  rem.find? fun y => !(rem.any fun x => decide (x.1 ≠ y.1) && y.2.reads.contains x.2.d)

/-- The links in the order of the settle, as far as the graph has no cycle. -/
def topoOrder : Nat → List (Nat × Link) → List (Nat × Link)
  | 0, _ => []
  | n + 1, rem =>
    match nextLink rem with
    | none => []
    | some y => y :: topoOrder n (rem.filter fun x => decide (x.1 ≠ y.1))

/-- Whether a link graph has a cycle (R164): a level link that names its own destination counts. -/
def hasCycle (ls : List (Nat × Link)) : Bool :=
  decide ((topoOrder ls.length ls).length ≠ ls.length) || ls.any fun x => !x.2.edge && x.2.reads.contains x.2.d

/-- The level link of a kind that has register `d` as its destination, by its slot (R163). -/
def Thread.levelDest (t : Thread) (ek : Bool) (d : Nat) : Option Nat :=
  ((t.links ek).find? fun x => !x.2.edge && decide (x.2.d = d)).map Prod.fst

/-- The link of a kind in another slot that has `d` as its destination (R163). -/
def Thread.otherDest (t : Thread) (ek : Bool) (slot d : Nat) : Option Nat :=
  ((t.links ek).find? fun x => decide (x.1 ≠ slot) && decide (x.2.d = d)).map Prod.fst

/-! ## The settle of the A-stream's links -/

/-- The b operand of an A-kind level link (R158). -/
def Link.opB (l : Link) (t : Thread) : W64 := if l.imm then sext64 32 l.opb else t.getS l.opb

/-- The value that a link gives its destination in a settle whose written registers are `w`, with the overflow; none when it is
not evaluated (R161). -/
def Link.evalA (l : Link) (t : Thread) (w : List Nat) : Option (W64 × Bool) :=
  if l.edge then
    if w.contains l.a && (decide (l.opb = 0) || decide (t.getS l.opb ≠ 0)) then some (edgeFn 64 l.op (t.getS l.d) (t.getS l.a)) else none
  else if l.reads.any w.contains then some (levelFn 64 l.op l.sh (t.getS l.a) (l.opB t) (t.getS l.c))
  else none

/-- The links of a settle in their order, from the registers written so far. -/
def settleLoopA : List (Nat × Link) → Thread → List Nat → Res Thread
  | [], t, _ => .ok t
  | (n, l) :: rest, t, w =>
    match l.evalA t w with
    | none => settleLoopA rest t w
    | some (x, ovf) =>
      if l.ck && ovf then raiseD .linkOverflow n
      else settleLoopA rest (t.setS l.d x) (l.d :: w)

/-- The settle of A-kind links after the registers `w` have been written (R161). -/
def Thread.settleA (t : Thread) (w : List Nat) : Res Thread :=
  let ls := t.links false
  if ls.isEmpty then .ok t else settleLoopA (topoOrder 32 ls) t w

/-- A link that can overflow under CK (R158, R159). -/
def Link.canOverflow (l : Link) : Bool := l.ck && (if l.edge then decide (l.op ≤ 1) || decide (l.op = 4) else decide (l.op ≤ 3))

/-- Whether a settle that evaluates the links that the written registers reach may overflow. -/
def reachesOverflow : List (Nat × Link) → List Nat → Bool
  | [], _ => false
  | (_, l) :: rest, w =>
    if (if l.edge then w.contains l.a else l.reads.any w.contains) then l.canOverflow || reachesOverflow rest (l.d :: w)
    else reachesOverflow rest w

/-- Whether a write of a register may raise LINK_OVERFLOW (R165): an instruction that is to make it can still fault (R10). -/
def Thread.mayOverflow (t : Thread) (d : Nat) : Bool := decide (d ≠ 0) && reachesOverflow (topoOrder 32 (t.links false)) [d]

/-- A write event of one scalar register and its settle; a write of s0 is none (R129, R160). -/
def Thread.writeS (t : Thread) (d : Nat) (x : W64) : Res Thread := if d = 0 then .ok t else (t.setS d x).settleA [d]

/-- BOUND_WRITE: the destination is the destination of a level link (R129, R163). -/
def Thread.checkDest (t : Thread) (d : Nat) : Res Unit :=
  if d = 0 then .ok () else
  match t.levelDest false d with
  | some n => raiseD .boundWrite n
  | none => .ok ()

/-- R129 for an instruction of the thread in focus: the check, the write and the settle. -/
def State.writeS (s : State) (d : Nat) (x : W64) : Res State := do
  let t ← s.thr.writeS d x
  .ok (s.setThr t)

/-- An instruction that computes one scalar value and writes it (R129): the shape of the scalar families. -/
def scalarOp (d : Nat) (x : State → W64) (s : State) : Res State := do
  s.thr.checkDest d
  s.writeS d (x s)

/-! ## The settle of the E-stream's links -/

/-- The lanes of a mask. -/
def laneOn (mask : W32) (i : Nat) : Bool := mask.getLsbD i

/-- The lanes written of each register in a settle. -/
abbrev Written := List (Nat × W32)

/-- The lanes of a register that have been written. -/
def Written.lanes (w : Written) (r : Nat) : W32 := w.foldl (fun acc e => if e.1 = r then acc ||| e.2 else acc) 0

/-- The value, the lanes written and the lanes that overflow of an E-kind link in a settle; none when it is not evaluated (R161, R174).
A level link is evaluated in all 32 lanes, an edge link fires in the written, gated lanes. -/
def Link.evalE (l : Link) (t : Thread) (w : Written) : Option (Lanes × W32 × W32) :=
  if l.edge then
    let gate := t.getV l.opb
    let on := if l.opb = 0 then w.lanes l.a else w.lanes l.a &&& BitVec.ofFnLE fun i : Fin 32 => decide (gate.lane i.val ≠ 0)
    let old := t.getV l.d
    let trig := t.getV l.a
    let r := fun i => edgeFn 32 l.op (old.lane i) (trig.lane i)
    if on = 0 then none
    else some (Lanes.make fun i => if laneOn on i then (r i).1 else old.lane i, on, on &&& BitVec.ofFnLE fun i : Fin 32 => (r i.val).2)
  else if l.reads.any (fun n => w.any fun e => decide (e.1 = n)) then
    let va := t.getV l.a
    let vb := t.getV l.opb
    let vc := t.getV l.c
    let r := fun i => levelFn 32 l.op l.sh (va.lane i) (vb.lane i) (vc.lane i)
    some (Lanes.make fun i => (r i).1, BitVec.allOnes 32, BitVec.ofFnLE fun i : Fin 32 => (r i.val).2)
  else none

def settleLoopE : List (Nat × Link) → Thread → Written → Res Thread
  | [], t, _ => .ok t
  | (n, l) :: rest, t, w =>
    match l.evalE t w with
    | none => settleLoopE rest t w
    | some (x, on, ovf) =>
      if l.ck && decide (ovf ≠ 0) then raiseD .linkOverflow (n + 2 ^ 32 * ovf.toNat)
      else settleLoopE rest (t.setV l.d x) ((l.d, on) :: w)

/-- The settle of E-kind links after lanes of registers have been written (R161, R176). -/
def Thread.settleE (t : Thread) (w : Written) : Res Thread :=
  let ls := t.links true
  if ls.isEmpty then .ok t else settleLoopE (topoOrder 32 ls) t w

/-- A masked write of a vector register: lanes outside `act` keep their bits (R176). -/
def Thread.maskV (t : Thread) (d : Nat) (act : W32) (x : Lanes) : Thread :=
  t.setV d (Lanes.make fun i => if laneOn act i then x.lane i else (t.getV d).lane i)

/-- A masked write event of a vector register with its settle (R160, R161, R176); a write of no lane is none. -/
def Thread.writeV (t : Thread) (d : Nat) (act : W32) (x : Lanes) : Res Thread :=
  if act = 0 then .ok t else (t.maskV d act x).settleE [(d, act)]

/-- BOUND_WRITE of an E-stream instruction (R180 step 4). -/
def Thread.checkDestV (t : Thread) (d : Nat) : Res Unit :=
  match t.levelDest true d with
  | some n => raiseD .boundWrite n
  | none => .ok ()

/-! ## The re-evaluation at a PPT (R166) -/

/-- Every level link of a kind evaluated once, in order. -/
def reevalA : List (Nat × Link) → Thread → Res Thread
  | [], t => .ok t
  | (n, l) :: rest, t =>
    if l.edge then reevalA rest t
    else
      let r := levelFn 64 l.op l.sh (t.getS l.a) (l.opB t) (t.getS l.c)
      if l.ck && r.2 then raiseD .linkOverflow n else reevalA rest (t.setS l.d r.1)

def reevalE : List (Nat × Link) → Thread → Res Thread
  | [], t => .ok t
  | (n, l) :: rest, t =>
    if l.edge then reevalE rest t
    else
      match l.evalE t (l.reads.map fun r => (r, BitVec.allOnes 32)) with
      | none => reevalE rest t
      | some (x, _, ovf) =>
        if l.ck && decide (ovf ≠ 0) then raiseD .linkOverflow (n + 2 ^ 32 * ovf.toNat) else reevalE rest (t.setV l.d x)

/-! ## Descriptors (R173) -/

/-- The descriptor of a slot. -/
def linkDescr : Option Link → Nat
  | none => 0
  | some l => l.opb * 2 ^ 32 + l.sh * 2 ^ 26 + l.c * 2 ^ 20 + l.a * 2 ^ 14 + l.d * 2 ^ 8 + b2n l.imm * 128 + b2n l.ck * 64 +
      b2n l.ek * 32 + b2n l.edge * 16 + l.op

/-- The link of a descriptor. -/
def linkOfDescr (n : Nat) : Option Link :=
  if n = 0 then none
  else some { ek := bitOf n 5, edge := bitOf n 4, imm := bitOf n 7, ck := bitOf n 6, op := n % 16, d := n / 2 ^ 8 % 64,
              a := n / 2 ^ 14 % 64, c := n / 2 ^ 20 % 64, sh := n / 2 ^ 26 % 64, opb := n / 2 ^ 32 }

/-- The occupied slots, and those with E-kind links, as masks (R172). -/
def Thread.slotMask (t : Thread) (ekOnly : Bool) : Nat :=
  (List.range 32).foldl (fun acc n =>
    match t.getL n with
    | some l => if ekOnly && !l.ek then acc else acc + 2 ^ n
    | none => acc) 0

end Sys2Proof.Machine
end

