-- ==== Sys2Proof/Machine/Numbers.lean ====
section
/-! DEFINITION. Number formats, rounding, conversions and MX blocks (spec 04): exact values as integers times powers of two, rounded
once by R109. -/

namespace Sys2Proof.Machine

/-! ## Formats (R103, R104) -/

/-- What the all-ones exponent means. -/
inductive FmtKind where
  | ieee
  | e4m3
  | finite
  deriving DecidableEq, Repr

/-- A float format: exponent bits, fraction bits, bias. -/
structure Fmt where
  eb : Nat
  fb : Nat
  bias : Nat
  kind : FmtKind
  deriving DecidableEq, Repr

def fp32 : Fmt := ⟨8, 23, 127, .ieee⟩
def bf16 : Fmt := ⟨8, 7, 127, .ieee⟩
def fp16 : Fmt := ⟨5, 10, 15, .ieee⟩
def e5m2 : Fmt := ⟨5, 2, 15, .ieee⟩
def e4m3 : Fmt := ⟨4, 3, 7, .e4m3⟩
def e3m2 : Fmt := ⟨3, 2, 3, .finite⟩
def e2m3 : Fmt := ⟨2, 3, 1, .finite⟩
def e2m1 : Fmt := ⟨2, 1, 1, .finite⟩

/-- The width of an encoding. -/
def Fmt.width (f : Fmt) : Nat := f.eb + f.fb + 1
/-- The smallest normal exponent. -/
def Fmt.emin (f : Fmt) : Int := 1 - (f.bias : Int)
/-- The encoding of the largest finite magnitude. -/
def Fmt.maxCode (f : Fmt) : Nat :=
  match f.kind with
  | .ieee => (2 ^ f.eb - 1) * 2 ^ f.fb - 1
  | .e4m3 => 126
  | .finite => 2 ^ (f.eb + f.fb) - 1
/-- The canonical NaN (R103). -/
def Fmt.nan (f : Fmt) : Nat :=
  match f.kind with
  | .ieee => (2 ^ f.eb - 1) * 2 ^ f.fb + 2 ^ (f.fb - 1)
  | .e4m3 => 127
  | .finite => 0
/-- The encoding of a sign bit. -/
def Fmt.sign (f : Fmt) (neg : Bool) : Nat := if neg then 2 ^ (f.eb + f.fb) else 0
/-- The encoding of an infinity. -/
def Fmt.inf (f : Fmt) (neg : Bool) : Nat := f.sign neg + (2 ^ f.eb - 1) * 2 ^ f.fb

/-! ## Values -/

/-- An exact value: a NaN, an infinity, or ±n × 2^e. -/
inductive FVal where
  | nan (signalling : Bool)
  | inf (neg : Bool)
  | fin (neg : Bool) (n : Nat) (e : Int)
  deriving DecidableEq, Repr

/-- The value of an encoding (R103, R104, R106). -/
def Fmt.decode (f : Fmt) (x : Nat) : FVal :=
  let neg := bitOf x (f.eb + f.fb)
  let ex := x / 2 ^ f.fb % 2 ^ f.eb
  let fr := x % 2 ^ f.fb
  let top := decide (ex = 2 ^ f.eb - 1)
  match f.kind with
  | .ieee =>
    if top then (if fr = 0 then .inf neg else .nan (!bitOf fr (f.fb - 1)))
    else if ex = 0 then .fin neg fr (f.emin - f.fb) else .fin neg (fr + 2 ^ f.fb) ((ex : Int) - f.bias - f.fb)
  | .e4m3 =>
    if top && decide (fr = 7) then .nan false
    else if ex = 0 then .fin neg fr (f.emin - f.fb) else .fin neg (fr + 2 ^ f.fb) ((ex : Int) - f.bias - f.fb)
  | .finite => if ex = 0 then .fin neg fr (f.emin - f.fb) else .fin neg (fr + 2 ^ f.fb) ((ex : Int) - f.bias - f.fb)

def FVal.isNan : FVal → Bool
  | .nan _ => true
  | _ => false
def FVal.isSnan : FVal → Bool
  | .nan b => b
  | _ => false
def FVal.isInf : FVal → Bool
  | .inf _ => true
  | _ => false
def FVal.isZero : FVal → Bool
  | .fin _ n _ => decide (n = 0)
  | _ => false
def FVal.neg : FVal → FVal
  | .nan b => .nan b
  | .inf n => .inf (!n)
  | .fin n m e => .fin (!n) m e
def FVal.isNeg : FVal → Bool
  | .nan _ => false
  | .inf n => n
  | .fin n _ _ => n

/-- An integer as a value. -/
def FVal.ofInt (x : Int) (e : Int) : FVal := .fin (decide (x < 0)) x.natAbs e

/-! ## Rounding (R109, R111, R112) -/

/-- The modes of R109. -/
inductive Mode where
  | rne | rtz | rup | rdn | rna | stoch
  deriving DecidableEq, Repr

/-- The mode of an RM code 0 to 5 (R47). -/
def Mode.ofCode : Nat → Mode
  | 0 => .rne
  | 1 => .rtz
  | 2 => .rup
  | 3 => .rdn
  | 4 => .rna
  | 5 => .stoch
  | _ => .rne

/-- floor(log2 n) for n > 0. -/
def flog2 (n : Nat) : Int := (Nat.log2 n : Nat)

/-- Whether the truncated magnitude `t` is raised by one unit: the discarded fraction is (rem + a bit more when `sticky`) / 2^k. -/
def roundUp (rm : Mode) (neg : Bool) (t rem k w : Nat) (sticky : Bool) : Bool :=
  let some := decide (rem ≠ 0) || sticky
  let gtHalf := decide (2 ^ k < 2 * rem) || (decide (2 ^ k = 2 * rem) && sticky)
  let half := decide (2 ^ k = 2 * rem) && !sticky
  match rm with
  | .rtz => false
  | .rup => some && !neg
  | .rdn => some && neg
  | .rne => gtHalf || (half && decide (t % 2 = 1))
  | .rna => gtHalf || half
  | .stoch => decide (2 ^ 16 ≤ rem * 2 ^ 16 / 2 ^ k + w)

/-- Round the magnitude n × 2^e (and a bit more when `sticky`) to a multiple of 2^qe: the multiple, and whether it is inexact. -/
def roundTo (rm : Mode) (neg : Bool) (n : Nat) (e qe : Int) (w : Nat) (sticky : Bool) : Nat × Bool :=
  if qe ≤ e then
    let t := n * 2 ^ (e - qe).toNat
    (t + b2n (roundUp rm neg t 0 1 w sticky), sticky)
  else
    let k := (qe - e).toNat
    let t := n / 2 ^ k
    let rem := n % 2 ^ k
    (t + b2n (roundUp rm neg t rem k w sticky), decide (rem ≠ 0) || sticky)

/-- The flags of ctl.fpflags (R113). -/
def flagNV : Nat := 16
def flagDZ : Nat := 8
def flagOF : Nat := 4
def flagUF : Nat := 2
def flagNX : Nat := 1

/-- An overflow (R110): the encoding delivered. `sat` is the SAT modifier. -/
def Fmt.overflow (f : Fmt) (rm : Mode) (neg sat : Bool) : Nat :=
  let big := f.sign neg + f.maxCode
  let away := match rm with
    | .rtz => false
    | .rup => !neg
    | .rdn => neg
    | _ => true
  if sat || !away then big
  else match f.kind with
    | .e4m3 => f.nan
    | _ => f.inf neg

/-- The encoding of r × 2^qe, where r is below 2^(fb + 1), or equal to it after a carry. -/
def Fmt.pack (f : Fmt) (neg : Bool) (r : Nat) (qe : Int) : Nat :=
  if r < 2 ^ f.fb then f.sign neg + r
  else f.sign neg + (r - 2 ^ f.fb) + ((qe + f.fb + f.bias).toNat) * 2 ^ f.fb

/-- R109 for a nonzero magnitude to a format: the encoding and the flags (R113). -/
def Fmt.roundMag (f : Fmt) (rm : Mode) (neg : Bool) (n : Nat) (e : Int) (sticky sat : Bool) (w : Nat) : Nat × Nat :=
  let lg := e + flog2 n
  let qe := max lg f.emin - f.fb
  let (r, inexact) := roundTo rm neg n e qe w sticky
  let code := f.pack false r qe
  let (r1, _) := roundTo rm neg n e (lg - f.fb) w sticky
  let tiny := decide (lg < f.emin) && !(decide (lg = f.emin - 1) && decide (r1 = 2 ^ (f.fb + 1)))
  if f.maxCode < code then (f.overflow rm neg sat, flagOF + flagNX)
  else (f.sign neg + code, (if tiny && inexact then flagUF else 0) + b2n inexact)

/-- Round an exact value to a format (R109, R110, R124): the encoding and the flags. An infinite operand that SAT brings to the largest value is
delivered as another value than it is, which is inexact (R113). -/
def Fmt.round (f : Fmt) (rm : Mode) (x : FVal) (sat : Bool := false) (w : Nat := 0) : Nat × Nat :=
  match x with
  | .nan s => (f.nan, if s then flagNV else 0)
  | .inf n =>
    if sat then (f.sign n + f.maxCode, flagNX)
    else match f.kind with
      | .e4m3 => (f.nan, 0)
      | _ => (f.inf n, 0)
  | .fin neg n e => if n = 0 then (f.sign neg, 0) else f.roundMag rm neg n e false sat w

/-! ## Arithmetic (R105 to R108) -/

/-- The exact sum of two finite values, with the sign of a zero sum by R105. -/
def addFin (rm : Mode) (s1 : Bool) (n1 : Nat) (e1 : Int) (s2 : Bool) (n2 : Nat) (e2 : Int) : FVal :=
  let e := min e1 e2
  let a : Int := (n1 * 2 ^ (e1 - e).toNat : Nat)
  let b : Int := (n2 * 2 ^ (e2 - e).toNat : Nat)
  let x := (if s1 then -a else a) + (if s2 then -b else b)
  if x = 0 then .fin (if n1 = 0 && n2 = 0 && s1 == s2 then s1 else decide (rm = .rdn)) 0 0
  else .fin (decide (x < 0)) x.natAbs e

/-- The sum of two values, and the flags of the special cases (R107). -/
def addVal (rm : Mode) (x y : FVal) : FVal × Nat :=
  match x, y with
  | .nan a, y => (.nan false, if a || y.isSnan then flagNV else 0)
  | _, .nan b => (.nan false, if b then flagNV else 0)
  | .inf a, .inf b => if a = b then (.inf a, 0) else (.nan false, flagNV)
  | .inf a, .fin _ _ _ => (.inf a, 0)
  | .fin _ _ _, .inf b => (.inf b, 0)
  | .fin s1 n1 e1, .fin s2 n2 e2 => (addFin rm s1 n1 e1 s2 n2 e2, 0)

/-- The exact product of two values (R107). -/
def mulVal (x y : FVal) : FVal × Nat :=
  match x, y with
  | .nan a, y => (.nan false, if a || y.isSnan then flagNV else 0)
  | _, .nan b => (.nan false, if b then flagNV else 0)
  | .inf a, .inf b => (.inf (a != b), 0)
  | .inf a, .fin b n _ => if n = 0 then (.nan false, flagNV) else (.inf (a != b), 0)
  | .fin a n _, .inf b => if n = 0 then (.nan false, flagNV) else (.inf (a != b), 0)
  | .fin a n e, .fin b m g => (.fin (a != b) (n * m) (e + g), 0)

/-- An element operation's encoding and flags: the flags of the special cases joined with those of the rounding. -/
def Fmt.deliver (f : Fmt) (rm : Mode) (x : FVal × Nat) : Nat × Nat :=
  let r := f.round rm x.1
  (r.1, r.2 ||| x.2)

def Fmt.add (f : Fmt) (rm : Mode) (a b : Nat) : Nat × Nat := f.deliver rm (addVal rm (f.decode a) (f.decode b))
def Fmt.sub (f : Fmt) (rm : Mode) (a b : Nat) : Nat × Nat := f.deliver rm (addVal rm (f.decode a) (f.decode b).neg)
def Fmt.mul (f : Fmt) (rm : Mode) (a b : Nat) : Nat × Nat := f.deliver rm (mulVal (f.decode a) (f.decode b))

/-- ±(a × b) ± c, rounded once (R107, R187). -/
def Fmt.fma (f : Fmt) (rm : Mode) (negP negC : Bool) (a b c : Nat) : Nat × Nat :=
  let p := mulVal (f.decode a) (f.decode b)
  let x := if negP then p.1.neg else p.1
  let z := f.decode c
  let y := if negC then z.neg else z
  let r := addVal rm x y
  f.deliver rm (r.1, r.2 ||| p.2)

/-- Whether one value is less than another, with -0 below +0 (R108). -/
def FVal.lt (x y : FVal) (zeros : Bool) : Bool :=
  match x, y with
  | .inf a, .inf b => a && !b
  | .inf a, .fin _ _ _ => a
  | .fin _ _ _, .inf b => !b
  | .fin s1 n1 e1, .fin s2 n2 e2 =>
    let e := min e1 e2
    let a : Int := (n1 * 2 ^ (e1 - e).toNat : Nat)
    let b : Int := (n2 * 2 ^ (e2 - e).toNat : Nat)
    let p := if s1 then -a else a
    let q := if s2 then -b else b
    decide (p < q) || (zeros && decide (p = q) && decide (n1 = 0) && s1 && !s2)
  | _, _ => false

/-- minimumNumber and maximumNumber (R108): a result that is not a NaN is one of the operands, bit for bit. -/
def Fmt.minMax (f : Fmt) (isMax : Bool) (a b : Nat) : Nat × Nat :=
  let x := f.decode a
  let y := f.decode b
  let fl := if x.isSnan || y.isSnan then flagNV else 0
  if x.isNan && y.isNan then (f.nan, fl)
  else if x.isNan then (b, fl)
  else if y.isNan then (a, fl)
  else
    let less := x.lt y true
    (if isMax then (if less then b else a) else (if y.lt x true then b else a), fl)

/-- The relations of R189, with their flags. -/
def Fmt.compare (f : Fmt) (fn : Nat) (a b : Nat) : Bool × Nat :=
  let x := f.decode a
  let y := f.decode b
  let un := x.isNan || y.isNan
  let sn := x.isSnan || y.isSnan
  let lt := x.lt y false
  let eq := !un && !lt && !(y.lt x false)
  match fn with
  | 0 => (eq, 0)
  | 1 => (!un && lt, if un then flagNV else 0)
  | 2 => (!un && (lt || eq), if un then flagNV else 0)
  | 3 => (un, if sn then flagNV else 0)
  | _ => (!eq, 0)

/-! ## Division and roots (R107, R188) -/

/-- n1/n2 × 2^e rounded: 96 quotient bits decide every mode. -/
def Fmt.quot (f : Fmt) (rm : Mode) (neg : Bool) (n1 n2 : Nat) (e : Int) : Nat × Nat :=
  let k := 96 + Nat.log2 n2
  let q := n1 * 2 ^ k / n2
  f.roundMag rm neg q (e - k) (decide (n1 * 2 ^ k % n2 ≠ 0)) false 0

def Fmt.div (f : Fmt) (rm : Mode) (a b : Nat) : Nat × Nat :=
  match f.decode a, f.decode b with
  | .nan s, y => (f.nan, if s || y.isSnan then flagNV else 0)
  | _, .nan s => (f.nan, if s then flagNV else 0)
  | .inf _, .inf _ => (f.nan, flagNV)
  | .inf s, .fin t _ _ => (f.inf (s != t), 0)
  | .fin s _ _, .inf t => (f.sign (s != t), 0)
  | .fin s n e, .fin t m g =>
    if m = 0 then (if n = 0 then (f.nan, flagNV) else (f.inf (s != t), flagDZ))
    else if n = 0 then (f.sign (s != t), 0)
    else f.quot rm (s != t) n m (e - g)

/-- The integer square root of n × 2^(2 × 64), with an even exponent: enough bits for every mode. -/
def rootParts (n : Nat) (e : Int) : Nat × Int × Bool :=
  let n1 := if e % 2 = 0 then n else 2 * n
  let e1 := if e % 2 = 0 then e else e - 1
  let m := n1 * 2 ^ 192
  let r := Nat.sqrt m
  (r, e1 / 2 - 96, decide (r * r ≠ m))

def Fmt.sqrt (f : Fmt) (rm : Mode) (a : Nat) : Nat × Nat :=
  match f.decode a with
  | .nan s => (f.nan, if s then flagNV else 0)
  | .inf true => (f.nan, flagNV)
  | .inf false => (f.inf false, 0)
  | .fin s n e =>
    if n = 0 then (f.sign s, 0)
    else if s then (f.nan, flagNV)
    else
      let (r, g, st) := rootParts n e
      f.roundMag rm false r g st false 0

def Fmt.rcp (f : Fmt) (a : Nat) : Nat × Nat :=
  match f.decode a with
  | .nan s => (f.nan, if s then flagNV else 0)
  | .inf s => (f.sign s, 0)
  | .fin s n e => if n = 0 then (f.inf s, flagDZ) else f.quot .rne s 1 n (-e)

/-- 1/√a: the root of 2^k / n, whose bits beyond the 150th decide no rounding. -/
def Fmt.rsqrt (f : Fmt) (a : Nat) : Nat × Nat :=
  match f.decode a with
  | .nan s => (f.nan, if s then flagNV else 0)
  | .inf true => (f.nan, flagNV)
  | .inf false => (0, 0)
  | .fin s n e =>
    if n = 0 then (f.inf s, flagDZ)
    else if s then (f.nan, flagNV)
    else
      let n1 := if e % 2 = 0 then n else 2 * n
      let e1 := if e % 2 = 0 then e else e - 1
      let m := 2 ^ 384 / n1
      let r := Nat.sqrt m
      f.roundMag .rne false r (-192 - e1 / 2) (decide (r * r * n1 ≠ 2 ^ 384)) false 0

/-! ## exp2, log2, sine and cosine (R188, R241; log 11)

Each is computed from below as a multiple of 2^-256, with an error far smaller than the distance of any value of these functions at a
24-bit argument from a rounding boundary. -/

/-- The fixed point of the series: 2^256. -/
def fxOne : Nat := 2 ^ 256

/-- Σ z^(2k+1) / (2k+1) for the argument num/den: atanh, or with `alt` the alternating sum, atan. -/
def atanLoop (z2 : Nat) (alt : Bool) : Nat → Nat → Nat → Int → Int
  | 0, _, _, acc => acc
  | n + 1, k, p, acc =>
    let term : Int := (p / (2 * k + 1) : Nat)
    let acc1 := if alt && decide (k % 2 = 1) then acc - term else acc + term
    atanLoop z2 alt n (k + 1) (p * z2 / fxOne) acc1
def atanhFx (z : Nat) : Nat := (atanLoop (z * z / fxOne) false 180 0 z 0).toNat
def atanFx (z : Nat) : Int := atanLoop (z * z / fxOne) true 180 0 z 0

/-- ln 2 and π. -/
def ln2Fx : Nat := 2 * atanhFx (fxOne / 3)
def piFx : Nat := (16 * atanFx (fxOne / 5) - 4 * atanFx (fxOne / 239)).toNat

/-- Σ y^k / k!, every `step`-th sign alternating where `alt`. -/
def expLoop (y : Nat) : Nat → Nat → Nat → Nat → Nat
  | 0, _, _, acc => acc
  | n + 1, k, p, acc => expLoop y n (k + 1) (p * y / fxOne / (k + 1)) (acc + p)
/-- e^y for 0 ≤ y < 1. -/
def expFx (y : Nat) : Nat := expLoop y 80 0 fxOne 0

/-- The alternating series of sine and cosine. -/
def trigLoop (y2 : Nat) : Nat → Nat → Nat → Int → Int
  | 0, _, _, acc => acc
  | n + 1, k, p, acc =>
    trigLoop y2 n (k + 2) (p * y2 / fxOne / ((k + 1) * (k + 2))) (if k / 2 % 2 = 1 then acc - (p : Nat) else acc + (p : Nat))
/-- sin y and cos y for 0 ≤ y < 1. -/
def sinFx (y : Nat) : Nat := (trigLoop (y * y / fxOne) 45 1 y 0).toNat
def cosFx (y : Nat) : Nat := (trigLoop (y * y / fxOne) 45 0 fxOne 0).toNat

def Fmt.exp2 (f : Fmt) (a : Nat) : Nat × Nat :=
  match f.decode a with
  | .nan s => (f.nan, if s then flagNV else 0)
  | .inf true => (0, 0)
  | .inf false => (f.inf false, 0)
  | .fin s n e =>
    if n = 0 then f.roundMag .rne false 1 0 false false 0
    else if 16 ≤ e + flog2 n then (if s then f.roundMag .rne false 1 (-70000) false false 0 else f.roundMag .rne false 1 70000 false false 0)
    else
      -- the argument as an integer part and a fraction of 256 bits, both from below
      let x : Int := if e ≥ -256 then (n * 2 ^ (e + 256).toNat : Nat) else (n / 2 ^ (-256 - e).toNat : Nat)
      let y := if s then -x else x
      let i := y / (fxOne : Int)
      let fr := (y % (fxOne : Int)).toNat
      if fr = 0 && decide (-256 ≤ e) then f.roundMag .rne false 1 i false false 0
      else f.roundMag .rne false (expFx (fr * ln2Fx / fxOne)) (i - 256) true false 0

def Fmt.log2 (f : Fmt) (a : Nat) : Nat × Nat :=
  match f.decode a with
  | .nan s => (f.nan, if s then flagNV else 0)
  | .inf true => (f.nan, flagNV)
  | .inf false => (f.inf false, 0)
  | .fin s n e =>
    if n = 0 then (f.inf true, flagDZ)
    else if s then (f.nan, flagNV)
    else
      let k := Nat.log2 n
      let i := e + (k : Nat)
      if n = 2 ^ k then f.round .rne (FVal.ofInt i 0)
      else
        -- m = n / 2^k in [1, 2), ln m = 2 atanh((m - 1) / (m + 1))
        let z := (n - 2 ^ k) * fxOne / (n + 2 ^ k)
        let lg := 2 * atanhFx z * fxOne / ln2Fx
        if 0 ≤ i then f.roundMag .rne false (i.toNat * fxOne + lg) (-256) true false 0
        else f.roundMag .rne true ((-i).toNat * fxOne - lg - 1) (-256) true false 0

/-- cos(2π phase / 2^32), or the sine, rounded RNE (R241). An exact 0 gives +0. -/
def Fmt.rotary (f : Fmt) (isSin : Bool) (phase : Nat) : Nat :=
  -- the sine is the cosine of the phase less a quarter turn
  let p := (if isSin then phase + 3 * 2 ^ 30 else phase) % 2 ^ 32
  let q := if p ≤ 2 ^ 31 then p else 2 ^ 32 - p
  let neg := decide (2 ^ 30 < q)
  let r := if neg then 2 ^ 31 - q else q
  if r = 2 ^ 30 then 0
  else if r = 0 then (f.round .rne (.fin neg 1 0)).1
  else
    let x := if r ≤ 2 ^ 29 then cosFx (2 * piFx * r / 2 ^ 32) else sinFx (2 * piFx * (2 ^ 30 - r) / 2 ^ 32)
    (f.roundMag .rne neg x (-256) true false 0).1

/-! ## Conversions with integers (R102, R124, R125) -/

/-- An integer clamped to a w-bit type, as its bits. -/
def clampInt (w : Nat) (signed : Bool) (x : Int) : Nat :=
  let lo : Int := if signed then -(2 ^ (w - 1) : Nat) else 0
  let hi : Int := if signed then (2 ^ (w - 1) : Nat) - 1 else (2 ^ w : Nat) - 1
  wrapNat w (if x < lo then lo else if hi < x then hi else x)

/-- A value rounded to an integer, and whether it is inexact. -/
def roundInt (rm : Mode) (neg : Bool) (n : Nat) (e : Int) (w : Nat) : Int × Bool :=
  let (r, ix) := roundTo rm neg n e 0 w false
  (if neg then -(r : Nat) else (r : Nat), ix)

/-- R125. -/
def toIntVal (width : Nat) (signed : Bool) (rm : Mode) (x : FVal) (w : Nat) : Nat × Nat :=
  let hi : Int := if signed then (2 ^ (width - 1) : Nat) - 1 else (2 ^ width : Nat) - 1
  let lo : Int := if signed then -(2 ^ (width - 1) : Nat) else 0
  match x with
  | .nan _ => (0, flagNV)
  | .inf n => (wrapNat width (if n then lo else hi), flagNV)
  | .fin neg n e =>
    let (r, ix) := if n = 0 then ((0 : Int), false) else
      if 80 ≤ e + flog2 n then (if neg then lo - 1 else hi + 1, false) else roundInt rm neg n e w
    if r < lo || hi < r then (clampInt width signed r, flagNV) else (wrapNat width r, b2n ix)

/-! ## MX blocks (R117 to R123) -/

/-- The element formats of MX blocks. -/
inductive MxElem where
  | float (f : Fmt)
  | int (p : Nat)
  deriving DecidableEq, Repr

/-- The scaling emax (R104, R122). -/
def MxElem.emax : MxElem → Int
  | .float f => if f = e4m3 then 8 else if f = e5m2 then 15 else if f = e3m2 then 4 else 2
  | .int _ => 0

/-- The value of an element code under a scale (R118, R119, R123). Of a one-bit element it is R118's, half of what the formula of R195 gives (log 58). -/
def MxElem.decode (m : MxElem) (scale code : Nat) : FVal :=
  if scale = 255 then .nan false
  else
    let sh : Int := (scale : Int) - 127
    match m with
    | .float f =>
      match f.decode code with
      | .fin s n e => .fin s n (e + sh)
      | _ => .nan false
    | .int p =>
      if p = 1 then .fin false (code % 2) sh
      else FVal.ofInt (toSigned p code) (2 - (p : Int) + sh)

/-- Steps 4 and 5 of R122 for one element: its code, and whether it is inexact and whether it saturated. -/
def MxElem.encodeElem (m : MxElem) (rm : Mode) (x : FVal) (sx : Int) (w : Nat) : Nat × Bool × Bool :=
  match x with
  | .fin neg n e =>
    match m with
    | .float f =>
      if n = 0 then (f.sign neg, false, false)
      else
        let lg := e - sx + flog2 n
        let qe := max lg f.emin - f.fb
        let (r, ix) := roundTo rm neg n (e - sx) qe w false
        let code := f.pack false r qe
        if f.maxCode < code then (f.sign neg + f.maxCode, true, true) else (f.sign neg + code, ix, false)
    | .int p =>
      let (r, ix) := roundTo rm neg n (e - sx) (2 - (p : Int)) w false
      let k : Int := if neg then -(r : Nat) else (r : Nat)
      let lo : Int := -(2 ^ (p - 1) : Nat)
      let hi : Int := (2 ^ (p - 1) : Nat) - 1
      if k < lo then (wrapNat p lo, true, true) else if hi < k then (wrapNat p hi, true, true) else (wrapNat p k, ix, false)
  | _ => (0, false, false)

/-- floor(log2) of the largest magnitude of finite values, none when all are zero. -/
def maxLog : List FVal → Option Int
  | [] => none
  | .fin _ n e :: r =>
    if n = 0 then maxLog r
    else match maxLog r with
      | none => some (e + flog2 n)
      | some y => some (max (e + flog2 n) y)
  | _ :: r => maxLog r

/-- Element by element with its random word. -/
def encodeElems (m : MxElem) (rm : Mode) (sx : Int) : List FVal → List Nat → List (Nat × Bool × Bool)
  | [], _ => []
  | x :: xs, ws => m.encodeElem rm x sx (ws.headD 0) :: encodeElems m rm sx xs ws.tail

/-- A block of values to an MX block (R122): scale byte, element codes, flags. -/
def MxElem.encode (m : MxElem) (rm : Mode) (xs : List FVal) (ws : List Nat) : Nat × List Nat × Nat :=
  if xs.any (fun x => x.isNan || x.isInf) then (255, xs.map fun _ => 0, flagNV)
  else match maxLog xs with
    | none => (0, xs.map fun _ => 0, 0)
    | some lg =>
      let x0 := lg - m.emax
      let sx := max (-127) (min 127 x0)
      let es := encodeElems m rm sx xs ws
      let nx := es.any fun e => e.2.1
      let ov := decide (127 < x0) && es.any fun e => e.2.2
      ((sx + 127).toNat, es.map Prod.fst, b2n nx + (if ov then flagOF else 0))

/-- Bit j of every element as a plane word (R120). -/
def planeWord (codes : List Nat) (j : Nat) : Nat :=
  ((List.range 32).map fun i => if bitOf (codes[i]?.getD 0) j then 2 ^ i else 0).sum

/-- The code of element i of a plane block. -/
def planeElem (words : List Nat) (p i : Nat) : Nat :=
  ((List.range p).map fun j => if bitOf (words[j]?.getD 0) i then 2 ^ j else 0).sum

end Sys2Proof.Machine
end

