-- ==== Sys2Proof/Machine/Flags.lean ====
section
/-! DEFINITION. Floating-point flags and traps (R112 to R115). -/

namespace Sys2Proof.Machine

/-- The rounding mode that an RM field names (R47, R112): DYN takes ctl.rmode, of which 6 and 7 act as RNE; without a random-word
operand a dynamic STOCH rounds RNE. -/
def Thread.mode (t : Thread) (rm : Nat) (random : Bool) : Mode :=
  let code := if rm = 15 then t.rmode.toNat % 8 else rm
  if code = 5 && !random then .rne else Mode.ofCode code

/-- The cause of the first enabled flag in the order NV, DZ, OF, UF, NX, and that flag (R115). -/
def fpCause (f : Nat) : Option (Cause × Nat) :=
  if bitOf f 4 then some (.fpInvalid, flagNV)
  else if bitOf f 3 then some (.fpDivzero, flagDZ)
  else if bitOf f 2 then some (.fpOverflow, flagOF)
  else if bitOf f 1 then some (.fpUnderflow, flagUF)
  else if bitOf f 0 then some (.fpInexact, flagNX)
  else none

/-- The union of flags over lanes (R114). -/
def unionFlags : List Nat → Nat
  | [] => 0
  | f :: fs => f ||| unionFlags fs

/-- The mask of the lanes that raised a flag. -/
def flagLanes (fl : Nat) : List Nat → Nat → Nat
  | [], _ => 0
  | f :: fs, i => (if f &&& fl = 0 then 0 else 2 ^ i) + flagLanes fl fs (i + 1)

/-- The flags of a lane list joined into ctl.fpflags, or the trap of R115. -/
def Thread.raiseFlags (t : Thread) (fs : List Nat) : Res Thread :=
  let all := unionFlags fs
  match fpCause (all &&& t.fpen.toNat) with
  | some (c, fl) => raiseD c (all + 2 ^ 32 * flagLanes fl fs 0)
  | none => .ok { t with fpflags := t.fpflags ||| BitVec.ofNat 64 all }

end Sys2Proof.Machine
end

