-- ==== Sys2Proof/Machine/Operands.lean ====
section
/-! DEFINITION. The operand forms: effective addresses (R45), branch targets (R46), queue operands and active masks of the E-stream
(R146, R176, R177), elements of lanes (R175). -/

namespace Sys2Proof.Machine

/-- The effective address of format M: A + (B << SC) + sext(OFF20), modulo 2^64 (R45). -/
def Thread.effAddr (t : Thread) (m : MArgs) : W64 :=
  t.getS m.a + (t.getS m.b <<< m.sc) + sext64 20 m.off

/-- PC + sext(OFF32) × 4 (R46). -/
def jumpTarget (pc : W64) (off : Nat) : W64 := pc + sext64 32 off * 4

/-- ADDRESS_RANGE of a jump target (R46, R140). -/
def checkTarget (target : W64) : Res Unit := if 2 ^ 56 ≤ target.toNat then raiseA .addressRange target.toNat 0 else .ok ()

/-- The low w bits of a register, and their signed reading (R130). -/
def lowBits (w : Nat) (x : W64) : Nat := x.toNat % 2 ^ w
def lowSigned (w : Nat) (x : W64) : Int := toSigned w x.toNat

/-- A w-bit result sign-extended to 64 bits (R130). -/
def sextResult (w : Nat) (x : Int) : W64 := sext64 w (wrapNat w x)

/-! ## Queues (R146) -/

/-- A pop: the oldest entry once it is readable. -/
def Thread.popQ (t : Thread) (q : Nat) : Res (QEntry × Thread) :=
  match t.getQ q with
  | e :: rest => if e.ready then .ok (e, t.setQ q rest) else waitFor (.pop q)
  | [] => waitFor (.pop q)

/-- A pop of an instruction that can still fault when the entry is there, so that it holds the E-stream back (R10). -/
def Thread.popFirst (t : Thread) (q : Nat) : Res (QEntry × Thread) :=
  match t.popQ q with
  | .error _ => waitFor (.popFirst q)
  | x => x

/-- A queue that an instruction is to push has a free entry. -/
def Thread.roomQ (t : Thread) (q : Nat) : Res Unit := if 16 ≤ (t.getQ q).length then waitFor (.push q) else .ok ()

/-- A push. -/
def Thread.pushQ (t : Thread) (q : Nat) (e : QEntry) : Thread := t.setQ q (t.getQ q ++ [e])

/-! ## E-stream operands -/

/-- What an E-stream instruction reads: operands a and b, the active mask, and the thread with the popped entries removed. -/
structure VOps where
  a : Lanes
  b : Lanes
  act : W32
  thr : Thread
  deriving DecidableEq, Repr

/-- All lanes of lane 0. -/
def Lanes.bcast (x : Lanes) : Lanes := Lanes.make fun _ => x.lane 0

/-- The operands of an R-format E-stream major (R176, R177). -/
def Thread.vOps (t : Thread) (r : RArgs) : Res VOps := do
  let bq := decide (r.x16 % 2 = 1)
  let bb := decide (r.x16 / 2 % 2 = 1)
  let aq := decide (r.x16 / 4 % 2 = 1)
  let act := t.getM r.msk
  let (a, act1, t1) ← (if aq then do
      let (e, t1) ← t.popQ r.a
      .ok (e.lanes, act &&& e.mask, t1)
    else .ok (t.getV r.a, act, t) : Res (Lanes × W32 × Thread))
  let (b, act2, t2) ← (if bq then do
      let (e, t2) ← t1.popQ r.b
      .ok (e.lanes, if bb then act1 else act1 &&& e.mask, t2)
    else .ok (t.getV r.b, act1, t1) : Res (Lanes × W32 × Thread))
  .ok { a := a, b := if bb then b.bcast else b, act := act2, thr := t2 }

/-! ## Elements (R175) -/

/-- Element j of width w of a lane, and a lane from its elements. -/
def elem (w j : Nat) (x : W32) : Nat := x.toNat / 2 ^ (w * j) % 2 ^ w
def laneOf (w : Nat) (xs : List Nat) : W32 := BitVec.ofNat 32 (xs.foldr (fun x acc => x % 2 ^ w + 2 ^ w * acc) 0)
/-- A lane with element j replaced. -/
def setElem (w j : Nat) (x : W32) (y : Nat) : W32 :=
  BitVec.ofNat 32 (x.toNat - elem w j x * 2 ^ (w * j) + y % 2 ^ w * 2 ^ (w * j))

/-- The width and the number of integer elements by TY, and of float elements with their format (R175). -/
def intWidth (ty : Nat) : Nat := match ty with | 0 => 32 | 1 => 16 | _ => 8
def floatFmt (ty : Nat) : Fmt := match ty with | 0 => fp32 | 1 => bf16 | _ => fp16

/-- A lane computed element by element from two lanes. -/
def mapElems2 (w : Nat) (f : Nat → Nat → Nat) (a b : W32) : W32 :=
  laneOf w ((List.range (32 / w)).map fun j => f (elem w j a) (elem w j b))
def mapElems3 (w : Nat) (f : Nat → Nat → Nat → Nat) (a b c : W32) : W32 :=
  laneOf w ((List.range (32 / w)).map fun j => f (elem w j a) (elem w j b) (elem w j c))

end Sys2Proof.Machine
end

