-- ==== Sys2Proof/Machine/Windows.lean ====
section
/-! DEFINITION. What an oculus window computes (R235 to R243), and the conversion of MX blocks behind a CONVERT window (R127, R128). -/

namespace Sys2Proof.Machine

/-- Parameter pk of a window (R235). -/
def Window.par (w : Window) (k : Nat) : Nat := w.p[k]?.getD 0

/-- The element size z of a window format (R236), 0 for an invalid one. -/
def winSize : Nat → Nat
  | 0 | 1 => 1
  | 2 | 3 | 6 | 7 => 2
  | 4 | 5 | 8 => 4
  | _ => 0

/-- The float format of a window or tensor format code 6 to 8. -/
def winFloat : Nat → Fmt
  | 6 => fp16
  | 7 => bf16
  | _ => fp32

/-- A finite sum of two values, exactly. -/
def sumVal (x y : FVal) : FVal := (addVal .rne x y).1

/-- A value times an integer. -/
def scaleVal (k : Nat) (x : FVal) : FVal := (mulVal (.fin false k 0) x).1

/-- round(x, FMT, RNE), with an exact zero as +0 (R239). -/
def rampFloat (fmt : Nat) (x : FVal) : Nat := if x.isZero then 0 else ((winFloat fmt).round .rne x).1

/-- RAMP and RAMP2D: p0 + i × p1 + j × p2 (R239). -/
def rampElem (fmt p0 p1 p2 i j : Nat) : Nat :=
  if fmt < 6 then wrapNat (8 * winSize fmt) (toSigned 32 p0 + i * toSigned 32 p1 + j * toSigned 32 p2)
  else
    rampFloat fmt (sumVal (sumVal (fp32.decode p0) (scaleVal i (fp32.decode p1))) (scaleVal j (fp32.decode p2)))

/-- One round of Philox4x32 (R242). -/
def philoxRound (c : Nat × Nat × Nat × Nat) (k0 k1 : Nat) : Nat × Nat × Nat × Nat :=
  let a := 0xD2511F53 * c.1
  let b := 0xCD9E8D57 * c.2.2.1
  (Nat.xor (Nat.xor (b / 2 ^ 32) c.2.1) k0, b % 2 ^ 32, Nat.xor (Nat.xor (a / 2 ^ 32) c.2.2.2) k1, a % 2 ^ 32)

def philoxLoop : Nat → Nat × Nat × Nat × Nat → Nat → Nat → Nat × Nat × Nat × Nat
  | 0, c, _, _ => c
  | n + 1, c, k0, k1 => philoxLoop n (philoxRound c k0 k1) ((k0 + 0x9E3779B9) % 2 ^ 32) ((k1 + 0xBB67AE85) % 2 ^ 32)

/-- Word n of PHILOX with key (p1, p2) and stream p3 (R242). -/
def philoxWord (n key0 key1 stream : Nat) : Nat :=
  let g := n / 4
  let c := philoxLoop 10 (g % 2 ^ 32, stream, g / 2 ^ 32, 0) key0 key1
  match n % 4 with
  | 0 => c.1
  | 1 => c.2.1
  | 2 => c.2.2.1
  | _ => c.2.2.2

/-- Word n of MIX32 (R242). -/
def mixWord (n key : Nat) : Nat :=
  let x0 := Nat.xor (n % 2 ^ 32) key
  let x1 := x0 * 0x9E3779B1 % 2 ^ 32
  let x2 := Nat.xor x1 (x1 / 2 ^ 16)
  let x3 := x2 * 0x85EBCA77 % 2 ^ 32
  Nat.xor x3 (x3 / 2 ^ 13)

/-- Element e of RANDOM (R242). -/
def randomElem (w : Window) (e : Nat) : Nat :=
  let n := if w.par 4 = 2 then e / 2 else e
  let x := if w.par 0 = 0 then philoxWord n (w.par 1) (w.par 2) (w.par 3) else mixWord n (w.par 1)
  match w.par 4 with
  | 0 => x
  | 1 => (fp32.round .rne (.fin false (x / 2 ^ 8) (-24))).1
  | _ => x / 2 ^ (16 * (e % 2)) % 2 ^ 16

/-- Element e of a generating window (R239 to R242). -/
def Window.elem (w : Window) (e : Nat) : Nat :=
  match w.kind with
  | 1 => rampElem w.fmt (w.par 0) (w.par 1) 0 e 0
  | 2 => rampElem w.fmt (w.par 0) (w.par 1) (w.par 2) (e / w.par 3) (e % w.par 3)
  | 3 =>
    let r := toSigned 32 (w.par 4) + (e / w.par 0 : Nat)
    let c := toSigned 32 (w.par 5) + (e % w.par 0 : Nat)
    (if c ≤ r + toSigned 32 (w.par 1) then w.par 2 else w.par 3) % 2 ^ (8 * winSize w.fmt)
  | 4 =>
    let pp := 2 * w.par 0
    let pos := (w.par 1 + e / pp) % 2 ^ 32
    let phase := pos * (w.freq[e % pp / 2]?.getD 0) % 2 ^ 32
    (winFloat w.fmt).rotary (decide (e % 2 = 1)) phase
  | _ => randomElem w e

/-- The byte at an address of a generating window (R237). -/
def Window.byte (w : Window) (va : Nat) : Byte :=
  let z := winSize w.fmt
  let off := va - w.base
  BitVec.ofNat 8 (w.elem (off / z) / 2 ^ (8 * (off % z)))

/-! ## CONVERT windows -/

/-- The MX kinds of R243: element format, bits of an element, offset of the scale byte, stride. -/
def mxKind : Nat → MxElem × Nat × Nat × Nat
  | 0 => (.float e4m3, 8, 32, 64)
  | 1 => (.float e5m2, 8, 32, 64)
  | 2 => (.float e3m2, 6, 24, 32)
  | 3 => (.float e2m3, 6, 24, 32)
  | 4 => (.float e2m1, 4, 16, 32)
  | _ => (.int 8, 8, 32, 64)

/-- The element codes of a block's element bytes (R243). -/
def blockCodes (bits : Nat) (bytes : List Byte) : List Nat := (List.range 32).map fun i => leNat bytes / 2 ^ (bits * i) % 2 ^ bits

/-- The element bytes of a block. -/
def blockBytes (bits : Nat) (codes : List Nat) : List Byte :=
  leBytes (4 * bits) (codes.foldr (fun x acc => x + 2 ^ bits * acc) 0)

/-- The backing block of a view address: its address, and the view block's size (R243). -/
def Window.backing (w : Window) (va : Nat) : Nat × Nat :=
  let vb := 32 * winSize w.fmt
  (w.par 0 + 2 ^ 32 * w.par 1 + (va - w.base) / vb * (mxKind (w.par 2)).2.2.2, vb)

/-- The view bytes that a backing block decodes to (R123, R127). -/
def Window.viewBlock (w : Window) (backing : List Byte) : List Byte :=
  let (m, bits, so, _) := mxKind (w.par 2)
  let scale := ((backing[so]?.getD 0)).toNat
  ((blockCodes bits (backing.take so)).map fun c =>
    leBytes (winSize w.fmt) ((winFloat w.fmt).round .rne (m.decode scale c)).1).flatten

/-- The backing bytes of a block of view bytes (R122, R128, R243). -/
def Window.encodeBlock (w : Window) (view : List Byte) : List Byte :=
  let (m, bits, so, stride) := mxKind (w.par 2)
  let z := winSize w.fmt
  let xs := (List.range 32).map fun i => (winFloat w.fmt).decode (leNat ((view.drop (z * i)).take z))
  let (scale, codes, _) := m.encode .rne xs []
  blockBytes bits codes ++ [BitVec.ofNat 8 scale] ++ List.replicate (stride - so - 1) 0

end Sys2Proof.Machine
end

