-- ==== Sys2Proof/Machine/Access.lean ====
section
/-! DEFINITION. Memory accesses: the checks of R141, translation (R357 to R363), holdings (R273, R275, R306, R367 to R371), loads and
stores with the thread's own stores (R142, R252), parked stores (R145) and watchpoints (R391). -/

namespace Sys2Proof.Machine

/-! ## Who accesses, and what -/

/-- The identity of an access (R18): a thread, or an engine that acts for one; `tlb` says whether it translates by the L1 TLB. -/
structure Agent where
  vcore : Nat
  lanes : List LaneRec
  det : Bool
  thread : Bool
  tlb : Bool
  estream : Bool
  deriving DecidableEq, Repr

/-- The thread in focus as an agent. -/
def State.agent (s : State) : Agent := { vcore := s.vc.id, lanes := s.thr.lanes, det := s.det, thread := true, tlb := true, estream := false }

/-- The thread in focus as the agent of an instruction of its E-stream. -/
def State.agentE (s : State) : Agent := { s.agent with estream := true }

/-- Whose frame window an access is held to (R306, R371): those of every live lane, those of every live lane for one lane of a vector
(VLQ), that of one lane, or none for writes. -/
inductive Who where
  | scalar
  | anyLane (i : Nat)
  | lane (i : Nat)
  | other
  deriving DecidableEq, Repr

/-- An access of `size` bytes at `va`, which must be a multiple of `align`. `fetching` marks the atomics that R275 refuses on COMMON
holdings, `cover` the byte ranges that the whole instruction writes (R128). -/
structure Access where
  va : Nat
  size : Nat
  align : Nat
  kind : AccKind
  who : Who
  fetching : Bool
  cover : List (Nat × Nat)
  deriving DecidableEq, Repr

def readAcc (va size : Nat) (who : Who := .scalar) : Access :=
  { va := va, size := size, align := size, kind := .read, who := who, fetching := false, cover := [] }
def writeAcc (va size : Nat) (who : Who := .scalar) : Access :=
  { va := va, size := size, align := size, kind := .write, who := who, fetching := false, cover := [(va, size)] }
def atomicAcc (va size : Nat) (fetching : Bool) (who : Who := .scalar) : Access :=
  { va := va, size := size, align := size, kind := .atomic, who := who, fetching := fetching, cover := [] }

/-- Where an access goes: physical memory, the value of a window, or the backing block of a CONVERT window at a bus address. -/
inductive Target where
  | mem (pa : Nat)
  | gen (w : Window)
  | conv (w : Window) (pa : Nat)
  deriving DecidableEq, Repr

/-- What ctl.fdetail says of the lane (R151, R382). -/
def Access.lane (a : Access) : Nat := match a.who with | .lane i => i | .anyLane i => i | _ => 0

/-! ## Steps 1 to 4 (R14, R15, R16, R141) -/

def Access.isWrite (a : Access) : Bool := decide (a.kind ≠ .read)

/-- Steps 1, 3 and 4 of R141, as the backing address of a view meets them too (R14, R15). -/
def placeCheck (nmax : Nat) (a : Access) : Res Unit :=
  if 2 ^ 56 < a.va + a.size then raiseA .addressRange a.va 0
  else if inTail nmax a.va a.size then raiseA .contextTail a.va a.lane
  else if inGuard a.va then raiseA .nearRange a.va a.lane
  else .ok ()

/-- Steps 1 to 4 of R141. -/
def rangeCheck (nmax : Nat) (a : Access) : Res Unit :=
  if 2 ^ 56 < a.va + a.size then raiseA .addressRange a.va 0
  else if a.va % a.align ≠ 0 then raiseA .misaligned a.va a.lane
  else placeCheck nmax a

/-! ## Step 6: translation -/

/-- The address of a near address or of any other as the holding table knows it (R368). -/
def holdingAddr (vcore va : Nat) : Nat := if va < 0x400000 then 0x10000000000 + vcore * 0x400000 + va else va

/-- The leaf that a walk finds for an access and the physical address, or the fault of the walk (R359). -/
def State.walked (s : State) (a : Access) : Res (Nat × Nat) :=
  match s.walk a.va with
  | .leaf pte lv _ => .ok (pte, leafAddr pte lv a.va)
  | .fault lv mal => raiseA (pageFault a.kind) a.va (lv + 8 * b2n mal + 2 ^ 32 * a.lane)
  | .hole pa => .error (.fault (.physicalHole pa))

/-- An access that the L1 TLB does not serve: it waits for the walker, which asks the L2 home first (R365); where that holds nothing, the fault of
the walk is the access's. -/
def State.missed (s : State) (a : Access) : Res (Nat × Nat) :=
  if (s.l2Hit a.kind a.va).isSome then waitFor (.tlb a.va a.kind)
  else do
    let _ ← s.walked a
    waitFor (.tlb a.va a.kind)

/-- The leaf for an access and the physical address: a thread's access takes it from the L1 TLB, where a write needs an entry whose D is set
(R361, R363). An engine walks by itself. -/
def State.translate (s : State) (ag : Agent) (a : Access) : Res (Nat × Nat) :=
  if !ag.tlb then s.walked a
  else match tlbLookup (if a.kind = .fetch then s.vc.itlb else s.vc.dtlb) s.ctx.id a.va with
    | some e => if needsD a.kind e.pte then s.missed a else .ok (e.pte, e.addr a.va)
    | none => s.missed a

/-- R, W and CLASS of a leaf (R141 step 6, R276, R360). -/
def permCheck (pte : Nat) (a : Access) : Res Unit :=
  let reserved := decide (pte / 32 % 8 = 3)
  let r := bitOf pte 2 && !reserved
  let w := bitOf pte 3 && !reserved
  match a.kind with
  | .read => if r then .ok () else raiseA .permRead a.va a.lane
  | .write => if w then .ok () else raiseA .permWrite a.va a.lane
  | .atomic =>
    if !w then raiseA .permWrite a.va a.lane
    else if !r then raiseA .permRead a.va a.lane
    else if pte / 32 % 8 = 1 then raiseA .atomicClass a.va a.lane
    else .ok ()
  | .fetch => .ok ()

/-- Step 7: the key slot of a pool or far page (R372). -/
def State.keyCheck (s : State) (pte pa : Nat) (a : Access) : Res Unit :=
  if decide (pa < 0x80000000000) || s.keyLoaded (pteSlot pte) s.ctx.id then .ok () else raiseA .keyInvalid a.va (pteSlot pte)

/-! ## Step 8: holdings -/

/-- The holding that covers an address (R367, R368). -/
def findHolding (hs : SMap Holding) (va : Nat) : Option (Nat × Holding) :=
  hs.find? fun e => decide (e.2.base ≤ va) && decide (va < e.2.base + 2 ^ e.2.lsize)

/-- The agent code of a virtual core (R274) is its number; a holding in flight has no holder. -/
def Holding.heldBy (h : Holding) (code : Nat) : Bool :=
  h.inflight.isNone && decide (h.holder = code) &&
    (decide (h.cls = .exclusive) || decide (h.cls = .localOnly))

/-- Whether a byte lies in a task's frame window, or in its result slot (R305). -/
def inFrame (fb : Nat) (t : TaskRec) (x : Nat) : Bool := decide (fb + t.frame ≤ x) && decide (x < fb + t.frame + 16 * t.fsize)
def inSlot (fb : Nat) (t : TaskRec) (x : Nat) : Bool :=
  decide (t.result ≠ 0xFFFFFFFF) && decide (fb + t.result ≤ x) && decide (x < fb + t.result + 2 ^ t.rs)

/-- Whether a lane may write a byte of the arena (R306). -/
def laneMayWrite (fb x : Nat) (l : LaneRec) : Bool := inSlot fb l.task x || (!l.task.restart && inFrame fb l.task x)

/-- The bytes of an access all meet a condition. -/
def allBytes (va size : Nat) (p : Nat → Bool) : Bool := (List.range size).all fun i => p (va + i)

/-- R306 for the bytes that an access writes, R371 for those that it reads in a deterministic launch. -/
def frameAllows (fb : Nat) (lanes : List LaneRec) (write : Bool) (a : Access) : Bool :=
  let p := fun (l : LaneRec) x => if write then laneMayWrite fb x l else inFrame fb l.task x
  match a.who with
  | .lane i => match lanes[i]? with | some l => allBytes a.va a.size (p l) | none => false
  | .scalar => allBytes a.va a.size fun x => lanes.any fun l => p l x
  | .anyLane _ => allBytes a.va a.size fun x => lanes.any fun l => p l x
  | .other => !write && allBytes a.va a.size fun x => lanes.any fun l => p l x

/-- An access that reads: a load, and an atomic too (R276). -/
def Access.isRead (a : Access) : Bool := decide (a.kind ≠ .write)

/-- Whether a RESTARTABLE lane confines this write to the arena (R370). -/
def restartConfines (lanes : List LaneRec) (a : Access) : Bool :=
  a.isWrite &&
  match a.who with
  | .lane i => match lanes[i]? with | some l => l.task.restart | none => false
  | _ => lanes.any fun l => l.task.restart

/-- Whether an address lies in the frame arena (R306). -/
def Ctx.inArena (c : Ctx) (va : Nat) : Bool :=
  decide (c.framebase.toNat ≤ va) && decide (va < c.framebase.toNat + c.framesize.toNat)

/-- The cause of step 8, if any (R273, R275, R306, R368, R370, R371). -/
def Ctx.holdingCause (c : Ctx) (ag : Agent) (a : Access) : Option Cause :=
  let hit := findHolding c.holdings (holdingAddr ag.vcore a.va)
  let w := a.isWrite
  if restartConfines ag.lanes a && !c.inArena a.va then some .frameWindow
  else match hit with
    | none => if w then some .holdingInvalid else if ag.det then some .nondetOp else none
    | some (_, h) =>
      match h.cls with
      | .exclusive =>
        if h.heldBy ag.vcore then none else if w then some .notHolder else if ag.det then some .nondetOp else none
      | .localOnly => if h.heldBy ag.vcore then none else some .localNotHolder
      | .common =>
        match a.kind with
        | .write => some .commonPlainStore
        | .atomic => if ag.det && a.fetching then some .nondetOp else none
        | _ => if ag.det then some .nondetOp else none
      | .frame =>
        if w && !frameAllows c.framebase.toNat ag.lanes true a then some .frameWindow
        else if ag.det && a.isRead && !frameAllows c.framebase.toNat ag.lanes false a then some .nondetOp
        else none
      | .queue => if w then some .notHolder else none
      | .sealed => if w then some .sealedWrite else none

def State.holdingCheck (s : State) (ag : Agent) (a : Access) : Res Unit :=
  match s.ctx.holdingCause ag a with
  | some c => raiseA c a.va a.lane
  | none => .ok ()

/-! ## Steps 5 to 8 -/

/-- The pieces of a byte range within 32-byte blocks, so that each lies in one page, holding, window and view block. -/
def pieces (align : Nat) (kind : AccKind) (who : Who) (cover : List (Nat × Nat)) : Nat → Nat → Nat → List Access
  | 0, _, _ => []
  | fuel + 1, va, n =>
    if n = 0 then []
    else
      let k := min n (32 - va % 32)
      { va := va, size := k, align := align, kind := kind, who := who, fetching := false, cover := cover } ::
        pieces 1 kind who cover fuel (va + k) (n - k)

/-- The physical bytes that a piece of a read by virtual core `v` takes: of a CONVERT view those of its backing block. -/
def State.sourceBytes (s : State) (v : Nat) (a : Access) : Option (Nat × Nat) :=
  let at_ := fun va n => if va < 0x400000 then some (s.physOf v * 0x400000 + va, n) else match s.walk va with
    | .leaf pte lv _ => some (leafAddr pte lv va, n)
    | _ => none
  match findWindow s.windows a.va with
  | some w => if w.kind = 6 then at_ (w.backing a.va).1 (mxKind (w.par 2)).2.2.2 else none
  | none => at_ a.va a.size

/-- A remote MADDRAW of the thread in focus, issued before place `order`, that has still to read bytes of the `size` at a bus address, by whatever
address it names them (R211). -/
def State.mcmdReads (s : State) (order pa size : Nat) : Bool :=
  s.ctx.mcmds.any fun m =>
    let n := m.count * (64 + 24 * m.arg)
    decide (m.order < order) && decide (m.kind = 3) && decide (m.ident.vcore = s.vc.id) && decide (m.thread = s.thr.id) &&
      (pieces 1 .read .scalar [] (n / 32 + 2) m.addr n).any fun a =>
        (s.sourceBytes m.ident.vcore a).any fun x => meets (paOf pa) size x.1 x.2

/-- The wait of a thread's write for such a command. -/
def State.mcmdWait (s : State) (ag : Agent) (a : Access) (pa : Nat) : Res Unit :=
  waitIf (ag.thread && a.isWrite && s.mcmdReads s.nextId pa a.size) .other

/-- Steps 6 to 8 for an address outside windows: the bus address. A leaf of any range that reaches the reserved top of a slice is refused as a
slice view of it is (R362, log 53). -/
def State.checkMem (s : State) (ag : Agent) (a : Access) : Res Nat :=
  if a.va < 0x400000 then do
    s.holdingCheck ag a
    s.mcmdWait ag a (s.physOf ag.vcore * 0x400000 + a.va)
    .ok (s.physOf ag.vcore * 0x400000 + a.va)
  else do
    let (pte, pa) ← s.translate ag a
    if paTail pa a.size then raiseA .contextTail a.va a.lane
    else do
      permCheck pte a
      s.keyCheck pte pa a
      s.holdingCheck ag a
      s.mcmdWait ag a (busOf (pteSlot pte) pa)
      .ok (busOf (pteSlot pte) pa)

/-- A failure at the backing store of a CONVERT view names the view address in ctl.fdetail (R244). -/
def viewFault {α : Type} (va : Nat) (r : Res α) : Res α :=
  match r with
  | .error (.trap i) => .error (.trap { i with fdetail := va })
  | .error (.trapIn s i) => .error (.trapIn s { i with fdetail := va })
  | x => x

/-- The address at which the view block of a view address begins. -/
def Window.blockStart (w : Window) (va : Nat) : Nat := w.base + (va - w.base) / (w.backing va).2 * (w.backing va).2

/-- Whether the blocks that an access touches lie wholly in what the instruction writes (R128). -/
def coversBlock (w : Window) (a : Access) : Bool :=
  allBytes (w.blockStart a.va) (w.backing a.va).2 fun x => a.cover.any fun c => decide (c.1 ≤ x) && decide (x < c.1 + c.2)

/-- The watchpoint that a thread's access touches (R391). -/
def State.watchHit (s : State) (ag : Agent) (a : Access) : Option Nat :=
  if !ag.thread then none
  else (List.range 4).find? fun n => !s.thr.watchPass.contains (n + 4 * b2n ag.estream) &&
    match s.ctx.watch[n]?.getD none with
    | some w => (if a.kind = .read then w.rd else if a.kind = .write then w.wr else w.rd || w.wr) &&
        decide (a.va < w.base + 2 ^ w.lsize) && decide (w.base < a.va + a.size)
    | none => false

def State.watchCheck (s : State) (ag : Agent) (a : Access) : Res Unit :=
  match s.watchHit ag a with
  | some n => raiseA .watchpoint a.va n
  | none => .ok ()

/-- The 64 KiB granules of a parked access of a thread of virtual core `v`, a near address by its name in the slice view (R16): that of its address,
and of a view address that of its backing block too. -/
def PAcc.granules (v : Nat) (x : PAcc) : List Nat :=
  holdingAddr v x.va / 65536 :: (match x.view with | some w => [holdingAddr v (w.backing x.va).1 / 65536] | none => [])
def Parked.granules (v : Nat) (p : Parked) : List Nat := (p.accs.map (PAcc.granules v)).flatten

/-- Whether a parked store's granule holds an address of virtual core `v` (R145). -/
def Thread.granuleParked (t : Thread) (v va : Nat) : Bool := t.replay.any fun p => (p.granules v).contains (holdingAddr v va / 65536)

/-- The wait of a thread's access for the parked stores of its granule (R145). -/
def State.parkWait (s : State) (ag : Agent) (va : Nat) : Res Unit := waitIf (ag.thread && s.thr.granuleParked ag.vcore va) .other

/-- The access to the backing block of a view access (R244). -/
def Access.backing (w : Window) (a : Access) : Access := { a with va := (w.backing a.va).1, size := (mxKind (w.par 2)).2.2.2 }

/-- The checks of the backing block of a view: its bus address (R244). -/
def State.checkBacking (s : State) (ag : Agent) (w : Window) (a : Access) : Res Nat := do
  placeCheck s.ctx.nmax (a.backing w)
  s.parkWait ag (w.backing a.va).1
  s.checkMem ag (a.backing w)

/-- The checks of R141, steps 1 to 8, with the window table `ws`, and the watchpoints. -/
def State.checkIn (s : State) (ws : List Window) (ag : Agent) (a : Access) : Res Target := do
  rangeCheck s.ctx.nmax a
  let t ← (match findWindow ws a.va with
    | some w =>
      if w.kind = 6 then
        if a.kind = .atomic then raiseA .aliasPartial a.va a.lane
        else if a.isWrite && !coversBlock w a then raiseA .aliasPartial a.va a.lane
        else do
          s.parkWait ag a.va
          let pa ← viewFault a.va (s.checkBacking ag w a)
          .ok (.conv w pa)
      else if a.isWrite then raiseA .windowStore a.va a.lane
      else .ok (.gen w)
    | none => do
      s.parkWait ag a.va
      let pa ← s.checkMem ag a
      .ok (.mem pa) : Res Target)
  s.watchCheck ag a
  .ok t

def State.check (s : State) (ag : Agent) (a : Access) : Res Target := s.checkIn s.windows ag a

/-- A list of accesses that must all pass before any is performed: the first stop of the lowest one (R151). -/
def State.checkAll (s : State) (ag : Agent) : List Access → Res (List Target)
  | [] => .ok []
  | a :: rest => do
    let t ← s.check ag a
    let ts ← s.checkAll ag rest
    .ok (t :: ts)

/-! ## Step 9: the access itself -/

/-- A new entry of an error log: the newest replaces the oldest of 16 (R393). -/
def addEntry (es : List LogEntry) (e : LogEntry) : List LogEntry := (if 16 ≤ es.length then es.drop 1 else es) ++ [e]

/-- An error log of a core. -/
def PCore.logOf (c : PCore) : ErrLog → List LogEntry
  | .slice => c.sliceLog
  | .acc => c.accLog
  | .sregs => c.sregLog
  | .vregs => c.vregLog
def PCore.addLog (c : PCore) (k : ErrLog) (e : LogEntry) : PCore :=
  match k with
  | .slice => { c with sliceLog := addEntry c.sliceLog e }
  | .acc => { c with accLog := addEntry c.accLog e }
  | .sregs => { c with sregLog := addEntry c.sregLog e }
  | .vregs => { c with vregLog := addEntry c.vregLog e }

/-- Whether firmware declared a storage array of a core's slice failed (R392). -/
def State.hasFailed (s : State) (core : Nat) : Bool := s.failedArrays.any fun x => decide (x.1 = core)

/-- The index that the next entry of a log of a core gets. -/
def State.logIndex (s : State) (k : ErrLog) (core : Nat) : Nat := min 15 ((SMap.get PCore.fresh s.cores core).logOf k).length

/-- A log of a core with a new entry (R393). -/
def State.logError (s : State) (k : ErrLog) (core addr ctxid : Nat) (unc : Bool) : State :=
  match SMap.find s.cores core with
  | none => s
  | some c =>
    let (w, s1) := s.freeWord
    let e : LogEntry :=
      { addr := addr, syndrome := w.setWidth 32, ctxid := ctxid, uncorrected := unc, arrayFailed := decide (k = .slice) && s.hasFailed core, cycle := c.cycle.toNat }
    { s1 with cores := SMap.put s1.cores core (c.addLog k e) }

/-- The failure of step 9 of a read, if any (R26 to R28, R392). -/
def State.accessFails (s : State) (pa size : Nat) : Option (Cause × Nat) :=
  match s.linkFails pa with
  | some x => some x
  | none =>
    if s.badWords.any fun w => decide (w < paOf pa + size) && decide (paOf pa < w + 16) then
      (if isPool pa then some (.poolError, s.portOf pa) else some (.sramUncorrectable, s.logIndex .slice (pa / 0x400000)))
    else none

/-- Step 9 of a read: an uncorrectable word enters the error log of its slice (R393). -/
def State.performRead (s : State) (va pa size : Nat) : Res Unit :=
  match s.accessFails pa size with
  | none => .ok ()
  | some (c, d) =>
    if c = .sramUncorrectable then .error (.trapIn (s.logError .slice (pa / 0x400000) pa s.ctx.id true) ⟨c, va, d⟩)
    else raiseA c va d

/-! ## Reading -/

/-- A byte of a slice as the thread sees it: its latest own store to it, else memory (R142). -/
def forwardByte (stores : List PStore) (m : Memory) (pa : Nat) : Byte :=
  stores.foldl (fun b p => if p.pa ≤ pa then (p.bytes[pa - p.pa]?).getD b else b) (Memory.read m pa)

/-- Bytes at a bus address as an agent sees them: a thread sees its own stores, those under another key too (R142, R372). -/
def State.seenBytes (s : State) (ag : Agent) (pa n : Nat) : List Byte :=
  if !ag.thread || s.thr.stores.isEmpty then s.busRead pa n
  else if pa < 0x80000000000 then (List.range n).map fun i => forwardByte s.thr.stores s.mem (pa + i)
  else (s.thr.stores.foldl (fun s p => s.writePhys p.pa p.bytes) s).busRead pa n

/-- The view bytes from `va` on, of the block whose backing bytes stand at a bus address (R127). -/
def State.viewBytes (s : State) (ag : Agent) (w : Window) (pa va n : Nat) : Res (List Byte) := do
  let (b, vb) := w.backing va
  let stride := (mxKind (w.par 2)).2.2.2
  viewFault va (s.performRead b pa stride)
  .ok (((w.viewBlock (s.seenBytes ag pa stride)).drop ((va - w.base) % vb)).take n)

/-- The bytes that a checked read returns (R237, R244). -/
def State.readTarget (s : State) (ag : Agent) (a : Access) : Target → Res (List Byte)
  | .mem pa => do
    s.performRead a.va pa a.size
    .ok (s.seenBytes ag pa a.size)
  | .gen w => .ok ((List.range a.size).map fun i => w.byte (a.va + i))
  | .conv w pa => s.viewBytes ag w pa a.va a.size

/-- A checked read of one access, as a number. -/
def State.loadNum (s : State) (ag : Agent) (a : Access) : Res Nat := do
  let t ← s.check ag a
  let bs ← s.readTarget ag a t
  .ok (leNat bs)

/-- Reads of accesses that have all passed their checks. -/
def State.readAll (s : State) (ag : Agent) : List Access → List Target → Res (List Nat)
  | a :: as, t :: ts => do
    let bs ← s.readTarget ag a t
    let rest ← s.readAll ag as ts
    .ok (leNat bs :: rest)
  | _, _ => .ok []

/-- A plain read of a range as an array or lantern command makes it (R211): its bytes. -/
def State.readRange (s : State) (ag : Agent) (align va n : Nat) : Res (List Byte) := do
  let ps := pieces align .read .scalar [] (n / 32 + 2) va n
  let ts ← s.checkAll ag ps
  let bss ← (ps.zip ts).mapM fun x => s.readTarget ag x.1 x.2
  .ok bss.flatten

/-! ## Writing -/

/-- The failure of a store at step 9, as it is reported later (R141): of one through a view, ctl.fdetail is to hold the view address (R244). -/
def PStore.late (p : PStore) (c : Cause) (d : Nat) : LateErr := ⟨c, p.va, p.view.getD d⟩

/-- A store performed (R252): its failure at step 9 is kept for the next instruction that waits for the replay queue (R141). -/
def State.performStore (s : State) (p : PStore) : State :=
  match s.linkFails p.pa with
  | some (c, d) => s.updThr fun t => { t with storeErr := t.storeErr ++ [p.late c d] }
  | none => s.writePhys p.pa p.bytes

/-- Every store that left the thread performed, in program order. -/
def State.flush (s : State) : State :=
  s.thr.stores.foldl State.performStore (s.updThr fun t => { t with stores := [] })

/-- The replay queue without its first failed store, and that failure (R145). -/
def takeFailed : List Parked → Option (LateErr × List Parked)
  | [] => none
  | p :: rest =>
    match p.failed with
    | some e => some (e, rest)
    | none => (takeFailed rest).map fun x => (x.1, p :: x.2)

/-- Whether an 8-byte instruction is a VLDE or a VSTE, the E-stream instructions that access memory (R97). -/
def isEmuLoad (inst : Nat) : Bool := decide (inst % 4 = 0) && bitOf inst 2 && decide (inst / 8 % 128 = 96)
def isEmuMem (inst : Nat) : Bool := isEmuLoad inst || (decide (inst % 4 = 0) && bitOf inst 2 && decide (inst / 8 % 128 = 97))

/-- The wait for older accesses of the thread's E-stream (R247, R257): instructions of its path that meet a condition. -/
def State.pathWait (s : State) (p : Nat → Bool) : Res Unit := waitIf (s.thr.ePath.any fun a => p (s.einstAt a)) .other

/-- What the replay queue and the stores that left the thread say to an instruction that waits for them: a late failure of a store is reported and
removed, else the queue must be empty and every earlier store is performed (R141). -/
def State.drained (s : State) : Res State :=
  let s1 := s.flush
  match s1.thr.storeErr, takeFailed s1.thr.replay with
  | e :: rest, _ => .error (.trapIn (s1.updThr fun t => { t with storeErr := rest }) ⟨e.cause, e.faddr, e.fdetail⟩)
  | [], some (e, rest) => .error (.trapIn (s1.updThr fun t => { t with replay := rest }) ⟨e.cause, e.faddr, e.fdetail⟩)
  | [], none => if s1.thr.replay.isEmpty then .ok s1 else waitFor .other

/-- The wait of R141 for the replay queue, in which every earlier access of the thread is performed, those of its E-stream too (R142, R257). -/
def State.drain (s : State) : Res State := do
  s.pathWait isEmuMem
  s.drained

/-- Every earlier access of the thread performed, without a report (R247, R302); a parked store that has failed never is. -/
def State.performed (s : State) : Res State := if s.thr.replay.all fun p => p.failed.isSome then .ok s.flush else waitFor .other

/-- What the checks of a vector store say of each access: a target, or a missing translation (R145). -/
inductive Slot where
  | ready (t : Target)
  | missing
  deriving DecidableEq, Repr

/-- The checks that can be made at issue, of every access in order (R145, R151). -/
def State.checkStores (s : State) (ag : Agent) : List Access → Res (List Slot)
  | [] => .ok []
  | a :: rest =>
    match s.check ag a with
    | .ok t => do
      let r ← s.checkStores ag rest
      .ok (.ready t :: r)
    | .error (.trap i) =>
      if i.cause = .pageFaultWrite && (findWindow s.windows a.va).isNone then do
        s.watchCheck ag a
        let r ← s.checkStores ag rest
        .ok (.missing :: r)
      else .error (.trap i)
    | .error e => .error e

/-- The bytes of the instruction at an address: the last access that writes it wins (R151). -/
def groupByte (xs : List (Access × List Byte)) (va : Nat) : Byte :=
  xs.foldl (fun b x => if x.1.va ≤ va then (x.2[va - x.1.va]?).getD b else b) 0

/-- The store that a checked access makes: a plain one, or the whole backing block of a view (R128). -/
def storeOf (all : List (Access × List Byte)) (x : Access × List Byte) : Target → List PStore
  | .mem pa => [{ va := x.1.va, pa := pa, bytes := x.2, view := none }]
  | .gen _ => []
  | .conv w pa =>
    [{ va := (w.backing x.1.va).1, pa := pa, view := some x.1.va,
       bytes := w.encodeBlock ((List.range (w.backing x.1.va).2).map fun i => groupByte all (w.blockStart x.1.va + i)) }]

/-- A later access of the instruction writes in the same view block: that one makes the block's store. -/
def Target.laterBlock (xs : List (Access × List Byte)) (va : Nat) : Target → Bool
  | .conv w _ => xs.any fun y => w.covers y.1.va && decide (w.blockStart y.1.va = w.blockStart va)
  | _ => false

/-- The stores of a group whose accesses all have a target: one for each view block that it writes, in the place of its last lane, so that where two
windows share a backing block the highest lane is the last (R128, R151, R244). -/
def storesOf (all : List (Access × List Byte)) : List (Access × List Byte) → List Slot → List PStore
  | x :: xs, .ready t :: ts => (if t.laterBlock xs x.1.va then [] else storeOf all x t) ++ storesOf all xs ts
  | _, _ => []

/-! ## Messages (R25) -/

/-- The bus address of what an access reaches: none of a generated value. -/
def Target.bus : Target → Option Nat
  | .mem pa => some pa
  | .gen _ => none
  | .conv _ pa => some pa

/-- The messages of accesses of core `phys`: those through a CONVERT view are of its backing block. -/
def State.trafficOf (s : State) (phys : Nat) (store : Bool) (ts : List Target) : State := s.busTraffic phys store (ts.filterMap Target.bus)

/-- The same of accesses of the core in focus. -/
def State.traffic (s : State) (store : Bool) (ts : List Target) : State := s.trafficOf s.vc.phys store ts

/-- A set in the leaves of what an access has read, of a view in those of its backing block (R361). -/
def State.markSource (s : State) (x : Access × Target) : State :=
  match x.2 with
  | .mem _ => s.markRange x.1.va x.1.size
  | .conv w _ => s.markRange (w.backing x.1.va).1 (mxKind (w.par 2)).2.2.2
  | .gen _ => s

/-- What the read of a range leaves: a request and a response for each of its pieces. -/
def State.sawRange (s : State) (ag : Agent) (align va n : Nat) : State :=
  match s.checkAll ag (pieces align .read .scalar [] (n / 32 + 2) va n) with
  | .ok ts => s.traffic false ts
  | .error _ => s

/-- A store that enters the replay queue; it waits where no entry is free (R145). -/
def State.parkStore (s : State) (p : Parked) : Res State :=
  if 16 ≤ s.thr.replay.length then waitFor (.replayRoom p)
  else .ok { (s.updThr fun t => { t with replay := t.replay ++ [p] }) with nextId := s.nextId + 1 }

/-- What is parked of a store: its accesses with what the checks said of each. -/
def parkedOf (order : Nat) (xs : List (Access × List Byte)) (slots : List Slot) : Parked where
  order := order
  accs := (xs.zip slots).map fun y =>
    { va := y.1.1.va, bytes := y.1.2, lane := match y.1.1.who with | .lane i => some i | _ => none, missing := decide (y.2 = .missing),
      view := match y.2 with | .ready (.conv w _) => some w | _ => none }
  failed := none

/-- A store instruction's accesses with their bytes: checked whole, then left to be performed, or parked whole (R144, R145, R151). One that has
waited for a free entry is not checked again (R10). -/
def State.storeGroup (s : State) (ag : Agent) (xs : List (Access × List Byte)) : Res State :=
  match s.thr.waitA with
  | .replayRoom p => s.parkStore p
  | _ => do
    let slots ← s.checkStores ag (xs.map Prod.fst)
    if slots.contains .missing then s.parkStore (parkedOf s.nextId xs slots)
    else
      let ps := storesOf xs xs slots
      .ok ((s.updThr fun t => { t with stores := t.stores ++ ps }).traffic true (ps.map fun p => .mem p.pa))

/-- A write of a checked access performed at once, as atomics and engines make it. -/
def State.writeNow (s : State) (va pa : Nat) (bs : List Byte) : Res State :=
  match s.linkFails pa with
  | some (c, d) => raiseA c va d
  | none => .ok (s.writePhys pa bs)

end Sys2Proof.Machine
end

