-- ==== Sys2Proof/Machine/Scalar.lean ====
section
/-! DEFINITION. Scalar arithmetic, constants and lane state of the A-stream (R129 to R137), NOP, ENOP and the hints (R58, R61, R62). -/

namespace Sys2Proof.Machine

/-! ## What the operations compute (R130, R131, R134) -/

/-- Clamp to the signed w-bit range (R102). -/
def clampS (w : Nat) (x : Int) : Int :=
  let hi : Int := (2 ^ (w - 1) : Nat) - 1
  let lo : Int := -(2 ^ (w - 1) : Nat)
  if x < lo then lo else if hi < x then hi else x

def aluAdd (_ a b : Nat) : Int := a + b
def aluSub (_ a b : Nat) : Int := (a : Int) - b
def aluAnd (_ a b : Nat) : Int := Nat.land a b
def aluOr (_ a b : Nat) : Int := Nat.lor a b
def aluXor (_ a b : Nat) : Int := Nat.xor a b
def aluAndn (w a b : Nat) : Int := Nat.land a (2 ^ w - 1 - b)
def aluShl (w a b : Nat) : Int := a * 2 ^ (b % w)
def aluShr (w a b : Nat) : Int := a / 2 ^ (b % w)
def aluSar (w a b : Nat) : Int := toSigned w a / (2 ^ (b % w) : Nat)
def aluRotl (w a b : Nat) : Int := a * 2 ^ (b % w) % 2 ^ w + a * 2 ^ (b % w) / 2 ^ w
def aluMin (w a b : Nat) : Int := min (toSigned w a) (toSigned w b)
def aluMax (w a b : Nat) : Int := max (toSigned w a) (toSigned w b)
def aluMinn (_ a b : Nat) : Int := min a b
def aluMaxn (_ a b : Nat) : Int := max a b
def aluAddsat (w a b : Nat) : Int := clampS w (toSigned w a + toSigned w b)
def aluSubsat (w a b : Nat) : Int := clampS w (toSigned w a - toSigned w b)

def mulMul (_ a b _c : Nat) : Int := a * b
def mulHs (w a b _c : Nat) : Int := toSigned w a * toSigned w b / (2 ^ w : Nat)
def mulHn (w a b _c : Nat) : Int := a * b / 2 ^ w
def mulMadd (_ a b c : Nat) : Int := a * b + c
def mulMsub (_ a b c : Nat) : Int := (c : Int) - a * b
/-- The quotients and remainders of R101, for every divisor. -/
def mulDivs (w a b _c : Nat) : Int := if b = 0 then -1 else (toSigned w a).tdiv (toSigned w b)
def mulDivn (w a b _c : Nat) : Int := if b = 0 then 2 ^ w - 1 else a / b
def mulRems (w a b _c : Nat) : Int := if b = 0 then a else (toSigned w a).tmod (toSigned w b)
def mulRemn (_ a b _c : Nat) : Int := if b = 0 then a else a % b

/-- The conditions of R132 and R138. -/
def condHolds (fn w a b : Nat) : Bool :=
  match fn with
  | 0 => decide (a = b)
  | 1 => decide (a ≠ b)
  | 2 => decide (toSigned w a < toSigned w b)
  | 3 => decide (toSigned w b ≤ toSigned w a)
  | 4 => decide (a < b)
  | _ => decide (b ≤ a)

/-- The number of leading zero bits within w bits. -/
def clz (w a : Nat) : Nat := if a = 0 then w else w - 1 - Nat.log2 a
/-- The number of trailing zero bits, w if there is no one bit. -/
def ctz (w a : Nat) : Nat := ((List.range w).find? fun i => bitOf a i).getD w
def popc (w a : Nat) : Nat := ((List.range w).filter fun i => bitOf a i).length
def brev (w a : Nat) : Nat := ((List.range w).map fun i => if bitOf a i then 2 ^ (w - 1 - i) else 0).sum
def bswap (w a : Nat) : Nat := ((List.range (w / 8)).map fun i => a / 2 ^ (8 * i) % 256 * 2 ^ (8 * (w / 8 - 1 - i))).sum

/-! ## Shapes -/

/-- sD := sext(f w a b c mod 2^w, w) of the low bits of A, B and C (R130, R131). -/
def regVal (f : Nat → Nat → Nat → Nat → Int) (r : RArgs) (s : State) : W64 :=
  let w := widthOf r.ty
  sextResult w (f w (lowBits w (s.thr.getS r.a)) (lowBits w (s.thr.getS r.b)) (lowBits w (s.thr.getS r.c)))

/-- The same with the sign-extended immediate for B (R130). -/
def immVal (f : Nat → Nat → Nat → Int) (i : IArgs) (s : State) : W64 :=
  let w := widthOf (i.b % 8)
  sextResult w (f w (lowBits w (s.thr.getS i.a)) (lowBits w (sext64 32 i.imm)))

/-- An instruction of the scalar families: one value computed, written with its settle (R129). -/
def execReg (f : Nat → Nat → Nat → Nat → Int) (r : RArgs) (s : State) : Out := finishA 8 s (scalarOp r.d (regVal f r) s)
def execImm (f : Nat → Nat → Nat → Int) (i : IArgs) (s : State) : Out := finishA 8 s (scalarOp i.d (immVal f i) s)

/-- A two-operand function as a three-operand one. -/
def two (f : Nat → Nat → Nat → Int) (w a b _c : Nat) : Int := f w a b

/-! ## IALU, IALUI, IMUL -/

def execIaluAdd (r : RArgs) (s : State) : Out := execReg (two aluAdd) r s
def execIaluSub (r : RArgs) (s : State) : Out := execReg (two aluSub) r s
def execIaluAnd (r : RArgs) (s : State) : Out := execReg (two aluAnd) r s
def execIaluOr (r : RArgs) (s : State) : Out := execReg (two aluOr) r s
def execIaluXor (r : RArgs) (s : State) : Out := execReg (two aluXor) r s
def execIaluAndn (r : RArgs) (s : State) : Out := execReg (two aluAndn) r s
def execIaluShl (r : RArgs) (s : State) : Out := execReg (two aluShl) r s
def execIaluShr (r : RArgs) (s : State) : Out := execReg (two aluShr) r s
def execIaluSar (r : RArgs) (s : State) : Out := execReg (two aluSar) r s
def execIaluRotl (r : RArgs) (s : State) : Out := execReg (two aluRotl) r s
def execIaluMin (r : RArgs) (s : State) : Out := execReg (two aluMin) r s
def execIaluMax (r : RArgs) (s : State) : Out := execReg (two aluMax) r s
def execIaluMinn (r : RArgs) (s : State) : Out := execReg (two aluMinn) r s
def execIaluMaxn (r : RArgs) (s : State) : Out := execReg (two aluMaxn) r s
def execIaluAddsat (r : RArgs) (s : State) : Out := execReg (two aluAddsat) r s
def execIaluSubsat (r : RArgs) (s : State) : Out := execReg (two aluSubsat) r s
def execIaluiAdd (i : IArgs) (s : State) : Out := execImm aluAdd i s
def execIaluiSub (i : IArgs) (s : State) : Out := execImm aluSub i s
def execIaluiAnd (i : IArgs) (s : State) : Out := execImm aluAnd i s
def execIaluiOr (i : IArgs) (s : State) : Out := execImm aluOr i s
def execIaluiXor (i : IArgs) (s : State) : Out := execImm aluXor i s
def execIaluiAndn (i : IArgs) (s : State) : Out := execImm aluAndn i s
def execIaluiShl (i : IArgs) (s : State) : Out := execImm aluShl i s
def execIaluiShr (i : IArgs) (s : State) : Out := execImm aluShr i s
def execIaluiSar (i : IArgs) (s : State) : Out := execImm aluSar i s
def execIaluiRotl (i : IArgs) (s : State) : Out := execImm aluRotl i s
def execIaluiMin (i : IArgs) (s : State) : Out := execImm aluMin i s
def execIaluiMax (i : IArgs) (s : State) : Out := execImm aluMax i s
def execIaluiMinn (i : IArgs) (s : State) : Out := execImm aluMinn i s
def execIaluiMaxn (i : IArgs) (s : State) : Out := execImm aluMaxn i s
def execIaluiAddsat (i : IArgs) (s : State) : Out := execImm aluAddsat i s
def execIaluiSubsat (i : IArgs) (s : State) : Out := execImm aluSubsat i s
def execImulMul (r : RArgs) (s : State) : Out := execReg mulMul r s
def execImulMulhs (r : RArgs) (s : State) : Out := execReg mulHs r s
def execImulMulhn (r : RArgs) (s : State) : Out := execReg mulHn r s
def execImulMadd (r : RArgs) (s : State) : Out := execReg mulMadd r s
def execImulMsub (r : RArgs) (s : State) : Out := execReg mulMsub r s
def execImulDivs (r : RArgs) (s : State) : Out := execReg mulDivs r s
def execImulDivn (r : RArgs) (s : State) : Out := execReg mulDivn r s
def execImulRems (r : RArgs) (s : State) : Out := execReg mulRems r s
def execImulRemn (r : RArgs) (s : State) : Out := execReg mulRemn r s

/-! ## ICMP, ICMPI (R132) -/

def icmpVal (fn : Nat) (r : RArgs) (s : State) : W64 :=
  let w := widthOf r.ty
  if condHolds fn w (lowBits w (s.thr.getS r.a)) (lowBits w (s.thr.getS r.b)) then 1 else 0
def icmpiVal (fn : Nat) (i : IArgs) (s : State) : W64 :=
  let w := widthOf (i.b % 8)
  if condHolds fn w (lowBits w (s.thr.getS i.a)) (lowBits w (sext64 32 i.imm)) then 1 else 0
def execIcmp (fn : Nat) (r : RArgs) (s : State) : Out := finishA 8 s (scalarOp r.d (icmpVal fn r) s)
def execIcmpi (fn : Nat) (i : IArgs) (s : State) : Out := finishA 8 s (scalarOp i.d (icmpiVal fn i) s)

/-! ## BITS (R133, R134) -/

def bitsLen (r : RArgs) : Nat := r.x16 / 64 % 128
def bitsPos (r : RArgs) : Nat := r.x16 % 64

def fnClz (w a _b _c : Nat) : Int := clz w a
def fnCtz (w a _b _c : Nat) : Int := ctz w a
def fnPopc (w a _b _c : Nat) : Int := popc w a
def fnBrev (w a _b _c : Nat) : Int := brev w a
def fnBswap (w a _b _c : Nat) : Int := bswap w a
def fnSext (len : Nat) (_w a _b _c : Nat) : Int := toSigned len a
def fnZext (len : Nat) (_w a _b _c : Nat) : Int := a % 2 ^ len
def fnBfx (pos len : Nat) (_w a _b _c : Nat) : Int := a / 2 ^ pos % 2 ^ len
def fnBfi (pos len : Nat) (_w a b _c : Nat) : Int := a - a / 2 ^ pos % 2 ^ len * 2 ^ pos + b % 2 ^ len * 2 ^ pos

def execBitsClz (r : RArgs) (s : State) : Out := execReg fnClz r s
def execBitsCtz (r : RArgs) (s : State) : Out := execReg fnCtz r s
def execBitsPopc (r : RArgs) (s : State) : Out := execReg fnPopc r s
def execBitsBrev (r : RArgs) (s : State) : Out := execReg fnBrev r s
def execBitsBswap (r : RArgs) (s : State) : Out := execReg fnBswap r s
def execBitsSext (r : RArgs) (s : State) : Out := execReg (fnSext (bitsLen r)) r s
def execBitsZext (r : RArgs) (s : State) : Out := execReg (fnZext (bitsLen r)) r s
def execBitsBfx (r : RArgs) (s : State) : Out := execReg (fnBfx (bitsPos r) (bitsLen r)) r s
def execBitsBfi (r : RArgs) (s : State) : Out := execReg (fnBfi (bitsPos r) (bitsLen r)) r s

/-! ## SEL (R135), LI and LI64 (R136) -/

def selVal (r : RArgs) (s : State) : W64 := if s.thr.getS r.c ≠ 0 then s.thr.getS r.a else s.thr.getS r.b
def execSel (r : RArgs) (s : State) : Out := finishA 8 s (scalarOp r.d (selVal r) s)

def liVal (i : IArgs) (_ : State) : W64 := sext64 32 i.imm
def lihVal (i : IArgs) (s : State) : W64 := BitVec.ofNat 64 (i.imm * 2 ^ 32 + lowBits 32 (s.thr.getS i.a))
def addpcVal (i : IArgs) (s : State) : W64 := s.thr.apc + sext64 32 i.imm
def li64Val (l : LArgs) (_ : State) : W64 := BitVec.ofNat 64 (l.i.imm + l.ext * 2 ^ 32)
def execLiLi (i : IArgs) (s : State) : Out := finishA 8 s (scalarOp i.d (liVal i) s)
def execLiLih (i : IArgs) (s : State) : Out := finishA 8 s (scalarOp i.d (lihVal i) s)
def execLiAddpc (i : IArgs) (s : State) : Out := finishA 8 s (scalarOp i.d (addpcVal i) s)
def execLi64 (l : LArgs) (s : State) : Out := finishA 12 s (scalarOp l.i.d (li64Val l) s)

/-! ## LANE (R137) -/

def laneLiveVal (s : State) : W64 := BitVec.ofNat 64 s.thr.lanes.length
/-- DESIGN CHOICE (log 61): where a handler has written ctl.framebase within the firing, the register as it stands at the read is added. -/
def laneLframeVal (l : Nat) (s : State) : W64 :=
  match s.thr.lanes[l]? with
  | some x => s.ctx.framebase + BitVec.ofNat 64 x.task.frame
  | none => 0
def laneLkeyVal (l : Nat) (s : State) : W64 :=
  match s.thr.lanes[l]? with
  | some x => BitVec.ofNat 64 x.task.key
  | none => 0
def laneLmaskVal (s : State) : W64 := (s.thr.getM 0).setWidth 64
def laneVcoreVal (s : State) : W64 := BitVec.ofNat 64 s.vc.id
def laneThreadVal (s : State) : W64 := BitVec.ofNat 64 s.thr.id
def execLaneLive (r : RArgs) (s : State) : Out := finishA 8 s (scalarOp r.d laneLiveVal s)
def execLaneLframe (r : RArgs) (s : State) : Out := finishA 8 s (scalarOp r.d (laneLframeVal (r.x16 % 32)) s)
def execLaneLkey (r : RArgs) (s : State) : Out := finishA 8 s (scalarOp r.d (laneLkeyVal (r.x16 % 32)) s)
def execLaneLmask (r : RArgs) (s : State) : Out := finishA 8 s (scalarOp r.d laneLmaskVal s)
def execLaneVcore (r : RArgs) (s : State) : Out := finishA 8 s (scalarOp r.d laneVcoreVal s)
def execLaneThread (r : RArgs) (s : State) : Out := finishA 8 s (scalarOp r.d laneThreadVal s)

/-! ## NOP, ENOP and the hints (R58, R61, R62) -/

def execNop (s : State) : Out := finishA 8 s (.ok s)
def execEnop (s : State) : Out := finishE 8 s (.ok s)

/-- A hint that the Z4 does not implement only advances its stream (R58). -/
def execHintNop (h : HArgs) (s : State) : Out :=
  if h.st = 1 then finishE (lengthOf h.len) s (.ok s) else finishA (lengthOf h.len) s (.ok s)

/-- HPREF asks for a line: it changes nothing that a program can see (R58, R62). -/
def execHpref (_ : Nat) (_ : MArgs) (s : State) : Out := finishA 8 s (.ok s)

/-- HPRIO: the next n A-stream issues are boosted (R62). The instruction's own issue uses none of them. -/
def execHprio (_ : Nat) (i : IArgs) (s : State) : Out :=
  finishA 8 s (.ok (s.updThr fun t => { t with hprio := i.imm % 256 + 2 }))

/-- HGATHER: the first station of the code that holds a record counts as expired (R62, R326). -/
def expireStation (code : Nat) : List Station → List Station
  | [] => []
  | st :: rest => if st.code = code && !st.recs.isEmpty then { st with expired := true } :: rest else st :: expireStation code rest
def execHgather (_ : Nat) (r : RArgs) (s : State) : Out :=
  finishA 8 s (.ok (s.updVc fun v => { v with stations := expireStation (s.thr.getS r.a).toNat v.stations }))

end Sys2Proof.Machine
end

