-- ==== Sys2Proof/Machine/Fetch.lean ====
section
/-! DEFINITION. Fetch (R37 to R41): what stands at a position of the path, and where the E-stream may go ahead of a waiting A-stream
instruction (R10). -/

namespace Sys2Proof.Machine

/-- What a fetch finds: a pad word, an instruction of a stream with its length, a decode fault that the stream of ST raises, or a fault of the
fetch itself. -/
inductive Fetched where
  | pad
  | instr (i : Instr) (len : Nat) (estream : Bool)
  | bad (t : TrapInfo) (len : Nat) (estream : Bool)
  | stop (e : Stop)
  deriving DecidableEq, Repr

/-- A fetch access. -/
def fetchAcc (pos : Nat) : Access := { va := pos, size := 4, align := 4, kind := .fetch, who := .other, fetching := false, cover := [] }

/-- The bus address of a fetch (R40): misaligned, outside the address space, no range to fetch from, the reserved top of a slice (R14, R16), not
translated, then not executable. -/
def State.fetchAddr (s : State) (pos : W64) : Res Nat := do
  let va := pos.toNat
  if va % 4 ≠ 0 then raiseA .fetchMisaligned va 0
  else if 2 ^ 56 ≤ va then raiseA .addressRange va 0
  else if va < 0x1000000 || (findWindow s.windows va).isSome then raiseA .fetchPerm va 0
  else if inTail s.ctx.nmax va 4 then raiseA .contextTail va 0
  else do
    let (pte, pa) ← s.translate s.agent (fetchAcc va)
    if paTail pa 4 then raiseA .contextTail va 0
    else if !bitOf pte 4 || bitOf pte 3 || decide (pte / 32 % 8 = 3) then raiseA .fetchPerm va 0
    else do
      s.keyCheck pte pa (fetchAcc va)
      s.performRead va (busOf (pteSlot pte) pa) 4
      .ok (busOf (pteSlot pte) pa)

/-- What a decoder finds in the bytes at a position. -/
def fetchedOf (pos : W64) (bs : List Byte) : Fetched :=
  match decodeAt (pos.toNat % 32) bs with
  | .pad => .pad
  | .instr i len => .instr i len (stBit bs)
  | .fault e =>
    if fetchCause e.cause then .stop (.trap ⟨e.cause, pos.toNat, 0⟩) else .bad ⟨e.cause, 0, e.detail⟩ (lengthOf (lenOf (leNat (bs.take 4)))) (stBit bs)

/-- What stands at a position. -/
def State.fetchAt (s : State) (pos : W64) : Fetched :=
  match s.fetchAddr pos with
  | .error e => .stop e
  | .ok pa => fetchedOf pos (s.busRead pa (min 16 (32 - pos.toNat % 32)))

/-- The instruction at a position, which has been fetched before. -/
def State.instrAt (s : State) (pos : W64) : Option (Instr × Nat) :=
  (s.codeBytes pos).bind fun bs => match decodeAt (pos.toNat % 32) bs with
    | .instr i len => some (i, len)
    | _ => none

/-- Where the E-stream is, ahead of a waiting A-stream instruction. -/
def State.aheadPos (s : State) : Option W64 :=
  if !s.thr.ePath.isEmpty || !s.thr.waitA.cleared then none
  else if s.thr.eNext ≠ 0 then some s.thr.eNext
  else (s.instrAt s.thr.apc).map fun x => s.thr.apc + BitVec.ofNat 64 x.2

/-- The E-stream of the thread in focus has an instruction that it may issue (R10). -/
def State.eReady (s : State) : Bool :=
  !s.thr.ePath.isEmpty ||
  match s.aheadPos with
  | none => false
  | some p => match s.fetchAt p with
    | .pad => true
    | .instr _ _ e => e
    | .bad _ _ e => e
    | .stop (.wait _) => true
    | .stop _ => false

/-! ## Restarting the E-stream (R380) -/

/-- Whether code can be fetched at a position, as far as its place, its page and its permissions say (R40). -/
def State.codeOk (s : State) (pos : W64) : Bool :=
  decide (pos.toNat % 4 = 0) && decide (0x1000000 ≤ pos.toNat) && decide (pos.toNat < 2 ^ 56) && (findWindow s.windows pos.toNat).isNone &&
    (s.codeAt pos).any fun x => bitOf x.1 4 && !bitOf x.1 3 && decide (x.1 / 32 % 8 ≠ 3)

/-- The length of the instruction at a position, 8 where nothing can be read. -/
def State.lengthAt (s : State) (pos : W64) : W64 := BitVec.ofNat 64 (lengthOf (lenOf (leNat (((s.codeBytes pos).getD []).take 4))))

/-- What the interrupted path has from `epc` on: at one of its instructions, or at the end of one. -/
def State.pathFrom (s : State) (epc : W64) : List W64 → Option (List W64)
  | [] => none
  | p :: rest => if p = epc then some (p :: rest) else if p + s.lengthAt p = epc then some rest else s.pathFrom epc rest

/-- The E-stream's instructions from a position on, in straight line, until the A-stream's restart position `stop` or one of the interrupted path.
A position where the fetch fails is the last one, where the fetch fault is to be raised (R41). -/
def State.scanPath (s : State) (stop : W64) (path : List W64) : Nat → W64 → List W64
  | 0, _ => []
  | n + 1, pos =>
    if stop ≤ pos then []
    else if path.contains pos then path.dropWhile fun p => decide (p ≠ pos)
    else if !s.codeOk pos then [pos]
    else match s.codeBytes pos with
      | none => [pos]
      | some bs => match decodeAt (pos.toNat % 32) bs with
        | .pad => s.scanPath stop path n (padNext pos)
        | .instr _ len => (if stBit bs then [pos] else []) ++ s.scanPath stop path n (pos + BitVec.ofNat 64 len)
        | .fault e =>
          if fetchCause e.cause then [pos] else (if stBit bs then [pos] else []) ++ s.scanPath stop path n (pos + s.lengthAt pos)

/-- The path that the E-stream restarts on at ctl.epc, and where it goes on ahead of the A-stream (R380, log 14): what the interrupted path has
from there on; else, behind the A-stream, what stands between; else it is ahead. -/
def State.resumePath (s : State) : List W64 × W64 :=
  let t := s.thr
  match s.pathFrom t.epc t.trapPath with
  | some p => (p, 0)
  | none => if t.epc < t.aepc then (s.scanPath t.aepc t.trapPath 4096 t.epc, 0) else ([], if t.epc = t.aepc then 0 else t.epc)

/-- The streams restarted (R380 step 3): after an A-stream trap both at ctl.epc, after one of the E-stream at ctl.epc and ctl.aepc. The path's
instructions are to be fetched again. -/
def State.restart (s : State) : State :=
  if s.thr.aepc = 0 then s.updThr fun t => { t with handler := false, ePath := [], eNext := 0, eWords := [], trapPath := [] }
  else s.updThr fun t => { t with handler := false, ePath := s.resumePath.1, eNext := s.resumePath.2, eWords := [], trapPath := [] }

/-- Where the A-stream restarts. -/
def Thread.restartPos (t : Thread) : W64 := if t.aepc = 0 then t.epc else t.aepc

/-- The oldest instruction of the E-stream's path that is still to be fetched: of a path that a RESUME has restarted. -/
def Thread.unfetched (t : Thread) : Option W64 := t.ePath.find? fun p => (SMap.find t.eWords p.toNat).isNone

/-- The state in which a fetch at a position of the E-stream's path fails: the A-stream stands there (R41, log 38). -/
def State.atPath (s : State) (pos : W64) : State :=
  s.updThr fun t => { t with apc := pos, ePath := [], eNext := 0, eWords := [], waitA := .none }

/-- The fetch fault of an instruction that the E-stream restarts at: the A-stream's trap at that position (R41, log 38). -/
def State.trapPath (s : State) (pos : W64) (i : TrapInfo) : State := (s.atPath pos).takeTrap false i

/-- The E-stream restarted ahead of the A-stream: its position must be one to fetch from (R40). -/
def State.restartCheck (s : State) : Res Unit :=
  if s.thr.aepc = 0 || decide (s.resumePath.2 = 0) then .ok ()
  else match s.fetchAddr s.thr.epc with
    | .ok _ => .ok ()
    | .error (.trap i) => .error (.trapIn (s.restart.atPath s.thr.epc) i)
    | .error (.trapIn s1 i) => .error (.trapIn (s1.restart.atPath s.thr.epc) i)
    | .error e => .error e

end Sys2Proof.Machine
end

