-- ==== Sys2Proof/Machine/Control.lean ====
section
/-! DEFINITION. Control flow (R138 to R140), TRAP, BRK and RESUME (R379, R380), and the control registers (R34 to R36, R156). -/

namespace Sys2Proof.Machine

/-! ## BR (R138) -/

def brBody (fn : Nat) (j : JArgs) (s : State) : Res (State × W64) :=
  if condHolds fn 64 (s.thr.getS j.a).toNat (s.thr.getS j.b).toNat then do
    checkTarget (jumpTarget s.thr.apc j.off)
    .ok (s, jumpTarget s.thr.apc j.off)
  else .ok (s, s.after 8)
def execBr (fn : Nat) (j : JArgs) (s : State) : Out := finishTo s (brBody fn j s)

/-! ## JMP (R139, R140) -/

/-- A jump to a target with its link register, 0 for none: BOUND_WRITE, ADDRESS_RANGE, then the link. -/
def jumpBody (d : Nat) (target : W64) (s : State) : Res (State × W64) := do
  s.thr.checkDest d
  checkTarget target
  let s1 ← s.writeS d (s.after 8)
  .ok (s1, target)

/-- CALLL: the linkage entry is an acquire load of 8 bytes at device scope. -/
def calllBody (j : JArgs) (s : State) : Res (State × W64) := do
  s.thr.checkDest j.d
  let a := readAcc (s.thr.getS j.a).toNat 8
  let t ← s.check s.agent a
  let bs ← s.readTarget s.agent a t
  let target := BitVec.ofNat 64 (leNat bs)
  checkTarget target
  let s1 ← (s.traffic false [t]).writeS j.d (s.after 8)
  .ok (s1, target)

def execJmpJmp (j : JArgs) (s : State) : Out := finishTo s (jumpBody 0 (jumpTarget s.thr.apc j.off) s)
def execJmpCall (j : JArgs) (s : State) : Out := finishTo s (jumpBody j.d (jumpTarget s.thr.apc j.off) s)
def execJmpJmpr (j : JArgs) (s : State) : Out := finishTo s (jumpBody 0 (s.thr.getS j.a) s)
def execJmpCallr (j : JArgs) (s : State) : Out := finishTo s (jumpBody j.d (s.thr.getS j.a) s)
def execJmpCalll (j : JArgs) (s : State) : Out := finishTo s (calllBody j s)
def execJmpRet (j : JArgs) (s : State) : Out := finishTo s (jumpBody 0 (s.thr.getS j.a) s)

/-! ## TRAP (R379) and RESUME (R380) -/

def execTrapTrap (r : RArgs) (s : State) : Out := finishTo s (raiseD .softTrap r.x16)

/-- BRK parks the thread; the report's EPC is the next instruction (R381). -/
def execTrapBrk (r : RArgs) (s : State) : Out :=
  if s.thr.ePath.isEmpty then .next (s.takeTrap false ⟨.breakpoint, 0, r.x16⟩ (some (s.after 8)))
  else finishTo s (waitFor .other)

/-- RESUME: once the replay queue is empty, the streams restart at ctl.epc and ctl.aepc. -/
def resumeBody (s : State) : Res (State × W64) := do
  refuseIf (!s.thr.handler) .handlerOnly
  waitIf (!s.thr.ePath.isEmpty) .other
  let s1 ← s.drain
  s1.restartCheck
  .ok (s1.restart, s1.thr.restartPos)
def execTrapResume (s : State) : Out := finishTo s (resumeBody s)

/-! ## Control registers -/

/-- Who may write a register of R34. -/
inductive Writer where
  | hw | h | t
  deriving DecidableEq, Repr

/-- Width and writer of a control register, none where R34 has no such index. -/
def ctlEntry : Nat → Option (Nat × Writer)
  | 0x000 => some (7, .h)
  | 0x001 => some (64, .h)
  | 0x002 => some (64, .h)
  | 0x003 => some (64, .h)
  | 0x004 => some (64, .h)
  | 0x005 => some (64, .h)
  | 0x006 => some (64, .h)
  | 0x007 => some (64, .h)
  | 0x010 => some (5, .t)
  | 0x011 => some (5, .t)
  | 0x012 => some (3, .t)
  | 0x020 => some (64, .hw)
  | 0x021 => some (12, .hw)
  | 0x022 => some (3, .hw)
  | 0x023 => some (6, .hw)
  | 0x024 => some (12, .hw)
  | 0x025 => some (5, .hw)
  | 0x030 => some (64, .h)
  | 0x031 => some (64, .h)
  | 0x032 => some (32, .h)
  | 0x033 => some (64, .h)
  | 0x040 => some (16, .h)
  | 0x041 => some (5, .h)
  | 0x050 => some (64, .h)
  | 0x051 => some (64, .h)
  | 0x052 => some (64, .h)
  | 0x053 => some (64, .h)
  | 0x060 => some (64, .hw)
  | 0x061 => some (64, .hw)
  | 0x062 => some (64, .hw)
  | 0x063 => some (64, .hw)
  | 0x064 => some (64, .hw)
  | 0x065 => some (64, .hw)
  | 0x066 => some (64, .hw)
  | 0x067 => some (64, .hw)
  | 0x070 => some (12, .hw)
  | _ => none

/-- ctl.launch (R35). -/
def launchFlags : Option Launch → Nat
  | some l => b2n l.det + 2 * b2n l.replay + 4 * (l.prio % 8)
  | none => 0

/-- The value of a control register (R34). -/
def State.ctlRead (s : State) (n : Nat) : W64 :=
  match n with
  | 0x000 => s.thr.cause
  | 0x001 => s.thr.epc
  | 0x002 => s.thr.faddr
  | 0x003 => s.thr.fdetail
  | 0x004 => s.thr.einst
  | 0x005 => s.ctx.trapvec
  | 0x006 => s.thr.hsave
  | 0x007 => s.thr.aepc
  | 0x010 => s.thr.fpflags
  | 0x011 => s.thr.fpen
  | 0x012 => s.thr.rmode
  | 0x020 => s.core.cycle
  | 0x021 => BitVec.ofNat 64 s.vc.id
  | 0x022 => BitVec.ofNat 64 s.thr.id
  | 0x023 => BitVec.ofNat 64 s.ctx.id
  | 0x024 => BitVec.ofNat 64 s.nv
  | 0x025 => BitVec.ofNat 64 (launchFlags s.launchOf)
  | 0x030 => s.ctx.framebase
  | 0x031 => s.ctx.framesize
  | 0x032 => s.ctx.spillsize
  | 0x033 => s.ctx.qtable
  | 0x040 => s.ctx.gather
  | 0x041 => s.ctx.agesh
  | 0x050 => s.vc.mkeys[0]
  | 0x051 => s.vc.mkeys[1]
  | 0x052 => s.vc.mkeys[2]
  | 0x053 => s.vc.mkeys[3]
  | 0x060 => s.core.sent[0]
  | 0x061 => s.core.sent[1]
  | 0x062 => s.core.sent[2]
  | 0x063 => s.core.sent[3]
  | 0x064 => s.core.recv[0]
  | 0x065 => s.core.recv[1]
  | 0x066 => s.core.recv[2]
  | 0x067 => s.core.recv[3]
  | 0x070 => s.enabled
  | _ => 0

/-- A write of a register that software may write: bits above its width are ignored (R36). R36 bounds when a per-context write takes effect in the
context's other threads, at their next firing start: that it does so at once in all of them is a DESIGN CHOICE (log 59). -/
def State.ctlWrite (s : State) (n w : Nat) (x : W64) : State :=
  let y := BitVec.ofNat 64 (x.toNat % 2 ^ w)
  match n with
  | 0x000 => s.updThr fun t => { t with cause := y }
  | 0x001 => s.updThr fun t => { t with epc := y }
  | 0x002 => s.updThr fun t => { t with faddr := y }
  | 0x003 => s.updThr fun t => { t with fdetail := y }
  | 0x004 => s.updThr fun t => { t with einst := y }
  | 0x005 => s.updCtx fun c => { c with trapvec := y }
  | 0x006 => s.updThr fun t => { t with hsave := y }
  | 0x007 => s.updThr fun t => { t with aepc := y }
  | 0x010 => s.updThr fun t => { t with fpflags := y }
  | 0x011 => s.updThr fun t => { t with fpen := y }
  | 0x012 => s.updThr fun t => { t with rmode := y }
  | 0x030 => s.updCtx fun c => { c with framebase := y }
  | 0x031 => s.updCtx fun c => { c with framesize := y }
  | 0x032 => s.updCtx fun c => { c with spillsize := y }
  | 0x033 => s.updCtx fun c => { c with qtable := y }
  | 0x040 => s.updCtx fun c => { c with gather := y }
  | 0x041 => s.updCtx fun c => { c with agesh := y }
  | 0x050 => s.updVc fun v => { v with mkeys := v.mkeys.set 0 y }
  | 0x051 => s.updVc fun v => { v with mkeys := v.mkeys.set 1 y }
  | 0x052 => s.updVc fun v => { v with mkeys := v.mkeys.set 2 y }
  | 0x053 => s.updVc fun v => { v with mkeys := v.mkeys.set 3 y }
  | _ => s

/-- The checks of R36 in their order: the width of the register. -/
def State.ctlCheck (s : State) (writes : Bool) (n : Nat) : Res Nat :=
  match ctlEntry n with
  | none => raiseD .ctlAccess n
  | some (w, wr) =>
    if decide (0x050 ≤ n) && decide (n ≤ 0x053) && !s.thr.handler then raiseD .handlerOnly n
    else if writes && decide (wr = .hw) then raiseD .readonlyReg n
    else if writes && decide (wr = .h) && !s.thr.handler then raiseD .handlerOnly n
    else .ok w

/-- A CTL access (R156): `f` gives the new value from the old one and sA, none for a read. The floating-point registers are ordered behind the
E-stream (R114). -/
def ctlBody (f : Option (W64 → W64 → W64)) (r : RArgs) (s : State) : Res State := do
  let w ← s.ctlCheck f.isSome r.x16
  s.thr.checkDest r.d
  waitIf (decide (0x010 ≤ r.x16) && decide (r.x16 ≤ 0x012) && !s.thr.ePath.isEmpty) .estream
  let old := s.ctlRead r.x16
  match f with
  | none => s.writeS r.d old
  | some g => (s.ctlWrite r.x16 w (g old (s.thr.getS r.a))).writeS r.d old

def execCtlCtlrd (r : RArgs) (s : State) : Out := finishA 8 s (ctlBody none r s)
def execCtlCtlwr (r : RArgs) (s : State) : Out := finishA 8 s (ctlBody (some fun _ x => x) r s)
def execCtlCtlset (r : RArgs) (s : State) : Out := finishA 8 s (ctlBody (some fun o x => o ||| x) r s)
def execCtlCtlclr (r : RArgs) (s : State) : Out := finishA 8 s (ctlBody (some fun o x => o &&& ~~~x) r s)

end Sys2Proof.Machine
end

