-- ==== Sys2Proof/Machine/LoadStore.lean ====
section
/-! DEFINITION. Loads and stores (R141 to R145), the queue memory instructions (R146 to R151) and QOP (R152 to R154). -/

namespace Sys2Proof.Machine

/-! ## LD and ST -/

/-- The size of a load's element, and its extension to 64 bits (R143). -/
def ldSize : Nat → Nat
  | 0 | 1 => 1
  | 2 | 3 => 2
  | 4 | 5 => 4
  | _ => 8
def ldExt (fn x : Nat) : W64 :=
  match fn with
  | 0 => sext64 8 x
  | 2 => sext64 16 x
  | 4 => sext64 32 x
  | _ => BitVec.ofNat 64 x

/-- The access of an LD. -/
def ldAccess (fn : Nat) (m : MArgs) (s : State) : Access := readAcc (s.thr.effAddr m).toNat (ldSize fn)

def ldBody (fn : Nat) (m : MArgs) (s : State) : Res State := do
  s.thr.checkDest m.d
  let a := ldAccess fn m s
  let t ← s.check s.agent a
  let bs ← s.readTarget s.agent a t
  (s.traffic false [t]).writeS m.d (ldExt fn (leNat bs))
def execLd (fn : Nat) (m : MArgs) (s : State) : Out := finishA 8 s (ldBody fn m s)

/-- A release waits for the replay queue and publishes what the thread wrote before (R142). -/
def State.orderRel (s : State) (ord : Nat) : Res State := if ord = 2 || ord = 3 then s.drain else .ok s

/-- The access of an ST, and its bytes (R144). -/
def stAccess (fn : Nat) (m : MArgs) (s : State) : Access := writeAcc (s.thr.effAddr m).toNat (2 ^ fn)
def stBytes (fn : Nat) (m : MArgs) (s : State) : List Byte := leBytes (2 ^ fn) ((s.thr.getS m.d).toNat % 2 ^ (8 * 2 ^ fn))

def stBody (fn : Nat) (m : MArgs) (s : State) : Res State := do
  let s1 ← s.orderRel m.ord
  s1.storeGroup s1.agent [(stAccess fn m s, stBytes fn m s)]
def execSt (fn : Nat) (m : MArgs) (s : State) : Out := finishA 8 s (stBody fn m s)

/-! ## Queue memory instructions -/

/-- The size of a queue load's element, and its extension to a lane (R147). -/
def qSize : Nat → Nat
  | 0 | 1 => 1
  | 2 | 3 => 2
  | _ => 4
def qExt (fn x : Nat) : W32 :=
  match fn with
  | 0 => BitVec.signExtend 32 (BitVec.ofNat 8 x)
  | 2 => BitVec.signExtend 32 (BitVec.ofNat 16 x)
  | _ => BitVec.ofNat 32 x

/-- The active lanes of a mask, in ascending order. -/
def activeLanes (mask : W32) : List Nat := (List.range 32).filter (laneOn mask)

/-- The address of lane i with a stride (R147, R148). -/
def strideAddr (m : MArgs) (size : Nat) (t : Thread) (i : Nat) : W64 :=
  t.getS m.a + sext64 20 m.off + BitVec.ofNat 64 i * (if m.b = 0 then BitVec.ofNat 64 size else t.getS m.b <<< m.sc)

/-- The address of lane i through an index (R149, R150). -/
def indexAddr (m : MArgs) (t : Thread) (x : Lanes) (i : Nat) : W64 :=
  t.getS m.a + (BitVec.signExtend 64 (x.lane i) <<< m.sc) + sext64 20 m.off

/-- The lanes of a load: the values that the active lanes read, zero in the others. -/
def scatterLanes (lanes : List Nat) (vals : List W32) : Lanes :=
  Lanes.make fun i => ((lanes.zip vals).find? fun x => decide (x.1 = i)).elim 0 Prod.snd

/-- The loads of a queue load's active lanes: every lane is checked before one is read (R151). -/
def State.laneLoads (s : State) (fn : Nat) (who : Nat → Who) (lanes : List Nat) (addr : Nat → W64) : Res (Lanes × List Target) := do
  let as := lanes.map fun i => readAcc (addr i).toNat (qSize fn) (who i)
  let ts ← s.checkAll s.agent as
  let xs ← s.readAll s.agent as ts
  .ok (scatterLanes lanes (xs.map (qExt fn)), ts)

/-- A push of what a queue load has read: where the queue is full the instruction waits with it, its checks and reads done (R10, R146). -/
def State.pushRead (s : State) (q : Nat) (e : QEntry) (ts : List Target) : Res State :=
  let s1 := s.traffic false ts
  if 16 ≤ (s.thr.getQ q).length then .error (.waitIn s1 (.held q e)) else .ok (s1.updThr fun t => t.pushQ q e)

/-- The same after a wait. -/
def State.pushHeld (s : State) (q : Nat) (e : QEntry) : Res State := do
  waitIf (decide (16 ≤ (s.thr.getQ q).length)) (.held q e)
  .ok (s.updThr fun t => t.pushQ q e)

def vlqBody (fn : Nat) (m : MArgs) (s : State) : Res State :=
  match s.thr.waitA with
  | .held q e => s.pushHeld q e
  | _ => do
    let (x, ts) ← s.laneLoads fn .anyLane (List.range 32) (strideAddr m (qSize fn) s.thr)
    s.pushRead m.d { lanes := x, mask := BitVec.allOnes 32, ready := false } ts
def execVlq (fn : Nat) (m : MArgs) (s : State) : Out := finishA 8 s (vlqBody fn m s)

/-- The index entry of a GATHQ is popped with its push. -/
def gathqBody (fn : Nat) (m : MArgs) (s : State) : Res State := do
  let (x, t1) ← s.thr.popFirst m.b
  let s1 ← (match s.thr.waitA with
    | .held q e => s.pushHeld q e
    | _ => do
      let (y, ts) ← s.laneLoads fn .lane (activeLanes x.mask) (indexAddr m s.thr x.lanes)
      s.pushRead m.d { lanes := y, mask := x.mask, ready := false } ts : Res State)
  .ok (s1.updThr fun t => t.setQ m.b (t1.getQ m.b))
def execGathq (fn : Nat) (m : MArgs) (s : State) : Out := finishA 8 s (gathqBody fn m s)

/-- The accesses of a queue store's active lanes, with their bytes. -/
def laneStores (size : Nat) (lanes : List Nat) (addr : Nat → W64) (d : Lanes) : List (Access × List Byte) :=
  let cover := lanes.map fun i => ((addr i).toNat, size)
  lanes.map fun i =>
    ({ writeAcc (addr i).toNat size (.lane i) with cover := cover }, leBytes size ((d.lane i).toNat % 2 ^ (8 * size)))

def vsqBody (m : MArgs) (s : State) : Res State := do
  let (e, t1) ← s.thr.popFirst m.d
  let s1 ← s.orderRel m.ord
  let s2 ← s1.storeGroup s1.agent (laneStores (2 ^ m.sz) (activeLanes e.mask) (strideAddr m (2 ^ m.sz) s.thr) e.lanes)
  .ok (s2.updThr fun t => t.setQ m.d (t1.getQ m.d))
def execVsq (_ : Nat) (m : MArgs) (s : State) : Out := finishA 8 s (vsqBody m s)

def scatqBody (m : MArgs) (s : State) : Res State := do
  let (x, t1) ← s.thr.popFirst m.b
  let (d, t2) ← t1.popFirst m.d
  let s1 ← s.orderRel m.ord
  let s2 ← s1.storeGroup s1.agent (laneStores (2 ^ m.sz) (activeLanes (x.mask &&& d.mask)) (indexAddr m s.thr x.lanes) d.lanes)
  .ok (s2.updThr fun t => (t.setQ m.b (t2.getQ m.b)).setQ m.d (t2.getQ m.d))
def execScatq (_ : Nat) (m : MArgs) (s : State) : Out := finishA 8 s (scatqBody m s)

/-! ## QOP -/

/-- The lanes of QPUSHS (R152). -/
def qpushsLanes (ty : Nat) (x : W64) : Lanes :=
  Lanes.make fun i => BitVec.ofNat 32 (if ty = 0 && decide (i % 2 = 1) then x.toNat / 2 ^ 32 else x.toNat)

/-- The value of QPOPS (R152). -/
def qpopsVal (ty : Nat) (x : Lanes) : W64 :=
  if ty = 0 then BitVec.ofNat 64 ((x.lane 0).toNat + 2 ^ 32 * (x.lane 1).toNat) else BitVec.signExtend 64 (x.lane 0)

def qpushsBody (r : RArgs) (s : State) : Res State := do
  s.thr.roomQ r.d
  .ok (s.updThr fun t => t.pushQ r.d { lanes := qpushsLanes r.ty (t.getS r.a), mask := BitVec.allOnes 32, ready := true })
def execQopQpushs (r : RArgs) (s : State) : Out := finishA 8 s (qpushsBody r s)

def qpopsBody (r : RArgs) (s : State) : Res State := do
  s.thr.checkDest r.d
  let (e, t1) ← (if s.thr.mayOverflow r.d then s.thr.popFirst r.a else s.thr.popQ r.a)
  (s.setThr t1).writeS r.d (qpopsVal r.ty e.lanes)
def execQopQpops (r : RArgs) (s : State) : Out := finishA 8 s (qpopsBody r s)

def qcntVal (r : RArgs) (s : State) : W64 := BitVec.ofNat 64 (s.thr.getQ r.a).length
def execQopQcnt (r : RArgs) (s : State) : Out := finishA 8 s (scalarOp r.d (qcntVal r) s)

def xsyncBody (s : State) : Res State := do
  waitIf (!s.thr.ePath.isEmpty) .estream
  .ok s
def execQopXsync (_ : RArgs) (s : State) : Out := finishA 8 s (xsyncBody s)

end Sys2Proof.Machine
end

