-- ==== Sys2Proof/Machine/Bind.lean ====
section
/-! DEFINITION. BIND, BINDE and LINK (R169 to R173) and their E-stream counterparts (R174). -/

namespace Sys2Proof.Machine

/-- Whether an 8-byte instruction is VBIND, VBINDE or VLINK. -/
def isSlotOpE (inst : Nat) : Bool :=
  decide (inst % 4 = 0) && bitOf inst 2 && decide (24 ≤ inst / 8 % 128) && decide (inst / 8 % 128 ≤ 26)

/-- R167: an A-stream slot operation waits for the older E-stream slot operations. -/
def State.slotWait (s : State) : Res Unit := waitIf (s.thr.ePath.any fun a => isSlotOpE (s.einstAt a)) .other

/-- LINK_STREAM: the slot holds a link of the other kind (R167, R170). -/
def Thread.checkStream (t : Thread) (ek : Bool) (slot : Nat) : Res Unit :=
  match t.getL slot with
  | some l => refuseIfD (decide (l.ek ≠ ek)) .linkStream slot
  | none => .ok ()

/-- LINK_OPERAND of R170, R171 and R174. -/
def Link.badOperand (l : Link) : Bool :=
  (!l.ek && decide (l.d = 0)) ||
  (l.edge && ((!l.ek && decide (l.a = 0)) || decide (l.a = l.d) || (decide (l.opb = l.d) && decide (l.opb ≠ 0))))

/-- The faults of R170 up to BIND_CYCLE, in their order, and the thread with the link installed. -/
def Thread.install (t : Thread) (slot : Nat) (l : Link) : Res Thread := do
  t.checkStream l.ek slot
  refuseIfD l.badOperand .linkOperand slot
  match t.otherDest l.ek slot l.d with
  | some n => raiseD .boundWrite n
  | none => .ok ()
  let t1 := t.setL slot (some l)
  refuseIfD (hasCycle (t1.links l.ek)) .bindCycle slot
  .ok t1

/-- The first evaluation of an A-kind level link and its settle (R170). -/
def Thread.firstA (t : Thread) (slot : Nat) (l : Link) : Res Thread :=
  let r := levelFn 64 l.op l.sh (t.getS l.a) (l.opB t) (t.getS l.c)
  if l.ck && r.2 then raiseD .linkOverflow slot else (t.setS l.d r.1).settleA [l.d]

/-- The same of an E-kind level link, in all 32 lanes (R174). -/
def Thread.firstE (t : Thread) (slot : Nat) (l : Link) : Res Thread :=
  match l.evalE t (l.reads.map fun r => (r, BitVec.allOnes 32)) with
  | none => .ok t
  | some (x, _, ovf) =>
    if l.ck && decide (ovf ≠ 0) then raiseD .linkOverflow (slot + 2 ^ 32 * ovf.toNat)
    else (t.setV l.d x).settleE [(l.d, BitVec.allOnes 32)]

/-- SLOT, CK and SH of X16 (R169). -/
def slotOf (r : RArgs) : Nat := r.x16 % 32
def ckOf (r : RArgs) : Bool := bitOf r.x16 5
def shOf (r : RArgs) : Nat := r.x16 / 64 % 64

/-- The link that a BIND, a BINDE or their counterpart makes. -/
def levelLink (ek : Bool) (fn : Nat) (r : RArgs) : Link :=
  { ek := ek, edge := false, imm := false, ck := ckOf r, op := fn, d := r.d, a := r.a, c := r.c, sh := shOf r, opb := r.b }
def immLink (fn : Nat) (x : XArgs) : Link := { levelLink false fn x.r with imm := true, opb := x.ext }
def edgeLink (ek : Bool) (fn : Nat) (r : RArgs) : Link :=
  { ek := ek, edge := true, imm := false, ck := ckOf r, op := fn, d := r.d, a := r.a, c := 0, sh := 0, opb := r.b }

def bindBody (l : Link) (slot : Nat) (s : State) : Res State := do
  s.slotWait
  let t1 ← s.thr.install slot l
  let t2 ← t1.firstA slot l
  .ok (s.setThr t2)
def execBind (fn : Nat) (r : RArgs) (s : State) : Out := finishA 8 s (bindBody (levelLink false fn r) (slotOf r) s)
def execBindImm (fn : Nat) (x : XArgs) (s : State) : Out := finishA 12 s (bindBody (immLink fn x) (slotOf x.r) s)

def bindeBody (fn : Nat) (r : RArgs) (s : State) : Res State := do
  s.slotWait
  let t1 ← s.thr.install (slotOf r) (edgeLink false fn r)
  .ok (s.setThr t1)
def execBinde (fn : Nat) (r : RArgs) (s : State) : Out := finishA 8 s (bindeBody fn r s)

/-! ## LINK (R172) -/

/-- Every slot that holds a link of a kind emptied. -/
def Thread.unbindAll (t : Thread) (ek : Bool) : Thread :=
  { t with l := t.l.map fun x => match x with | some l => if l.ek = ek then none else some l | none => none }

def unbindBody (r : RArgs) (s : State) : Res State := do
  s.slotWait
  s.thr.checkStream false (slotOf r)
  .ok (s.updThr fun t => t.setL (slotOf r) none)
def execLinkUnbind (r : RArgs) (s : State) : Out := finishA 8 s (unbindBody r s)

def unbindallBody (s : State) : Res State := do
  s.slotWait
  .ok (s.updThr fun t => t.unbindAll false)
def execLinkUnbindall (_ : RArgs) (s : State) : Out := finishA 8 s (unbindallBody s)

def linkrdVal (r : RArgs) (s : State) : W64 := BitVec.ofNat 64 (linkDescr (s.thr.getL (slotOf r)))
def linkstatVal (s : State) : W64 := BitVec.ofNat 64 (s.thr.slotMask false + 2 ^ 32 * s.thr.slotMask true)

/-- A scalar read of the slot table. -/
def slotRead (d : Nat) (x : State → W64) (s : State) : Res State := do
  s.slotWait
  scalarOp d x s
def execLinkLinkrd (r : RArgs) (s : State) : Out := finishA 8 s (slotRead r.d (linkrdVal r) s)
def execLinkLinkstat (r : RArgs) (s : State) : Out := finishA 8 s (slotRead r.d linkstatVal s)

/-! ## VBIND, VBINDE and VLINK (R174) -/

def vbindBody (fn : Nat) (r : RArgs) (s : State) : Res State := do
  let t1 ← s.thr.install (slotOf r) (levelLink true fn r)
  let t2 ← t1.firstE (slotOf r) (levelLink true fn r)
  .ok (s.setThr t2)
def execVbind (fn : Nat) (r : RArgs) (s : State) : Out := finishE 8 s (vbindBody fn r s)

def vbindeBody (fn : Nat) (r : RArgs) (s : State) : Res State := do
  let t1 ← s.thr.install (slotOf r) (edgeLink true fn r)
  .ok (s.setThr t1)
def execVbinde (fn : Nat) (r : RArgs) (s : State) : Out := finishE 8 s (vbindeBody fn r s)

def vunbindBody (r : RArgs) (s : State) : Res State := do
  s.thr.checkStream true (slotOf r)
  .ok (s.updThr fun t => t.setL (slotOf r) none)
def execVlinkUnbind (r : RArgs) (s : State) : Out := finishE 8 s (vunbindBody r s)

def execVlinkUnbindall (_ : RArgs) (s : State) : Out := finishE 8 s (.ok (s.updThr fun t => t.unbindAll true))

/-- A 64-bit value in lanes 0 and 1 (R174). -/
def wideLanes (x : W64) : Lanes :=
  Lanes.make fun i => if i = 0 then x.setWidth 32 else if i = 1 then (x >>> 32).setWidth 32 else 0

/-- An E-stream instruction that writes all lanes of vD with its settle. -/
def vectorWrite (d : Nat) (x : Lanes) (s : State) : Res State := do
  s.thr.checkDestV d
  let t ← s.thr.writeV d (BitVec.allOnes 32) x
  .ok (s.setThr t)

def execVlinkLinkrd (r : RArgs) (s : State) : Out := finishE 8 s (vectorWrite r.d (wideLanes (linkrdVal r s)) s)
def execVlinkLinkstat (r : RArgs) (s : State) : Out := finishE 8 s (vectorWrite r.d (wideLanes (linkstatVal s)) s)

end Sys2Proof.Machine
end

