-- ==== Sys2Proof/Machine/Sync.lean ====
section
/-! DEFINITION. Atomics (R276 to R279), fences, waits and tokens (R280 to R283), holdings (R284 to R288) and FREEB (R302). -/

namespace Sys2Proof.Machine

/-! ## ATOM and CAS -/

/-- The functions of R277 at width w. -/
def atomFn (w fn old b : Nat) : Nat :=
  match fn with
  | 0 => (old + b) % 2 ^ w
  | 1 => Nat.land old b
  | 2 => Nat.lor old b
  | 3 => Nat.xor old b
  | 4 => if toSigned w old ≤ toSigned w b then old else b
  | 5 => if toSigned w old ≤ toSigned w b then b else old
  | 6 => min old b
  | 7 => max old b
  | _ => b

/-- LINK_OPERAND of R162: a link with CK set has the register as its source, trigger or gate. -/
def Thread.checkCk (t : Thread) (d : Nat) : Res Unit :=
  match (t.links false).find? fun x => x.2.ck && x.2.reads.contains d with
  | some x => raiseD .linkOperand x.1
  | none => .ok ()

/-- An indivisible update of one aligned word: the access is checked, the thread's earlier stores are performed, `new` gives the word
that is written, if one is (R276). The old word, and the state. -/
def State.update (s : State) (a : Access) (ord : Nat) (new : Nat → Option Nat) : Res (Nat × State) := do
  let t ← s.check s.agent a
  let s1 ← (if ord = 2 || ord = 3 then s.drain else .ok s.flush : Res State)
  let bs ← s1.readTarget s1.agent a t
  let old := leNat bs
  match new old, t with
  | some x, .mem pa => do
    let s2 ← s1.writeNow a.va pa (leBytes a.size x)
    .ok (old, s2.traffic true [t])
  | _, _ => .ok (old, s1.traffic false [t])

/-- ORD of X16 (R48). -/
def xOrd (r : RArgs) : Nat := r.x16 % 8

/-- The access of an ATOM or CAS. -/
def atomAccess (fn : Nat) (r : RArgs) (s : State) : Access :=
  atomicAcc (s.thr.getS r.a).toNat 8 (decide (r.d ≠ 0) || decide (fn = 8))

def atomBody (fn : Nat) (r : RArgs) (s : State) : Res State := do
  let _ ← (if r.d ≠ 0 then s.thr.checkCk r.d else .ok () : Res Unit)
  s.thr.checkDest r.d
  let (old, s1) ← s.update (atomAccess fn r s) (xOrd r) fun old => some (atomFn 64 fn old (s.thr.getS r.b).toNat)
  s1.writeS r.d (BitVec.ofNat 64 old)
def execAtomAdd (r : RArgs) (s : State) : Out := finishA 8 s (atomBody 0 r s)
def execAtomAnd (r : RArgs) (s : State) : Out := finishA 8 s (atomBody 1 r s)
def execAtomOr (r : RArgs) (s : State) : Out := finishA 8 s (atomBody 2 r s)
def execAtomXor (r : RArgs) (s : State) : Out := finishA 8 s (atomBody 3 r s)
def execAtomMin (r : RArgs) (s : State) : Out := finishA 8 s (atomBody 4 r s)
def execAtomMax (r : RArgs) (s : State) : Out := finishA 8 s (atomBody 5 r s)
def execAtomMinn (r : RArgs) (s : State) : Out := finishA 8 s (atomBody 6 r s)
def execAtomMaxn (r : RArgs) (s : State) : Out := finishA 8 s (atomBody 7 r s)
def execAtomSwap (r : RArgs) (s : State) : Out := finishA 8 s (atomBody 8 r s)

def casAccess (r : RArgs) (s : State) : Access := atomicAcc (s.thr.getS r.a).toNat 8 true
def casBody (r : RArgs) (s : State) : Res State := do
  s.thr.checkCk r.d
  s.thr.checkDest r.d
  let (old, s1) ← s.update (casAccess r s) (xOrd r) fun old =>
    if old = (s.thr.getS r.b).toNat then some (s.thr.getS r.c).toNat else none
  s1.writeS r.d (BitVec.ofNat 64 old)
def execCas (r : RArgs) (s : State) : Out := finishA 8 s (casBody r s)

/-! ## ATOMQ (R279) -/

/-- The accesses of the active lanes. -/
def atomqAccesses (m : MArgs) (t : Thread) (x : Lanes) (lanes : List Nat) : List Access :=
  lanes.map fun i => atomicAcc (indexAddr m t x i).toNat 4 false (.lane i)

/-- The updates, lane by lane in ascending order: the lanes of one word combine. -/
def atomqApply (fn : Nat) (d : Lanes) : List (Nat × Nat × Target) → State → State
  | [], s => s
  | (i, _, .mem pa) :: rest, s =>
    atomqApply fn d rest (s.writePhys pa (leBytes 4 (atomFn 32 fn (leNat (s.busRead pa 4)) (d.lane i).toNat)))
  | _ :: rest, s => atomqApply fn d rest s

def atomqBody (fn : Nat) (m : MArgs) (s : State) : Res State := do
  let (x, t1) ← s.thr.popFirst m.b
  let (d, t2) ← t1.popFirst m.d
  let lanes := activeLanes (x.mask &&& d.mask)
  let as := atomqAccesses m s.thr x.lanes lanes
  let ts ← s.checkAll s.agent as
  let s1 ← (if m.ord = 2 then s.drain else .ok s.flush : Res State)
  let _ ← s1.readAll s1.agent as ts
  let s2 := atomqApply fn d.lanes (lanes.zip ((as.map Access.va).zip ts)) s1
  .ok ((s2.traffic true ts).updThr fun t => (t.setQ m.b (t2.getQ m.b)).setQ m.d (t2.getQ m.d))
def execAtomqAdd (m : MArgs) (s : State) : Out := finishA 8 s (atomqBody 0 m s)
def execAtomqAnd (m : MArgs) (s : State) : Out := finishA 8 s (atomqBody 1 m s)
def execAtomqOr (m : MArgs) (s : State) : Out := finishA 8 s (atomqBody 2 m s)
def execAtomqXor (m : MArgs) (s : State) : Out := finishA 8 s (atomqBody 3 m s)
def execAtomqMin (m : MArgs) (s : State) : Out := finishA 8 s (atomqBody 4 m s)
def execAtomqMax (m : MArgs) (s : State) : Out := finishA 8 s (atomqBody 5 m s)
def execAtomqMinn (m : MArgs) (s : State) : Out := finishA 8 s (atomqBody 6 m s)
def execAtomqMaxn (m : MArgs) (s : State) : Out := finishA 8 s (atomqBody 7 m s)

/-! ## FENCE (R257, R280) -/

/-- Every earlier load of the A-stream is complete when it has issued, so an acquire fence only waits for those of the E-stream. -/
def fenceAcqBody (s : State) : Res State := do
  s.pathWait isEmuLoad
  .ok s
def execFenceAcq (_ : RArgs) (s : State) : Out := finishA 8 s (fenceAcqBody s)
def execFenceRel (_ : RArgs) (s : State) : Out := finishA 8 s s.drain
/-- A performed write is visible to every agent at once (log 8). -/
def execFenceFull (_ : RArgs) (s : State) : Out := finishA 8 s (do
  let s1 ← s.drain
  .ok s1)

/-! ## WAITW (R264, R281) -/

/-- The conditions of WAITW. -/
def waitwHolds (fn : Nat) (x b : W64) : Bool :=
  match fn with
  | 0 => decide (x = b)
  | 1 => decide (x ≠ b)
  | _ => decide (b.toNat ≤ x.toNat)

/-- The agent of a WAITW's read: asleep, the thread reads again by a walk of its own. -/
def State.waitwAgent (s : State) : Agent := { s.agent with tlb := decide (s.thr.waitA ≠ .word) }

/-- The state that a WAITW asleep reads in: it has passed the watchpoints. -/
def State.asleep (s : State) : State := s.updThr fun t => { t with watchPass := [0, 1, 2, 3] }

/-- The access of a WAITW. -/
def waitwAccess (r : RArgs) (s : State) : Access := readAcc (s.thr.getS r.a).toNat 8

/-- The read of a WAITW. -/
def waitwRead (r : RArgs) (s : State) : Res (W64 × Target) := do
  let t ← s.check s.waitwAgent (waitwAccess r s)
  let bs ← s.readTarget s.waitwAgent (waitwAccess r s) t
  .ok (BitVec.ofNat 64 (leNat bs), t)

/-- Asleep, a WAITW has cleared its checks (R10), unless the write of its register can overflow a link. -/
def waitwBody (fn : Nat) (r : RArgs) (s : State) : Res State := do
  s.thr.checkDest r.d
  let (x, t) ← waitwRead r s
  waitIf (!waitwHolds fn x (s.thr.getS r.b)) (if s.thr.mayOverflow r.d then .other else .word)
  (s.traffic false [t]).writeS r.d x
def execWaitw (fn : Nat) (r : RArgs) (s : State) : Out := finishA 8 s (waitwBody fn r s)

/-! ## Tokens (R282, R283) -/

/-- The tokens that a mask names, in ascending order. -/
def namedTokens (mask : Nat) : List Nat := (List.range 8).filter (bitOf mask)

/-- A wait for tokens: all at COUNT 0, then the error of the lowest one that has one. -/
def Thread.waitTokens (t : Thread) (mask : Nat) : Res Unit := do
  waitIf ((namedTokens mask).any fun k => decide ((t.getK k).count ≠ 0)) .other
  match (namedTokens mask).find? fun k => (t.getK k).err with
  | some k => raiseA .tokenError (t.getK k).addr (k + 256 * (t.getK k).cause)
  | none => .ok ()

def waitkMask (r : RArgs) : Nat := r.x16 % 256

def waitkBody (r : RArgs) (s : State) : Res State := do
  s.thr.waitTokens (waitkMask r)
  .ok s
def execWaitkWait (r : RArgs) (s : State) : Out := finishA 8 s (waitkBody r s)

/-- The result of WAITK.TEST. -/
def testVal (r : RArgs) (s : State) : W64 :=
  let ns := namedTokens (waitkMask r)
  let busy := (ns.map fun k => if (s.thr.getK k).count ≠ 0 then 2 ^ k else 0).sum
  let err := (ns.map fun k => if (s.thr.getK k).err then 2 ^ k else 0).sum
  let cause := ((ns.find? fun k => (s.thr.getK k).err).map fun k => (s.thr.getK k).cause).getD 0
  BitVec.ofNat 64 (busy + 2 ^ 8 * err + 2 ^ 16 * cause)
def execWaitkTest (r : RArgs) (s : State) : Out := finishA 8 s (scalarOp r.d (testVal r) s)

/-- ERR, CAUSE and ADDR of the named tokens cleared. -/
def Thread.clearErr (t : Thread) (mask : Nat) : Thread :=
  (namedTokens mask).foldl (fun t k => t.setK k { Token.zero with count := (t.getK k).count }) t
def execWaitkClearerr (r : RArgs) (s : State) : Out :=
  finishA 8 s (.ok (s.updThr fun t => t.clearErr (waitkMask r)))

/-! ## HOLD (R284 to R288) -/

/-- The holding that sA names. -/
def State.holdIndex (s : State) (r : RArgs) : Res (Nat × Holding) :=
  let h := (s.thr.getS r.a).toNat
  if 4096 ≤ h then raise .holdingInvalid
  else match SMap.find s.ctx.holdings h with
    | some x => .ok (h, x)
    | none => raise .holdingInvalid

/-- An agent code that names a virtual core or a host node of the context (R274, R285). -/
def Ctx.agentValid (c : Ctx) (code : Nat) : Bool :=
  decide (code < 2 ^ 18) &&
  ((decide (code / 2 ^ 16 = 0) && decide (code < c.nmax)) || (decide (code / 2 ^ 16 = 2) && c.hosts.contains (code % 2 ^ 16)))

/-- A holding of the context replaced. -/
def State.setHolding (s : State) (h : Nat) (x : Holding) : State :=
  s.updCtx fun c => { c with holdings := SMap.put c.holdings h x }

/-- A message of the handover class sent before place `seq` from one agent to another is still in flight: the later one waits for it (R24). -/
def Ctx.classBusy (c : Ctx) (src dst seq : Nat) : Bool :=
  (c.handovers.any fun h => decide (h.sender = src) && decide (h.dest = dst) && decide (h.seq < seq)) ||
  (c.freeMsgs.any fun m => decide (m.member = src) && decide (m.sender = dst) && decide (m.seq < seq))

def handBody (r : RArgs) (s : State) : Res State := do
  refuseIf s.thr.restartable .frameWindow
  let (h, x) ← s.holdIndex r
  let dest := (s.thr.getS r.b).toNat
  refuseIf (!x.heldBy s.vc.id || !s.ctx.agentValid dest) .handInvalid
  let s1 ← s.drain
  let s2 := (s1.setHolding h { x with inflight := some dest }).updCtx fun c =>
    { c with handovers := c.handovers ++ [{ sender := s.vc.id, holding := h, dest := dest, seq := s1.nextId }] }
  .ok ({ s2 with nextId := s1.nextId + 1 }.sentMsg 3)
def execHoldHand (r : RArgs) (s : State) : Out := finishA 8 s (handBody r s)

def takeBody (r : RArgs) (s : State) : Res State := do
  let (_, x) ← s.holdIndex r
  waitIf (!x.heldBy s.vc.id) .take
  .ok s
def execHoldTake (r : RArgs) (s : State) : Out := finishA 8 s (takeBody r s)

/-- The result of HOLDQ (R287). -/
def holdqVal (x : Holding) : W64 :=
  let none3 := !(decide (x.cls = .exclusive) || decide (x.cls = .localOnly)) || x.inflight.isSome
  BitVec.ofNat 64 ((if none3 then 0x30000 else x.holder) + 2 ^ 62 * b2n (decide (x.cls = .sealed)) + 2 ^ 63 * b2n x.inflight.isSome)
def holdqBody (r : RArgs) (s : State) : Res State := do
  s.thr.checkDest r.d
  let (_, x) ← s.holdIndex r
  refuseIf s.det .nondetOp
  s.writeS r.d (holdqVal x)
def execHoldHoldq (r : RArgs) (s : State) : Out := finishA 8 s (holdqBody r s)

/-- The names of the threads of the context in focus. -/
def State.ctxTids (s : State) : List Tid :=
  (s.sync.ctx.vcores.map fun v => v.2.threads.map fun t => ({ ctx := s.ctx.id, vc := v.1, th := t.1 } : Tid)).flatten

/-- Every store of the context that passed its checks performed, each thread's in program order (R288). -/
def State.flushCtx (s : State) : State :=
  (s.ctxTids.foldl (fun s t => (s.focus t).flush) s).focus s.tid

def sealBody (r : RArgs) (s : State) : Res State := do
  refuseIf s.thr.restartable .frameWindow
  let (h, x) ← s.holdIndex r
  if x.cls = .sealed then .ok s
  else do
    refuseIf (x.inflight.isSome || !(x.heldBy s.vc.id || decide (x.cls = .common))) .handInvalid
    let s1 ← s.drain
    .ok (s1.flushCtx.setHolding h { x with cls := .sealed })
def execHoldSeal (r : RArgs) (s : State) : Out := finishA 8 s (sealBody r s)

/-! ## FREEB (R302) -/

/-- The oldest pending free of a key removed. -/
def takeFree (key : Nat) : List PendingFree → Option (PendingFree × List PendingFree)
  | [] => none
  | f :: rest => if f.key = key then some (f, rest) else (takeFree key rest).map fun x => (x.1, f :: x.2)

/-- FREEB waits first, and then takes the oldest pending free of its key. -/
def freebBody (r : RArgs) (s : State) : Res State := do
  let s1 ← s.performed
  match takeFree (s.thr.getS r.a).toNat s1.vc.frees with
  | none => raise .multicastGroup
  | some (f, rest) =>
    let s2 := (s1.updVc fun v => { v with frees := rest }).updCtx fun c =>
      { c with freeMsgs := c.freeMsgs ++ [{ sender := f.sender, order := f.order, member := s.vc.id, seq := s1.nextId }] }
    .ok ({ s2 with nextId := s1.nextId + 1 }.sentMsg 3)
def execFreeb (r : RArgs) (s : State) : Out := finishA 8 s (freebBody r s)

end Sys2Proof.Machine
end

