-- ==== Sys2Proof/Machine/VectorInt.lean ====
section
/-! DEFINITION. The integer, mask, permutation and move majors of the E-stream (R183 to R185, R190, R196, R197, R199). -/

namespace Sys2Proof.Machine

/-! ## Shapes -/

/-- A mask from a function of the lane. -/
def maskOf (f : Nat → Bool) : W32 := BitVec.ofFnLE fun i : Fin 32 => f i.val

/-- An E-stream instruction that computes each active lane from its operands and raises no flag (R176, R180). -/
def laneOp (r : RArgs) (f : VOps → Nat → W32) (s : State) : Res State := do
  s.thr.checkDestV r.d
  let o ← s.thr.vOps r
  let t ← o.thr.writeV r.d o.act (Lanes.make (f o))
  .ok (s.setThr t)

/-- An E-stream instruction that writes the whole of a mask register from its active lanes (R185). -/
def maskOp (r : RArgs) (f : VOps → Nat → Bool) (s : State) : Res State := do
  let o ← s.thr.vOps r
  .ok (s.setThr (o.thr.setM r.d (maskOf fun i => laneOn o.act i && f o i)))

/-! ## VIALU (R183, R190) -/

/-- The functions of R183 on elements of width w. -/
def vialuFn : Nat → Nat → Nat → Nat → Int
  | 0 => aluAdd
  | 1 => aluSub
  | 2 => aluAnd
  | 3 => aluOr
  | 4 => aluXor
  | 5 => aluAndn
  | 6 => aluShl
  | 7 => aluShr
  | 8 => aluSar
  | 9 => aluMin
  | 10 => aluMax
  | 11 => aluMinn
  | 12 => aluMaxn
  | 13 => aluAddsat
  | _ => aluSubsat

/-- An element function applied to a lane. -/
def elems2 (ty : Nat) (f : Nat → Nat → Nat → Int) (a b : W32) : W32 :=
  let w := intWidth ty
  mapElems2 w (fun x y => wrapNat w (f w x y)) a b

def vialuLane (f : Nat → Nat → Nat → Int) (r : RArgs) (o : VOps) (i : Nat) : W32 := elems2 r.ty f (o.a.lane i) (o.b.lane i)
def vialuImmLane (fn : Nat) (x : XArgs) (o : VOps) (i : Nat) : W32 := elems2 x.r.ty (vialuFn fn) (o.a.lane i) (BitVec.ofNat 32 x.ext)

def execVialuAdd (r : RArgs) (s : State) : Out := finishE 8 s (laneOp r (vialuLane aluAdd r) s)
def execVialuSub (r : RArgs) (s : State) : Out := finishE 8 s (laneOp r (vialuLane aluSub r) s)
def execVialuAnd (r : RArgs) (s : State) : Out := finishE 8 s (laneOp r (vialuLane aluAnd r) s)
def execVialuOr (r : RArgs) (s : State) : Out := finishE 8 s (laneOp r (vialuLane aluOr r) s)
def execVialuXor (r : RArgs) (s : State) : Out := finishE 8 s (laneOp r (vialuLane aluXor r) s)
def execVialuAndn (r : RArgs) (s : State) : Out := finishE 8 s (laneOp r (vialuLane aluAndn r) s)
def execVialuShl (r : RArgs) (s : State) : Out := finishE 8 s (laneOp r (vialuLane aluShl r) s)
def execVialuShr (r : RArgs) (s : State) : Out := finishE 8 s (laneOp r (vialuLane aluShr r) s)
def execVialuSar (r : RArgs) (s : State) : Out := finishE 8 s (laneOp r (vialuLane aluSar r) s)
def execVialuMin (r : RArgs) (s : State) : Out := finishE 8 s (laneOp r (vialuLane aluMin r) s)
def execVialuMax (r : RArgs) (s : State) : Out := finishE 8 s (laneOp r (vialuLane aluMax r) s)
def execVialuMinn (r : RArgs) (s : State) : Out := finishE 8 s (laneOp r (vialuLane aluMinn r) s)
def execVialuMaxn (r : RArgs) (s : State) : Out := finishE 8 s (laneOp r (vialuLane aluMaxn r) s)
def execVialuAddsat (r : RArgs) (s : State) : Out := finishE 8 s (laneOp r (vialuLane aluAddsat r) s)
def execVialuSubsat (r : RArgs) (s : State) : Out := finishE 8 s (laneOp r (vialuLane aluSubsat r) s)
def execVialuImm (fn : Nat) (x : XArgs) (s : State) : Out := finishE 12 s (laneOp x.r (vialuImmLane fn x) s)

/-! ## VIMUL (R184) -/

/-- A lane of MUL, MULHS and MULHN. -/
def vimulLane (f : Nat → Nat → Nat → Nat → Int) (r : RArgs) (c : Lanes) (o : VOps) (i : Nat) : W32 :=
  let w := intWidth r.ty
  mapElems3 w (fun x y z => wrapNat w (f w x y z)) (o.a.lane i) (o.b.lane i) (c.lane i)

/-- A lane of DOT4 and DOT2: signed products of n elements of width w, and c. -/
def dotLane (w n : Nat) (c : Lanes) (o : VOps) (i : Nat) : W32 :=
  BitVec.ofInt 32 ((c.lane i).toNat +
    ((List.range n).map fun j => toSigned w (elem w j (o.a.lane i)) * toSigned w (elem w j (o.b.lane i))).sum)

def execVimulMul (r : RArgs) (s : State) : Out := finishE 8 s (laneOp r (vimulLane mulMul r Lanes.zero) s)
def execVimulMulhs (r : RArgs) (s : State) : Out := finishE 8 s (laneOp r (vimulLane mulHs r Lanes.zero) s)
def execVimulMulhn (r : RArgs) (s : State) : Out := finishE 8 s (laneOp r (vimulLane mulHn r Lanes.zero) s)
def execVimulMadd (r : RArgs) (s : State) : Out := finishE 8 s (laneOp r (vimulLane mulMadd r (s.thr.getV r.c)) s)
def execVimulDot4 (r : RArgs) (s : State) : Out := finishE 8 s (laneOp r (dotLane 8 4 (s.thr.getV r.c)) s)
def execVimulDot2 (r : RArgs) (s : State) : Out := finishE 8 s (laneOp r (dotLane 16 2 (s.thr.getV r.c)) s)

/-! ## VICMP (R185) -/

/-- A condition holds for every element of a lane. -/
def vicmpLane (fn : Nat) (r : RArgs) (o : VOps) (i : Nat) : Bool :=
  let w := intWidth r.ty
  (List.range (32 / w)).all fun j => condHolds fn w (elem w j (o.a.lane i)) (elem w j (o.b.lane i))
def execVicmp (fn : Nat) (r : RArgs) (s : State) : Out := finishE 8 s (maskOp r (vicmpLane fn r) s)

/-! ## VMASK (R196) -/

/-- A mask register written from mask registers. -/
def maskRegs (f : W32 → W32 → W32) (r : RArgs) (s : State) : State := s.updThr fun t => t.setM r.d (f (t.getM r.a) (t.getM r.b))

/-- The lowest 1 bit of a mask alone. -/
def firstBit (x : W32) : W32 := x &&& (0 - x)

def execVmaskMand (r : RArgs) (s : State) : Out := finishE 8 s (.ok (maskRegs (fun x y => x &&& y) r s))
def execVmaskMor (r : RArgs) (s : State) : Out := finishE 8 s (.ok (maskRegs (fun x y => x ||| y) r s))
def execVmaskMxor (r : RArgs) (s : State) : Out := finishE 8 s (.ok (maskRegs (fun x y => x ^^^ y) r s))
def execVmaskMandn (r : RArgs) (s : State) : Out := finishE 8 s (.ok (maskRegs (fun x y => x &&& ~~~y) r s))
def execVmaskMnot (r : RArgs) (s : State) : Out := finishE 8 s (.ok (maskRegs (fun x _ => ~~~x) r s))
def execVmaskMpopc (r : RArgs) (s : State) : Out :=
  finishE 8 s (vectorWrite r.d (Lanes.make fun _ => BitVec.ofNat 32 (popc 32 (s.thr.getM r.a).toNat)) s)
def execVmaskMfirst (r : RArgs) (s : State) : Out := finishE 8 s (.ok (maskRegs (fun x _ => firstBit x) r s))

/-- MSET: the nonzero lanes; of an entry, only those of its mask. -/
def msetBody (r : RArgs) (s : State) : Res State :=
  if bitOf r.x16 2 then do
    let (e, t) ← s.thr.popQ r.a
    .ok (s.setThr (t.setM r.d (maskOf fun i => laneOn e.mask i && decide (e.lanes.lane i ≠ 0))))
  else .ok (s.updThr fun t => t.setM r.d (maskOf fun i => decide ((t.getV r.a).lane i ≠ 0)))
def execVmaskMset (r : RArgs) (s : State) : Out := finishE 8 s (msetBody r s)

/-! ## VPERM (R197) -/

def permN (r : RArgs) : Nat := r.x16 / 16 % 32

def shufLane (o : VOps) (i : Nat) : W32 := o.a.lane ((o.b.lane i).toNat % 32)
def slideupLane (n : Nat) (o : VOps) (i : Nat) : W32 := if n ≤ i then o.a.lane (i - n) else o.b.lane (32 - n + i)
def slidednLane (n : Nat) (o : VOps) (i : Nat) : W32 := if i + n < 32 then o.a.lane (i + n) else o.b.lane (i + n - 32)
def bcastLane (n : Nat) (o : VOps) (_ : Nat) : W32 := o.a.lane n
def revLane (o : VOps) (i : Nat) : W32 := o.a.lane (31 - i)
def zipLane (k : Nat) (o : VOps) (i : Nat) : W32 := if i % 2 = 0 then o.a.lane (k + i / 2) else o.b.lane (k + i / 2)
def iotaLane (o : VOps) (i : Nat) : W32 := BitVec.ofNat 32 (popc i o.act.toNat)

def execVpermShuf (r : RArgs) (s : State) : Out := finishE 8 s (laneOp r shufLane s)
def execVpermSlideup (r : RArgs) (s : State) : Out := finishE 8 s (laneOp r (slideupLane (permN r)) s)
def execVpermSlidedn (r : RArgs) (s : State) : Out := finishE 8 s (laneOp r (slidednLane (permN r)) s)
def execVpermBcast (r : RArgs) (s : State) : Out := finishE 8 s (laneOp r (bcastLane (permN r)) s)
def execVpermRev (r : RArgs) (s : State) : Out := finishE 8 s (laneOp r revLane s)
def execVpermZiplo (r : RArgs) (s : State) : Out := finishE 8 s (laneOp r (zipLane 0) s)
def execVpermZiphi (r : RArgs) (s : State) : Out := finishE 8 s (laneOp r (zipLane 16) s)
def execVpermIota (r : RArgs) (s : State) : Out := finishE 8 s (laneOp r iotaLane s)

/-! ## VMOV (R199) -/

def movLane (o : VOps) (i : Nat) : W32 := o.a.lane i
def execVmovMov (r : RArgs) (s : State) : Out := finishE 8 s (laneOp r movLane s)

/-- SEL: an unmasked write, chosen lane by lane by mK alone. -/
def vselBody (r : RArgs) (s : State) : Res State := do
  s.thr.checkDestV r.d
  let o ← s.thr.vOps r
  let t ← o.thr.writeV r.d (BitVec.allOnes 32)
    (Lanes.make fun i => if laneOn (s.thr.getM r.msk) i then o.a.lane i else o.b.lane i)
  .ok (s.setThr t)
def execVmovSel (r : RArgs) (s : State) : Out := finishE 8 s (vselBody r s)

def qpushBody (r : RArgs) (s : State) : Res State := do
  s.thr.roomQ r.d
  let act := s.thr.getM r.msk
  .ok (s.updThr fun t => t.pushQ r.d
    { lanes := Lanes.make fun i => if laneOn act i then (t.getV r.a).lane i else 0, mask := act, ready := true })
def execVmovQpush (r : RArgs) (s : State) : Out := finishE 8 s (qpushBody r s)

def qpopBody (r : RArgs) (s : State) : Res State := do
  s.thr.checkDestV r.d
  let (e, t1) ← s.thr.popQ r.a
  let t2 ← t1.writeV r.d (s.thr.getM r.msk) e.lanes
  .ok (s.setThr (if r.c = 0 then t2 else t2.setM r.c e.mask))
def execVmovQpop (r : RArgs) (s : State) : Out := finishE 8 s (qpopBody r s)

end Sys2Proof.Machine
end

