-- ==== Sys2Proof/Machine/VectorFp.lean ====
section
/-! DEFINITION. The floating-point majors of the E-stream, VCVT, VMX and VRED (R186 to R195, R198). -/

namespace Sys2Proof.Machine

/-! ## Shapes -/

/-- An E-stream instruction that computes each active lane with its flags (R114, R115, R176, R180). -/
def laneOpF (r : RArgs) (f : VOps → Nat → W32 × Nat) (s : State) : Res State := do
  s.thr.checkDestV r.d
  let o ← s.thr.vOps r
  let res := (List.range 32).map fun i => if laneOn o.act i then f o i else (0, 0)
  let t1 ← o.thr.raiseFlags (res.map Prod.snd)
  let t2 ← t1.writeV r.d o.act (Lanes.make fun i => (f o i).1)
  .ok (s.setThr t2)

/-- Float elements of lanes combined, with the union of their flags. -/
def floatElems (ty : Nat) (f : Nat → Nat → Nat → Nat × Nat) (a b c : W32) : W32 × Nat :=
  let w := (floatFmt ty).width
  let rs := (List.range (32 / w)).map fun j => f (elem w j a) (elem w j b) (elem w j c)
  (laneOf w (rs.map Prod.fst), unionFlags (rs.map Prod.snd))

/-! ## VFALU (R186) -/

/-- The functions of R186 on encodings. -/
def vfaluFn (fn : Nat) (m : Fmt) (rm : Mode) (a b : Nat) : Nat × Nat :=
  let sb := 2 ^ (m.width - 1)
  match fn with
  | 0 => m.add rm a b
  | 1 => m.sub rm a b
  | 2 => m.mul rm a b
  | 3 => m.minMax false a b
  | 4 => m.minMax true a b
  | 5 => (a % sb, 0)
  | 6 => (if a < sb then a + sb else a - sb, 0)
  | _ => (a % sb + b / sb * sb, 0)

def vfaluLane (fn : Nat) (t : Thread) (r : RArgs) (o : VOps) (i : Nat) : W32 × Nat :=
  floatElems r.ty (fun a b _ => vfaluFn fn (floatFmt r.ty) (t.mode r.rm false) a b) (o.a.lane i) (o.b.lane i) 0

/-- EXT32 as FP32, rounded RNE to the element format and placed in every element (R190). -/
def immLane (ty ext : Nat) : W32 :=
  let m := floatFmt ty
  laneOf m.width (List.replicate (32 / m.width) (m.round .rne (fp32.decode ext)).1)

def vfaluImmLane (fn : Nat) (t : Thread) (x : XArgs) (o : VOps) (i : Nat) : W32 × Nat :=
  floatElems x.r.ty (fun a b _ => vfaluFn fn (floatFmt x.r.ty) (t.mode x.r.rm false) a b) (o.a.lane i) (immLane x.r.ty x.ext) 0

def execVfaluAdd (r : RArgs) (s : State) : Out := finishE 8 s (laneOpF r (vfaluLane 0 s.thr r) s)
def execVfaluSub (r : RArgs) (s : State) : Out := finishE 8 s (laneOpF r (vfaluLane 1 s.thr r) s)
def execVfaluMul (r : RArgs) (s : State) : Out := finishE 8 s (laneOpF r (vfaluLane 2 s.thr r) s)
def execVfaluMin (r : RArgs) (s : State) : Out := finishE 8 s (laneOpF r (vfaluLane 3 s.thr r) s)
def execVfaluMax (r : RArgs) (s : State) : Out := finishE 8 s (laneOpF r (vfaluLane 4 s.thr r) s)
def execVfaluAbs (r : RArgs) (s : State) : Out := finishE 8 s (laneOpF r (vfaluLane 5 s.thr r) s)
def execVfaluNeg (r : RArgs) (s : State) : Out := finishE 8 s (laneOpF r (vfaluLane 6 s.thr r) s)
def execVfaluCpsgn (r : RArgs) (s : State) : Out := finishE 8 s (laneOpF r (vfaluLane 7 s.thr r) s)
def execVfaluImm (fn : Nat) (x : XArgs) (s : State) : Out := finishE 12 s (laneOpF x.r (vfaluImmLane fn s.thr x) s)

/-! ## VFMA (R187) -/

/-- The signs of the product and of c in R187. -/
def fmaSigns : Nat → Bool × Bool
  | 0 => (false, false)
  | 1 => (false, true)
  | 2 => (true, false)
  | _ => (true, true)

def vfmaLane (fn : Nat) (t : Thread) (r : RArgs) (c : Nat → W32) (o : VOps) (i : Nat) : W32 × Nat :=
  let sg := fmaSigns fn
  floatElems r.ty (fun a b c => (floatFmt r.ty).fma (t.mode r.rm false) sg.1 sg.2 a b c) (o.a.lane i) (o.b.lane i) (c i)

def execVfmaFma (r : RArgs) (s : State) : Out := finishE 8 s (laneOpF r (vfmaLane 0 s.thr r (s.thr.getV r.c).lane) s)
def execVfmaFms (r : RArgs) (s : State) : Out := finishE 8 s (laneOpF r (vfmaLane 1 s.thr r (s.thr.getV r.c).lane) s)
def execVfmaFnma (r : RArgs) (s : State) : Out := finishE 8 s (laneOpF r (vfmaLane 2 s.thr r (s.thr.getV r.c).lane) s)
def execVfmaFnms (r : RArgs) (s : State) : Out := finishE 8 s (laneOpF r (vfmaLane 3 s.thr r (s.thr.getV r.c).lane) s)
def execVfmaImm (fn : Nat) (x : XArgs) (s : State) : Out :=
  finishE 12 s (laneOpF x.r (vfmaLane fn s.thr x.r fun _ => immLane x.r.ty x.ext) s)

/-! ## VFUNC (R188) -/

def vfuncLane (f : Fmt → Nat → Nat → Nat × Nat) (r : RArgs) (o : VOps) (i : Nat) : W32 × Nat :=
  floatElems r.ty (fun a b _ => f (floatFmt r.ty) a b) (o.a.lane i) (o.b.lane i) 0

def execVfuncDiv (r : RArgs) (s : State) : Out :=
  finishE 8 s (laneOpF r (vfuncLane (fun m a b => m.div (s.thr.mode r.rm false) a b) r) s)
def execVfuncSqrt (r : RArgs) (s : State) : Out :=
  finishE 8 s (laneOpF r (vfuncLane (fun m a _ => m.sqrt (s.thr.mode r.rm false) a) r) s)
def execVfuncRcp (r : RArgs) (s : State) : Out := finishE 8 s (laneOpF r (vfuncLane (fun m a _ => m.rcp a) r) s)
def execVfuncRsqrt (r : RArgs) (s : State) : Out := finishE 8 s (laneOpF r (vfuncLane (fun m a _ => m.rsqrt a) r) s)
def execVfuncExp2 (r : RArgs) (s : State) : Out := finishE 8 s (laneOpF r (vfuncLane (fun m a _ => m.exp2 a) r) s)
def execVfuncLog2 (r : RArgs) (s : State) : Out := finishE 8 s (laneOpF r (vfuncLane (fun m a _ => m.log2 a) r) s)

/-! ## VFCMP (R189) -/

/-- The relation on every element of a lane, and the union of its flags. -/
def vfcmpLane (fn : Nat) (r : RArgs) (o : VOps) (i : Nat) : Bool × Nat :=
  let m := floatFmt r.ty
  let rs := (List.range (32 / m.width)).map fun j => m.compare fn (elem m.width j (o.a.lane i)) (elem m.width j (o.b.lane i))
  (rs.all Prod.fst, unionFlags (rs.map Prod.snd))

def vfcmpBody (fn : Nat) (r : RArgs) (s : State) : Res State := do
  let o ← s.thr.vOps r
  let fls := (List.range 32).map fun i => if laneOn o.act i then (vfcmpLane fn r o i).2 else 0
  let t ← o.thr.raiseFlags fls
  .ok (s.setThr (t.setM r.d (maskOf fun i => laneOn o.act i && (vfcmpLane fn r o i).1)))
def execVfcmp (fn : Nat) (r : RArgs) (s : State) : Out := finishE 8 s (vfcmpBody fn r s)

/-! ## VCVT (R191, R192) -/

/-- A conversion format: a float, or an integer with its signedness. -/
inductive CvtFmt where
  | float (f : Fmt)
  | int (w : Nat) (signed : Bool)
  deriving DecidableEq, Repr

def CvtFmt.width : CvtFmt → Nat
  | .float f => f.width
  | .int w _ => w

/-- The source families of FN, and the destinations of TY. -/
def cvtSrc : Nat → CvtFmt
  | 0 => .float fp32
  | 1 => .float bf16
  | 2 => .float fp16
  | 3 => .float e4m3
  | 4 => .float e5m2
  | 5 => .int 32 true
  | 6 => .int 32 false
  | 7 => .int 16 true
  | _ => .int 8 true
def cvtDst : Nat → CvtFmt
  | 0 => .float fp32
  | 1 => .float bf16
  | 2 => .float fp16
  | 3 => .float e4m3
  | 4 => .float e5m2
  | 5 => .int 32 true
  | 6 => .int 16 true
  | _ => .int 8 true

/-- The integer that bits stand for. -/
def intOf (w : Nat) (signed : Bool) (x : Nat) : Int := if signed then toSigned w x else (x % 2 ^ w : Nat)

/-- A conversion between two formats that are no MX blocks (R124, R125): the encoding and the flags. -/
def convert (src dst : CvtFmt) (rm : Mode) (sat : Bool) (x w : Nat) : Nat × Nat :=
  match src, dst with
  | .float f, .float g => g.round rm (f.decode x) sat w
  | .float f, .int n sg => toIntVal n sg rm (f.decode x) w
  | .int n sg, .float g => g.round rm (FVal.ofInt (intOf n sg x) 0) sat w
  | .int n sg, .int k sg2 => (clampInt k sg2 (intOf n sg x), 0)

/-- One lane of a VCVT: the converted elements in their places over the old lane, and their flags. -/
def vcvtLane (fn : Nat) (t : Thread) (r : RArgs) (o : VOps) (i : Nat) : W32 × Nat :=
  let src := cvtSrc fn
  let dst := cvtDst r.ty
  let nS := 32 / src.width
  let nD := 32 / dst.width
  let n := min nS nD
  let pos := r.x16 / 8 % 4
  let rm := t.mode r.rm (decide (n ≠ 4))
  let words := (t.getV r.c).lane i
  let step := fun (acc : W32 × Nat) (j : Nat) =>
    let sj := if nS ≤ nD then j else pos * nD + j
    let dj := if nS ≤ nD then pos * nS + j else j
    let (x, fl) := convert src dst rm (bitOf r.x16 5) (elem src.width sj (o.a.lane i)) (elem 16 j words)
    (setElem dst.width dj acc.1 x, acc.2 ||| fl)
  (List.range n).foldl step ((t.getV r.d).lane i, 0)
def execVcvt (fn : Nat) (r : RArgs) (s : State) : Out := finishE 8 s (laneOpF r (vcvtLane fn s.thr r) s)

/-! ## VMX (R193 to R195) -/

def mxP (r : RArgs) : Nat := r.x16 / 16 % 32

/-- The flags of each element of an encoding (R115, R122). -/
def mxLaneFlags (m : MxElem) (rm : Mode) (xs : List FVal) (ws : List Nat) : List Nat :=
  if xs.any (fun x => x.isNan || x.isInf) then xs.map fun x => if x.isNan || x.isInf then flagNV else 0
  else match maxLog xs with
    | none => xs.map fun _ => 0
    | some lg => (encodeElems m rm (max (-127) (min 127 (lg - m.emax))) xs ws).map fun e => b2n e.2.1

/-- MXQ: both registers are written in all lanes. -/
def mxqBody (r : RArgs) (s : State) : Res State := do
  s.thr.checkDestV r.d
  s.thr.checkDestV (r.d + 1)
  let t := s.thr
  let act := t.getM r.msk
  let p := mxP r
  let xs := (List.range 32).map fun i => if laneOn act i then fp32.decode ((t.getV r.a).lane i).toNat else FVal.fin false 0 0
  let ws := (List.range 32).map fun i => ((t.getV r.c).lane i).toNat % 65536
  let rm := t.mode r.rm true
  let (scale, codes, _) := (MxElem.int p).encode rm xs ws
  let t1 ← t.raiseFlags (mxLaneFlags (.int p) rm xs ws)
  let t2 := t1.setV r.d (Lanes.make fun i => BitVec.signExtend 32 (BitVec.ofNat p (codes[i]?.getD 0)))
  let t3 := t2.setV (r.d + 1) (Lanes.make fun _ => BitVec.ofNat 32 scale)
  let t4 ← t3.settleE [(r.d, BitVec.allOnes 32), (r.d + 1, BitVec.allOnes 32)]
  .ok (s.setThr t4)
def execVmxMxq (r : RArgs) (s : State) : Out := finishE 8 s (mxqBody r s)

/-- The plane words of the active lanes (R194). -/
def planeLanes (p : Nat) (act : W32) (a : Lanes) : Lanes :=
  Lanes.make fun j => if j < p then maskOf fun i => laneOn act i && (a.lane i).getLsbD j else 0
def execVmxPlane (r : RArgs) (s : State) : Out :=
  finishE 8 s (vectorWrite r.d (planeLanes (mxP r) (s.thr.getM r.msk) (s.thr.getV r.a)) s)

def unplaneLane (p : Nat) (o : VOps) (i : Nat) : W32 :=
  let k := planeElem ((List.range p).map fun j => (o.a.lane j).toNat) p i
  if p = 1 then BitVec.ofNat 32 k else BitVec.signExtend 32 (BitVec.ofNat p k)
/-- X16 of VMX holds P where other majors have no field, and no queue bit. -/
def execVmxUnplane (r : RArgs) (s : State) : Out := finishE 8 s (laneOp { r with x16 := 0 } (unplaneLane (mxP r)) s)

def mxdqLane (p scale : Nat) (o : VOps) (i : Nat) : W32 × Nat :=
  let x := fp32.round .rne ((MxElem.int p).decode scale ((o.a.lane i).toNat % 2 ^ p))
  (BitVec.ofNat 32 x.1, x.2)
def execVmxMxdq (r : RArgs) (s : State) : Out :=
  finishE 8 s (laneOpF { r with x16 := 0 } (mxdqLane (mxP r) (((s.thr.getV (r.a + 1)).lane 0).toNat % 256)) s)

/-! ## VRED (R198) -/

/-- A reduction's result in lane 0, zero in the others. -/
def laneZero (x : W32) : Lanes := Lanes.make fun i => if i = 0 then x else 0

/-- An integer reduction with its identity. -/
def redInt (f : W32 → W32 → W32) (e : W32) (r : RArgs) (s : State) : W32 :=
  (activeLanes (s.thr.getM r.msk)).foldl (fun acc i => f acc ((s.thr.getV r.a).lane i)) e
def redBody (f : W32 → W32 → W32) (e : W32) (r : RArgs) (s : State) : Res State := vectorWrite r.d (laneZero (redInt f e r s)) s

def execVredIadd (r : RArgs) (s : State) : Out := finishE 8 s (redBody (fun x y => x + y) 0 r s)
def execVredImin (r : RArgs) (s : State) : Out := finishE 8 s (redBody (fun x y => if x.sle y then x else y) 0x7FFFFFFF r s)
def execVredImax (r : RArgs) (s : State) : Out := finishE 8 s (redBody (fun x y => if x.sle y then y else x) 0x80000000 r s)
def execVredIand (r : RArgs) (s : State) : Out := finishE 8 s (redBody (fun x y => x &&& y) 0xFFFFFFFF r s)
def execVredIor (r : RArgs) (s : State) : Out := finishE 8 s (redBody (fun x y => x ||| y) 0 r s)

/-- The FP32 lanes that a reduction takes, quieted, and the flags that signalling lanes raise at their own place. -/
def redInputs (e : Nat) (r : RArgs) (t : Thread) : List Nat × List Nat :=
  let act := t.getM r.msk
  let xs := (List.range 32).map fun i => if laneOn act i then ((t.getV r.a).lane i).toNat else e
  (xs.map fun x => if (fp32.decode x).isNan then fp32.nan else x, xs.map fun x => if (fp32.decode x).isSnan then flagNV else 0)

/-- One level of the tree: position i takes i + s, with its flags. -/
def redLevel (n : Nat) (x : List Nat × List Nat) : List Nat × List Nat :=
  let rs := (List.range n).map fun i => fp32.add .rne (x.1[i]?.getD 0) (x.1[i + n]?.getD 0)
  (rs.map Prod.fst, (List.range 32).map fun i => (x.2[i]?.getD 0) ||| ((rs[i]?).elim 0 Prod.snd))

/-- A floating-point reduction's result and flags written. -/
def redWrite (d : Nat) (x : Nat) (fls : List Nat) (s : State) : Res State := do
  s.thr.checkDestV d
  let t1 ← s.thr.raiseFlags fls
  let t2 ← t1.writeV d (BitVec.allOnes 32) (laneZero (BitVec.ofNat 32 x))
  .ok (s.setThr t2)

def faddBody (r : RArgs) (s : State) : Res State :=
  let x := [16, 8, 4, 2, 1].foldl (fun acc n => redLevel n acc) (redInputs (2 ^ 31) r s.thr)
  redWrite r.d (x.1.headD 0) x.2 s
def execVredFadd (r : RArgs) (s : State) : Out := finishE 8 s (faddBody r s)

def fmaxBody (isMax : Bool) (r : RArgs) (s : State) : Res State :=
  let x := redInputs fp32.nan r s.thr
  redWrite r.d (x.1.foldl (fun acc y => (fp32.minMax isMax acc y).1) fp32.nan) x.2 s
def execVredFmax (r : RArgs) (s : State) : Out := finishE 8 s (fmaxBody true r s)
def execVredFmin (r : RArgs) (s : State) : Out := finishE 8 s (fmaxBody false r s)

end Sys2Proof.Machine
end

