-- ==== Sys2Proof/Machine/Matrix.lean ====
section
/-! DEFINITION. The matrix array: exact accumulation (R200 to R207), the order of array commands (R208 to R212), MX, MLOADW, MSTREAM,
MREAD, MADDRAW, XACC and MCMD at its issuer (R213 to R228). -/

namespace Sys2Proof.Machine

/-! ## Rows and contributions -/

/-- An accumulator row of a core. -/
def VCore.row (v : VCore) (r : Nat) : AccRow := SMap.get AccRow.clear v.acc r
def VCore.setRow (v : VCore) (r : Nat) (x : AccRow) : VCore := { v with acc := SMap.set AccRow.clear v.acc r x }

/-- The anchor E of a row. -/
def AccRow.anchorE (r : AccRow) : Int := r.e.toInt

/-- X of a column. -/
def AccRow.col (r : AccRow) (c : Nat) : BitVec 192 := SMap.get 0 r.x c
/-- An integer multiple of the grid added to a column (R203 step 3). -/
def AccRow.addGrid (r : AccRow) (c : Nat) (k : Int) : AccRow :=
  { r with x := SMap.set 0 r.x c (r.col c + BitVec.ofInt 192 k) }

def setBit128 (x : BitVec 128) (c : Nat) : BitVec 128 := x ||| BitVec.ofNat 128 (2 ^ c)

/-- One contribution to a column (R203, R205). -/
def AccRow.contribute (r : AccRow) (c : Nat) (v : FVal) : AccRow :=
  match v with
  | .nan _ => { r with nan := setBit128 r.nan c }
  | .inf false => { r with posInf := setBit128 r.posInf c }
  | .inf true => { r with negInf := setBit128 r.negInf c }
  | .fin neg n e =>
    let (k, _) := roundTo .rne neg n e (r.anchorE - 128) 0 false
    let big := decide (2 ^ 160 ≤ k)
    let m : Int := if big then 2 ^ 160 - 1 else k
    let r1 := r.addGrid c (if neg then -m else m)
    if big then { r1 with anchor := true } else r1

/-- The value that a column, or on a PAIR row a logical column, reads as (R206). -/
def AccRow.value (r : AccRow) (j : Nat) : FVal :=
  let cs := if r.pair then [2 * j, 2 * j + 1] else [j]
  let nan := cs.any fun c => r.nan.getLsbD c
  let pos := cs.any fun c => r.posInf.getLsbD c
  let neg := cs.any fun c => r.negInf.getLsbD c
  if nan || (pos && neg) then .nan false
  else if pos then .inf false
  else if neg then .inf true
  else
    let x := (cs.map fun c => (r.col c).toInt).sum
    if x = 0 then .fin false 0 0 else FVal.ofInt x (r.anchorE - 128)

/-- Rows f to f + n - 1 changed. -/
def VCore.mapRows (v : VCore) (f n : Nat) (g : Nat → AccRow → AccRow) : VCore :=
  (List.range n).foldl (fun v i => v.setRow (f + i) (g i (v.row (f + i)))) v

/-- A row cleared by MCLR (R214). -/
def AccRow.fresh (e : BitVec 10) (pair : Bool) : AccRow := { AccRow.clear with e := e, pair := pair }
/-- A row cleared by MREAD with CLR or by a PPT: E and PAIR stay (R221, R384). -/
def AccRow.wipe (r : AccRow) : AccRow := { AccRow.clear with e := r.e, pair := r.pair }

/-- The range faults of MCLR, MREAD and MADDRAW (R214, R220). -/
def rowRange (f n : Nat) : Res Unit := refuseIfD (decide (255 < f) || decide (n = 0) || decide (256 < f + n)) .accRange f

/-! ## The array order (R208 to R212) -/

/-- Whether an outstanding command touches one of the rows f to f + n - 1. -/
def VCore.touching (v : VCore) (f n : Nat) : Bool :=
  v.outstanding.any fun c => decide (c.first < f + n) && decide (f < c.first + c.count)
/-- The wait of R210. -/
def State.rowWait (s : State) (f n : Nat) : Res Unit := waitIf (s.vc.touching f n) .other

/-- Whether an 8-byte instruction is of the XACC major. -/
def isXacc (inst : Nat) : Bool := decide (inst % 4 = 0) && bitOf inst 2 && decide (inst / 8 % 128 = 16)
/-- An A-stream array command issues after the older XACC-major instructions (R209). -/
def State.xaccWait (s : State) : Res Unit := waitIf (s.thr.ePath.any fun a => isXacc (s.einstAt a)) .other

/-- A command that has entered the array order (R208, R212). -/
def State.outstand (s : State) (f n : Nat) (err : Option LateErr) : State :=
  s.updVc fun v => { v with outstanding := v.outstanding ++ [{ vcore := s.vc.id, thread := s.thr.id, first := f, count := n, err := err }] }
/-- The firing has changed the array (R396). -/
def State.touchArray (s : State) : State := s.updThr fun t => { t with touchedArray := true }

/-- A stop as a deferred error (R212), and the state with what it logged. -/
def lateOf (s : State) : Stop → Option (State × LateErr)
  | .trap i => some (s, ⟨i.cause, i.faddr, i.fdetail⟩)
  | .trapIn s1 i => some (s1, ⟨i.cause, i.faddr, i.fdetail⟩)
  | _ => none

/-- The read of an array command (R211): its checks stop the instruction; a failure of step 9 is deferred (R212). -/
def State.fetchRange (s : State) (ag : Agent) (align va n : Nat) : Res (Except (State × LateErr) (List Byte)) := do
  let ps := pieces align .read .scalar [] (n / 32 + 2) va n
  let ts ← s.checkAll ag ps
  match (ps.zip ts).mapM fun x => s.readTarget ag x.1 x.2 with
  | .ok bss => .ok (.ok bss.flatten)
  | .error e =>
    match lateOf s e with
    | some l => .ok (.error l)
    | none => .error e

/-- A list of bytes as 32-bit words. -/
def wordsAt (bs : List Byte) (off n : Nat) : List Nat := (List.range n).map fun j => leNat ((bs.drop (off + 4 * j)).take 4)

/-! ## MX (R213 to R215) -/

/-- The markers (R210, R213). -/
def markerBody (chain : Bool) (s : State) : Res State := do
  s.xaccWait
  .ok (s.updVc fun v => { v with chain := chain })
def execMxMbegin (s : State) : Out := finishA 8 s (markerBody true s)
def execMxMend (s : State) : Out := finishA 8 s (markerBody false s)

def mclrBody (r : RArgs) (s : State) : Res State := do
  s.xaccWait
  let f := (s.thr.getS r.a).toNat
  let n := (s.thr.getS r.b).toNat
  rowRange f n
  s.rowWait f n
  .ok ((s.updVc fun v => v.mapRows f n fun _ _ => AccRow.fresh (BitVec.ofNat 10 r.x16) (bitOf r.x16 10)).touchArray)
def execMxMclr (r : RArgs) (s : State) : Out := finishA 8 s (mclrBody r s)

/-- The thread has an array command, or an MCMD, that has not completed (R212). -/
def State.arrayBusy (s : State) : Bool :=
  let own := fun (v : VCore) => v.outstanding.any fun c => decide (c.vcore = s.vc.id) && decide (c.thread = s.thr.id)
  own s.vc || (s.ctx.vcores.any fun e => decide (e.1 ≠ s.vc.id) && own e.2) ||
  (s.ctx.mcmds.any fun m => decide (m.ident.vcore = s.vc.id) && decide (m.thread = s.thr.id))

/-- The wait for the thread's array commands, with the report of the earliest deferred error (R212). -/
def State.arrayWait (s : State) : Res State := do
  waitIf s.arrayBusy .other
  match s.thr.deferred with
  | e :: rest => .error (.trapIn (s.updThr fun t => { t with deferred := rest }) ⟨e.cause, e.faddr, e.fdetail⟩)
  | [] => .ok s

def mwaitBody (s : State) : Res State := do
  s.xaccWait
  s.arrayWait
def execMxMwait (s : State) : Out := finishA 8 s (mwaitBody s)

/-- The result of MSTAT (R215). -/
def mstatVal (v : VCore) (r : AccRow) : W64 :=
  BitVec.ofNat 64 (r.e.toNat + 2 ^ 10 * b2n r.pair + 2 ^ 11 * b2n r.anchor + 2 ^ 12 * b2n (decide (r.nan ≠ 0)) +
    2 ^ 13 * b2n (decide (r.posInf ≠ 0)) + 2 ^ 14 * b2n (decide (r.negInf ≠ 0)) + 2 ^ 15 * b2n v.bank0.isSome + 2 ^ 16 * b2n v.bank1.isSome)
def mstatBody (r : RArgs) (s : State) : Res State := do
  s.xaccWait
  s.thr.checkDest r.d
  let f := (s.thr.getS r.a).toNat
  refuseIfD (decide (255 < f)) .accRange f
  s.rowWait f 1
  s.writeS r.d (mstatVal s.vc (s.vc.row f))
def execMxMstat (r : RArgs) (s : State) : Out := finishA 8 s (mstatBody r s)

/-! ## MLOADW (R216, R217) -/

/-- The fields of CMD64 of MLOADW. -/
structure LoadW where
  n : Nat
  kb : Nat
  wp : Nat
  sparse : Bool
  wsplit : Bool
  deriving DecidableEq, Repr

def loadwOf (cmd : Nat) : LoadW :=
  { n := cmd % 256, kb := cmd / 256 % 8, wp := cmd / 2 ^ 11 % 32, sparse := bitOf cmd 16, wsplit := bitOf cmd 17 }

/-- PLANE_RECORD of R216. -/
def LoadW.bad (c : LoadW) : Bool :=
  decide (c.n = 0) || decide (128 < c.n) || decide (c.kb = 0) || decide (4 < c.kb) || decide (c.wp < 2) || decide (8 < c.wp) ||
  (c.sparse && c.wsplit) || (c.wsplit && (decide (c.wp ≠ 8) || decide (c.n % 2 = 1)))

/-- Plane words of a stored block. -/
def LoadW.planes (c : LoadW) : Nat := if c.sparse then c.wp + 2 else c.wp

/-- The 2-bit index of element i of a sparse block. -/
def sparseIndex (words : List Nat) (wp i : Nat) : Nat :=
  ((words[wp]?.getD 0) + 2 ^ 32 * (words[wp + 1]?.getD 0)) / 4 ^ i % 4

/-- Two elements of one pair with equal indices. -/
def sparseBad (words : List Nat) (wp : Nat) : Bool :=
  (List.range 16).any fun j => decide (sparseIndex words wp (2 * j) = sparseIndex words wp (2 * j + 1))

/-- A stored weight block from its plane words: column n, block b (R217). -/
def LoadW.block (c : LoadW) (n b : Nat) (words : List Nat) (scale : Nat) : WBlock where
  weights := (List.range 32).map fun i =>
    let k := planeElem words c.wp i
    if c.wsplit && decide (n % 2 = 0) then (k : Int) else toSigned c.wp k
  positions := (List.range 32).map fun i =>
    if c.sparse then 64 * b + 4 * (i / 2) + sparseIndex words c.wp i else 32 * b + i
  scale := scale

/-- The tile that the bytes of planes and scales hold, none on SPARSE_INDEX. -/
def LoadW.tile (c : LoadW) (planes scales : List Byte) : Option Bank :=
  let q := c.planes
  let words := fun n b => wordsAt planes ((n * c.kb + b) * 4 * q) q
  let all := (List.range c.n).map fun n => (List.range c.kb).map fun b =>
    (words n b, c.block n b (words n b) ((scales[n * c.kb + b]?.getD 0)).toNat)
  if c.sparse && all.any (fun col => col.any fun x => sparseBad x.1 c.wp) then none
  else some { n := c.n, kb := c.kb, wp := c.wp, sparse := c.sparse, wsplit := c.wsplit, cols := all.map fun col => col.map Prod.snd }

def VCore.bank (v : VCore) (k : Nat) : Option Bank := if k = 0 then v.bank0 else v.bank1
def VCore.setBank (v : VCore) (k : Nat) (b : Option Bank) : VCore := if k = 0 then { v with bank0 := b } else { v with bank1 := b }

/-- A member's own MLOADW and MSTREAM wait while an MTILE of its group runs (R231). -/
def State.tileWait (s : State) : Res Unit := waitIf s.vc.groupLock.isSome .other

/-- The reads of a tile: its planes and its scales. -/
def State.fetchPair (s : State) (ag : Agent) (pa pn sa sn : Nat) : Res (Except (State × LateErr) (List Byte × List Byte)) := do
  let p ← s.fetchRange ag 4 pa pn
  let q ← s.fetchRange ag 1 sa sn
  match p, q with
  | .ok x, .ok y => .ok (.ok (x, y))
  | .error e, _ => .ok (.error e)
  | _, .error e => .ok (.error e)

/-- What those reads leave. -/
def State.sawPair (s : State) (ag : Agent) (pa pn sa sn : Nat) : State := (s.sawRange ag 4 pa pn).sawRange ag 1 sa sn

/-- Equal indices are found at issue or after it: a free choice (R217, log 6). -/
def mloadwBody (bank : Nat) (x : CArgs) (s : State) : Res State := do
  let c := loadwOf x.cmd
  refuseIfD c.bad .planeRecord bank
  s.xaccWait
  s.tileWait
  let saw := fun t : State => t.sawPair s.agent (s.thr.getS x.r.a).toNat (c.n * c.kb * 4 * c.planes) (s.thr.getS x.r.b).toNat (c.n * c.kb)
  let r ← s.fetchPair s.agent (s.thr.getS x.r.a).toNat (c.n * c.kb * 4 * c.planes) (s.thr.getS x.r.b).toNat (c.n * c.kb)
  match r with
  | .error (s1, e) => .ok (((saw s1).outstand 0 0 (some e)).touchArray.updVc fun v => v.setBank bank none)
  | .ok (ps, ss) =>
    match c.tile ps ss with
    | none =>
      let (w, s1) := (saw s).freeWord
      if !w.getLsbD 0 then .error (.trapIn s1 ⟨.sparseIndex, 0, bank⟩)
      else .ok ((s1.outstand 0 0 (some ⟨.sparseIndex, 0, bank⟩)).touchArray.updVc fun v => v.setBank bank none)
    | some b => .ok (((saw s).outstand 0 0 none).touchArray.updVc fun v => v.setBank bank (some b))
def execMloadw (fn : Nat) (x : CArgs) (s : State) : Out := finishA 16 s (mloadwBody fn x s)

/-! ## MSTREAM (R204, R205, R218, R219) -/

/-- An activation block: its 32 elements as integers, and its scale byte. -/
abbrev ABlock := List Int × Nat

/-- Element integers of an activation plane block of precision p (R118). -/
def actBlock (p : Nat) (words : List Nat) (scale : Nat) : ABlock :=
  ((List.range 32).map fun i => if p = 1 then (planeElem words 1 i : Int) else toSigned p (planeElem words p i), scale)

/-- The exponent of an element of precision p under scale byte 127 (R118). -/
def elemExp (p : Nat) : Int := if p = 1 then 0 else 2 - (p : Int)
/-- The exponent of a weight of a bank's column (R217). -/
def Bank.weightExp (b : Bank) (n : Nat) : Int := if b.wsplit && decide (n % 2 = 0) then -14 else 2 - (b.wp : Int)

/-- Σ a × w over the weights whose positions lie in activation block `ab` (R204). -/
def dotBlock (ab : Nat) (acts : List Int) (w : WBlock) : Int :=
  ((w.weights.zip w.positions).map fun x => if x.2 / 32 = ab then x.1 * (acts[x.2 % 32]?.getD 0) else 0).sum

/-- The contribution of activation block `ab` and column n to a row (R204, R205). -/
def Bank.contribution (b : Bank) (ap n ab : Nat) (a : ABlock) : FVal :=
  let wb := if b.sparse then ab / 2 else ab
  match (b.cols[n]?.getD [])[wb]? with
  | none => .fin false 0 0
  | some w =>
    if a.2 = 255 || w.scale = 255 then .nan false
    else FVal.ofInt (dotBlock ab a.1 w) (elemExp ap + b.weightExp n + (a.2 : Int) + (w.scale : Int) - 254)

/-- A row of activation blocks streamed past a bank. -/
def Bank.streamRow (b : Bank) (ap : Nat) (blocks : List ABlock) (r : AccRow) : AccRow :=
  (List.range b.n).foldl (fun r n =>
    (List.range blocks.length).foldl (fun r ab => r.contribute n (b.contribution ap n ab (blocks[ab]?.getD ([], 0)))) r) r

/-- The activation blocks of the rows of an MSTREAM from its bytes, B blocks a row. -/
def actRow (ap nb row : Nat) (planes scales : List Byte) : List ABlock :=
  (List.range nb).map fun b =>
    actBlock ap (wordsAt planes ((row * nb + b) * 4 * ap) ap) ((scales[row * nb + b]?.getD 0)).toNat

/-- The effect of an MSTREAM on a core's rows. -/
def VCore.stream (v : VCore) (b : Bank) (ap nb f m : Nat) (planes scales : List Byte) : VCore :=
  v.mapRows f m fun i r => b.streamRow ap (actRow ap nb i planes scales) r

def mstreamBody (bank : Nat) (x : CArgs) (s : State) : Res State := do
  let ap := x.cmd % 32
  let kb := x.cmd / 256 % 8
  refuseIfD (decide (ap = 0) || decide (16 < ap) || decide (kb = 0) || decide (4 < kb)) .planeRecord bank
  s.xaccWait
  s.tileWait
  match s.vc.bank bank with
  | none => raiseD .weightBank bank
  | some b => do
    let f := (s.thr.getS x.r.c).toNat
    let m := (s.thr.getS x.r.d).toNat
    refuseIfD (decide (kb ≠ b.kb)) .formatMismatch f
    rowRange f m
    refuseIfD ((List.range m).any fun i => (s.vc.row (f + i)).pair != b.wsplit) .formatMismatch f
    let nb := if b.sparse then 2 * kb else kb
    let saw := fun t : State => t.sawPair s.agent (s.thr.getS x.r.a).toNat (m * nb * 4 * ap) (s.thr.getS x.r.b).toNat (m * nb)
    let r ← s.fetchPair s.agent (s.thr.getS x.r.a).toNat (m * nb * 4 * ap) (s.thr.getS x.r.b).toNat (m * nb)
    match r with
    | .error (s1, e) => .ok ((saw s1).outstand f m (some e)).touchArray
    | .ok (ps, ss) => .ok (((saw s).outstand f m none).touchArray.updVc fun v => v.stream b ap nb f m ps ss)
def execMstream (fn : Nat) (x : CArgs) (s : State) : Out := finishA 16 s (mstreamBody fn x s)

/-! ## MREAD (R220 to R222) -/

/-- The fields of CMD64 of MREAD. -/
structure ReadArgs where
  fn : Nat
  rm : Nat
  c : Nat
  p : Nat
  chk : Bool
  clr : Bool
  deriving DecidableEq, Repr

def readArgs (fn rm cmd : Nat) : ReadArgs :=
  { fn := fn, rm := rm, c := cmd % 256, p := cmd / 256 % 16, chk := bitOf cmd 12, clr := bitOf cmd 13 }

/-- P of MXINT output: 0 stands for 16. -/
def ReadArgs.prec (a : ReadArgs) : Nat := if a.p = 0 then 16 else a.p

/-- PLANE_RECORD of R220. -/
def ReadArgs.bad (a : ReadArgs) : Bool :=
  decide (a.c = 0) || decide (128 < a.c) || (decide (a.fn = 4) && decide (a.p = 1)) || (decide (a.fn ≠ 4) && decide (a.p ≠ 0))

/-- ACC_RANGE and FORMAT_MISMATCH of R220, on the rows read. -/
def ReadArgs.rowFaults (a : ReadArgs) (f n : Nat) (v : VCore) : Res Unit := do
  rowRange f n
  let rows := (List.range n).map fun i => v.row (f + i)
  refuseIfD (decide (a.fn ≠ 5) && decide (64 < a.c) && rows.any AccRow.pair) .accRange f
  refuseIfD (decide (a.fn = 4) && decide (a.c % 32 ≠ 0)) .formatMismatch f
  refuseIfD (rows.any (AccRow.pair) && rows.any fun r => !r.pair) .formatMismatch f
  refuseIfD (decide (a.fn = 5) && decide (a.c % 2 = 1) && rows.any AccRow.pair) .formatMismatch f

/-- The destination's alignment (R219). -/
def ReadArgs.align (a : ReadArgs) : Nat := match a.fn with | 0 => 4 | 1 => 2 | 2 => 2 | 3 => 4 | 4 => 4 | _ => 64

/-- An element of FN 0 to 3 with its flags. -/
def readElem (a : ReadArgs) (rm : Mode) (x : FVal) : List Byte × Nat :=
  match a.fn with
  | 0 => let r := fp32.round rm x; (leBytes 4 r.1, r.2)
  | 1 => let r := bf16.round rm x; (leBytes 2 r.1, r.2)
  | 2 => let r := fp16.round rm x; (leBytes 2 r.1, r.2)
  | _ => let r := toIntVal 32 true rm x 0; (leBytes 4 r.1, r.2)

/-- The plane bytes of a block of p-bit codes (R120). -/
def planeBytes (p : Nat) (codes : List Nat) : List Byte := ((List.range p).map fun j => leBytes 4 (planeWord codes j)).flatten

/-- A RAW row of C columns (R222). -/
def AccRow.raw (r : AccRow) (c : Nat) : List Byte :=
  leBytes 2 (r.e.signExtend 16).toNat ++ [BitVec.ofNat 8 (b2n r.pair + 2 * b2n r.anchor)] ++ List.replicate 13 0 ++
  leBytes 16 (r.nan.toNat % 2 ^ c) ++ leBytes 16 (r.posInf.toNat % 2 ^ c) ++ leBytes 16 (r.negInf.toNat % 2 ^ c) ++
  ((List.range c).map fun j => leBytes 24 (r.col j).toNat).flatten

/-- What an MREAD writes from its destination on, and the flags it raises (R221). -/
def readOut (a : ReadArgs) (rm : Mode) (rows : List AccRow) : List Byte × Nat :=
  match a.fn with
  | 5 => ((rows.map fun r => r.raw a.c).flatten, 0)
  | 4 =>
    let blocks := (rows.map fun r => (List.range (a.c / 32)).map fun b =>
      (MxElem.int a.prec).encode rm ((List.range 32).map fun i => r.value (32 * b + i)) []).flatten
    ((blocks.map fun x => planeBytes a.prec x.2.1).flatten ++ blocks.map fun x => BitVec.ofNat 8 x.1,
     unionFlags (blocks.map fun x => x.2.2))
  | _ =>
    let es := (rows.map fun r => (List.range a.c).map fun j => readElem a rm (r.value j)).flatten
    ((es.map Prod.fst).flatten, unionFlags (es.map Prod.snd))

/-- The size in bytes of what an MREAD of n rows writes. -/
def ReadArgs.size (a : ReadArgs) (n : Nat) : Nat :=
  match a.fn with
  | 0 => n * a.c * 4
  | 1 => n * a.c * 2
  | 2 => n * a.c * 2
  | 3 => n * a.c * 4
  | 4 => n * (a.c / 32) * (4 * a.prec + 1)
  | _ => n * (64 + 24 * a.c)

/-- The bytes of pieces of a range. -/
def splitBytes : List Access → List Byte → List (Access × List Byte)
  | [], _ => []
  | a :: as, bs => (a, bs.take a.size) :: splitBytes as (bs.drop a.size)

/-- The checks of a write that an array or lantern command makes (R211): no store of it parks. -/
def State.checkRange (s : State) (ag : Agent) (align va n : Nat) : Res (List Access × List Slot) := do
  let ps := pieces align .write .other [(va, n)] (n / 32 + 2) va n
  let ts ← s.checkAll ag ps
  .ok (ps, ts.map Slot.ready)

/-- The checks of a range that is read and written, steps 1 to 8 of R141 (R230, R348): those of a read, then those of a write. Whatever a write
may reach here, a deterministic launch may read (R275, R371), so a range in another core's holding is refused as a write is. -/
def State.checkBoth (s : State) (ag : Agent) (align va n : Nat) : Res Unit := do
  let _ ← s.checkAll { ag with det := false } (pieces align .read .scalar [] (n / 32 + 2) va n)
  let _ ← s.checkRange ag align va n
  .ok ()

/-- The plain stores of such a write, in program order after the thread's earlier ones. -/
def State.storeRange (s : State) (ps : List Access) (sl : List Slot) (bs : List Byte) : Res State := do
  let xs := splitBytes ps bs
  let st := storesOf xs xs sl
  .ok ((s.updThr fun t => { t with stores := t.stores ++ st }).traffic true (st.map fun p => .mem p.pa))

def mreadBody (fn : Nat) (x : CArgs) (s : State) : Res State := do
  let a := readArgs fn x.r.rm x.cmd
  refuseIf a.bad .planeRecord
  s.xaccWait
  let f := (s.thr.getS x.r.a).toNat
  let n := (s.thr.getS x.r.d).toNat
  a.rowFaults f n s.vc
  s.rowWait f n
  let (ps, sl) ← s.checkRange s.agent a.align (s.thr.getS x.r.b).toNat (a.size n)
  let rows := (List.range n).map fun i => s.vc.row (f + i)
  match a.chk, (List.range n).find? fun i => (s.vc.row (f + i)).anchor with
  | true, some i => raiseD .accAnchor (f + i)
  | _, _ => .ok ()
  let (bs, fl) := readOut a (s.thr.mode a.rm false) rows
  let t ← s.thr.raiseFlags [fl]
  let s1 ← (s.setThr t).storeRange ps sl bs
  .ok (if a.clr then (s1.updVc fun v => v.mapRows f n fun _ r => r.wipe).touchArray else s1)
def execMread (fn : Nat) (x : CArgs) (s : State) : Out := finishA 16 s (mreadBody fn x s)

/-! ## MADDRAW (R223) -/

/-- Whether a RAW row fits a target row. -/
def rawFits (r : AccRow) (bs : List Byte) : Bool :=
  decide (leNat (bs.take 2) = (r.e.signExtend 16).toNat) && (bitOf (leNat ((bs.drop 2).take 1)) 0 == r.pair) &&
  decide (leNat ((bs.drop 2).take 1) / 4 = 0) && decide (leNat ((bs.drop 3).take 13) = 0)

/-- A RAW row of C columns added to a row. -/
def AccRow.addRaw (r : AccRow) (c : Nat) (bs : List Byte) : AccRow :=
  let mask := fun off => BitVec.ofNat 128 (leNat ((bs.drop off).take 16) % 2 ^ c)
  let r1 := (List.range c).foldl (fun r j => r.addGrid j (leNat ((bs.drop (64 + 24 * j)).take 24))) r
  { r1 with nan := r1.nan ||| mask 16, posInf := r1.posInf ||| mask 32, negInf := r1.negInf ||| mask 48,
            anchor := r1.anchor || bitOf (leNat ((bs.drop 2).take 1)) 1 }

/-- The rows of a MADDRAW's source. -/
def rawRow (c i : Nat) (bs : List Byte) : List Byte := (bs.drop (i * (64 + 24 * c))).take (64 + 24 * c)

/-- Rows that fit receive their RAW rows (R223). -/
def VCore.addRaws (v : VCore) (f n c : Nat) (bs : List Byte) : VCore :=
  v.mapRows f n fun i r => if rawFits r (rawRow c i bs) then r.addRaw c (rawRow c i bs) else r

/-- Whether every row of the source fits its target. -/
def VCore.rawsFit (v : VCore) (f n c : Nat) (bs : List Byte) : Bool :=
  (List.range n).all fun i => rawFits (v.row (f + i)) (rawRow c i bs)

/-- A mismatch is found at issue or after it: a free choice (R223, log 6). -/
def maddrawBody (x : CArgs) (s : State) : Res State := do
  let c := x.cmd % 256
  refuseIf (decide (c = 0) || decide (128 < c)) .planeRecord
  s.xaccWait
  let f := (s.thr.getS x.r.c).toNat
  let n := (s.thr.getS x.r.d).toNat
  rowRange f n
  let saw := fun t : State => t.sawRange s.agent 1 (s.thr.getS x.r.a).toNat (n * (64 + 24 * c))
  let r ← s.fetchRange s.agent 1 (s.thr.getS x.r.a).toNat (n * (64 + 24 * c))
  match r with
  | .error (s1, e) => .ok ((saw s1).outstand f n (some e)).touchArray
  | .ok bs =>
    if s.vc.rawsFit f n c bs then .ok (((saw s).outstand f n none).touchArray.updVc fun v => v.addRaws f n c bs)
    else
      let (w, s1) := (saw s).freeWord
      if !w.getLsbD 0 then .error (.trapIn s1 ⟨.formatMismatch, 0, f⟩)
      else .ok ((s1.outstand f n (some ⟨.formatMismatch, 0, f⟩)).touchArray.updVc fun v => v.addRaws f n c bs)
def execMaddraw (x : CArgs) (s : State) : Out := finishA 16 s (maddrawBody x s)

/-! ## XACC (R224 to R226) -/

def xaccRow (r : RArgs) : Nat := r.x16 % 256
def xaccCol (r : RArgs) : Nat := r.x16 / 256 % 128

/-- ACC_RANGE of an active lane beyond the last column. -/
def xaccRange (r : RArgs) (act : W32) (last : Nat) : Res Unit :=
  refuseIfD ((activeLanes act).any fun i => decide (last < xaccCol r + i)) .accRange (xaccRow r)

/-- The contributions of the active lanes. -/
def xaccBody (r : RArgs) (val : W32 → FVal) (s : State) : Res State := do
  let act := s.thr.getM r.msk
  xaccRange r act 127
  let row := (activeLanes act).foldl (fun w i => w.contribute (xaccCol r + i) (val ((s.thr.getV r.a).lane i))) (s.vc.row (xaccRow r))
  .ok ((s.outstand (xaccRow r) 1 none).touchArray.updVc fun v => v.setRow (xaccRow r) row)
def execXaccXacc (r : RArgs) (s : State) : Out := finishE 8 s (xaccBody r (fun x => fp32.decode x.toNat) s)
def execXaccXacci (r : RArgs) (s : State) : Out := finishE 8 s (xaccBody r (fun x => FVal.ofInt x.toInt 0) s)

def xrndBody (r : RArgs) (s : State) : Res State := do
  let act := s.thr.getM r.msk
  let row := s.vc.row (xaccRow r)
  xaccRange r act (if row.pair then 63 else 127)
  s.thr.checkDestV r.d
  s.rowWait (xaccRow r) 1
  let rm := s.thr.mode r.rm false
  let res := (List.range 32).map fun i => if laneOn act i then fp32.round rm (row.value (xaccCol r + i)) else (0, 0)
  let t1 ← s.thr.raiseFlags (res.map Prod.snd)
  let t2 ← t1.writeV r.d act (Lanes.make fun i => BitVec.ofNat 32 (res[i]?.getD (0, 0)).1)
  .ok (s.setThr t2)
def execXaccXrnd (r : RArgs) (s : State) : Out := finishE 8 s (xrndBody r s)

/-! ## MCMD at its issuer (R227, R228) -/

/-- A command image as it stands in memory. -/
structure Image where
  kind : Nat
  fmt : Nat
  first : Nat
  n : Nat
  arg : Nat
  addr : Nat
  deriving DecidableEq, Repr

def imageOf (bs : List Byte) : Image :=
  let b := fun off n => leNat ((bs.drop off).take n)
  { kind := b 0 1, fmt := b 1 1, first := b 2 1, n := b 3 1 + 1, arg := b 4 4, addr := b 8 8 }

/-- The fields of R228. RM of an MREAD obeys R112 and R220. -/
def Image.ok (i : Image) : Bool :=
  match i.kind with
  | 1 => decide (i.fmt = 0) && decide (i.arg < 2048) && decide (i.addr = 0)
  | 2 => decide (i.fmt ≤ 5) && decide (i.arg / 2 ^ 14 % 4 = 0) && decide (i.arg < 2 ^ 20) &&
      (decide (i.arg / 2 ^ 16 ≤ 4) || decide (i.arg / 2 ^ 16 = 15)) && !(decide (i.fmt = 5) && decide (i.arg / 2 ^ 16 ≠ 0))
  | 3 => decide (i.fmt = 0) && decide (i.arg < 256)
  | _ => false

/-- The identity of the thread in focus (R18). -/
def State.ident (s : State) : Ident := { vcore := s.vc.id, lanes := s.thr.lanes, launch := s.thr.launch }

def mcmdBody (x : CArgs) (s : State) : Res State := do
  refuseIf s.thr.restartable .frameWindow
  let target := (s.thr.getS x.r.a).toNat
  refuseIfD (decide (s.nv ≤ target)) .mcmdTarget target
  let bs ← s.readRange s.agent 16 (s.thr.getS x.r.c).toNat 16
  let i := imageOf bs
  refuseIf (!i.ok) .recordInvalid
  let m : Mcmd :=
    { ident := s.ident, thread := s.thr.id, order := s.nextId, rmode := s.thr.rmode, target := target, channel := x.cmd % 4, cap := s.thr.getS x.r.b, kind := i.kind,
      fmt := i.fmt, first := i.first, count := i.n, arg := i.arg, addr := i.addr }
  let s1 := (s.sawRange s.agent 16 (s.thr.getS x.r.c).toNat 16).flush
  .ok ({ (s1.updCtx fun c => { c with mcmds := c.mcmds ++ [m] }) with nextId := s.nextId + 1 }.sentMsg 0)
def execMcmd (x : CArgs) (s : State) : Out := finishA 16 s (mcmdBody x s)

end Sys2Proof.Machine
end

