-- ==== Sys2Proof/Machine/Tile.lean ====
section
/-! DEFINITION. MTILE and its steps (R230 to R233). -/

namespace Sys2Proof.Machine

/-- The sequencer record (R230). -/
structure Seq where
  aplane : Nat
  ascale : Nat
  wplane : Nat
  wscale : Nat
  cap : Nat
  m : Nat
  n : Nat
  kb : Nat
  ap : Nat
  wp : Nat
  first : Nat
  flags : Nat
  member1 : Nat
  member2 : Nat
  res1 : Nat
  done : Nat
  state : Nat
  res2 : Nat
  deriving DecidableEq, Repr

def seqOf (bs : List Byte) : Seq :=
  let b := fun off n => leNat ((bs.drop off).take n)
  { aplane := b 0 8, ascale := b 8 8, wplane := b 16 8, wscale := b 24 8, cap := b 32 8, m := b 40 2, n := b 42 2, kb := b 44 2,
    ap := b 46 1, wp := b 47 1, first := b 48 1, flags := b 49 1, member1 := b 50 2, member2 := b 52 2, res1 := b 54 2,
    done := b 56 4, state := b 60 1, res2 := b 61 3 }

/-- SEQ_RECORD of R230. -/
def Seq.bad (r : Seq) : Bool :=
  decide (r.m = 0) || decide (256 < r.m) || decide (r.n = 0) || decide (384 < r.n) || decide (r.kb = 0) || decide (4096 < r.kb) ||
  decide (r.ap = 0) || decide (16 < r.ap) || decide (r.wp < 2) || decide (8 < r.wp) || decide (256 < r.first + r.m) ||
  decide (1 < r.flags) || decide (r.res1 ≠ 0) || decide (r.res2 ≠ 0) || decide (r.state = 2) || decide (3 < r.state)

/-- The members beyond the issuing core. -/
def Seq.members (r : Seq) (g : Nat) : List Nat := match g with | 1 => [] | 2 => [r.member1] | _ => [r.member1, r.member2]

/-- TILE_GROUP of R230. -/
def Seq.badGroup (r : Seq) (g self nv : Nat) : Bool :=
  decide ((r.n + 127) / 128 ≠ g) ||
  (r.members g).any (fun v => decide (nv ≤ v) || decide (v = self)) || (decide (g = 3) && decide (r.member1 = r.member2))

/-- KC, RG and the number of steps (R231). -/
def Seq.kc (r : Seq) : Nat := (r.kb + 3) / 4
def Seq.rg (r : Seq) : Nat := (r.m + 31) / 32
def Seq.group (r : Seq) : Nat := (r.n + 127) / 128
def Seq.steps (r : Seq) : Nat := r.kc * r.group * r.rg

/-- The identity of the issuing thread, whose steps' accesses are translated by walks of their own. -/
def State.stepAgent (s : State) : Agent := { s.agent with tlb := false }

/-- The bytes of DONE and STATE written. -/
def State.writeSeq (s : State) (off : Nat) (bs : List Byte) (ra : Nat) : Res State := do
  let (ps, sl) ← s.checkRange s.stepAgent bs.length (ra + off) bs.length
  let s1 ← s.storeRange ps sl bs
  .ok ((s1.markLeaf (ra + off) true).renew (ra + off)).flush

/-- The members of a group locked for the MTILE of the core in focus. -/
def State.lockMembers (s : State) (ms : List Nat) : State :=
  ms.foldl (fun s v => s.onVc v fun x => { x with groupLock := some s.vc.id }) s

/-- A core of the group is locked by the MTILE of another core, or of another thread of this one. -/
def State.groupBusy (s : State) (ms : List Nat) : Bool :=
  (match s.vc.tile with | some j => decide (j.thread ≠ s.thr.id) | none => false) ||
  ms.any fun v => match s.vcAt v with
    | some x => (match x.groupLock with | some o => decide (o ≠ s.vc.id) | none => false)
    | none => false

def mtileBody (g : Nat) (x : CArgs) (s : State) : Res State := do
  refuseIf s.thr.restartable .frameWindow
  refuseIf (decide (g = 0) || decide (3 < g)) .tileGroup
  s.xaccWait
  let ra := (s.thr.getS x.r.a).toNat
  s.checkBoth s.agent 64 ra 64
  let bs ← s.readRange s.agent 64 ra 64
  let r := seqOf bs
  refuseIf r.bad .seqRecord
  refuseIf (r.badGroup g s.vc.id s.nv) .tileGroup
  let seen := s.sawRange s.agent 64 ra 64
  if r.state = 3 then .ok seen
  else do
    let ms := s.vc.id :: r.members g
    waitIf (decide (s.ctx.preempt ≠ .none)) .mtile
    waitIf (s.groupBusy ms) .other
    let s1 ← (if r.state = 0 then do
        let s1 ← seen.writeSeq 56 (leBytes 4 0) ra
        s1.writeSeq 60 (leBytes 1 1) ra
      else .ok seen : Res State)
    let job : TileJob := { thread := s.thr.id, addr := ra, image := bs, step := if r.state = 0 then 0 else r.done, begun := [] }
    .error (.waitIn (((s1.lockMembers ms).updVc fun v => { v with tile := some job }).touchArray) .mtile)
def execMtile (fn : Nat) (x : CArgs) (s : State) : Out := finishA 16 s (mtileBody fn x s)

/-! ## A step (R231) -/

/-- What step s of a record covers: its K chunk, member, row group, blocks, columns and rows. -/
structure StepShape where
  kc : Nat
  m : Nat
  g : Nat
  blocks : Nat
  cols : Nat
  rows : Nat
  deriving DecidableEq, Repr

def Seq.shape (r : Seq) (n : Nat) : StepShape :=
  let kc := n / (r.group * r.rg)
  let m := n / r.rg % r.group
  let g := n % r.rg
  { kc := kc, m := m, g := g, blocks := min 4 (r.kb - 4 * kc), cols := min 128 (r.n - 128 * m), rows := min 32 (r.m - 32 * g) }

/-- Byte ranges gathered: each read starts at an address with its alignment. -/
def State.fetchParts (s : State) (align : Nat) : List (Nat × Nat) → Res (Except (State × LateErr) (List Byte))
  | [] => .ok (.ok [])
  | (va, n) :: rest => do
    let x ← s.fetchRange s.stepAgent align va n
    let y ← s.fetchParts align rest
    match x, y with
    | .ok a, .ok b => .ok (.ok (a ++ b))
    | .error e, _ => .ok (.error e)
    | _, .error e => .ok (.error e)

/-- Blocks of a tensor of rows of KB blocks: the parts of rows first to first + rows - 1 from block 4kc on. -/
def Seq.parts (r : Seq) (base unit first rows : Nat) (h : StepShape) : List (Nat × Nat) :=
  (List.range rows).map fun i => (base + ((first + i) * r.kb + 4 * h.kc) * unit, h.blocks * unit)

/-- The weights, where the step has an MLOADW (`loads`), and the activations that a step reads, checked before it is dispatched (R211, R231, R232). -/
def State.stepReads (s : State) (r : Seq) (h : StepShape) (loads : Bool) :
    Res (Except (State × LateErr) (List Byte × List Byte × List Byte × List Byte)) := do
  let wp ← s.fetchParts 4 (if loads then r.parts r.wplane (4 * r.wp) (128 * h.m) h.cols h else [])
  let ws ← s.fetchParts 1 (if loads then r.parts r.wscale 1 (128 * h.m) h.cols h else [])
  let ap ← s.fetchParts 4 (r.parts r.aplane (4 * r.ap) (32 * h.g) h.rows h)
  let sc ← s.fetchParts 1 (r.parts r.ascale 1 (32 * h.g) h.rows h)
  match wp, ws, ap, sc with
  | .ok a, .ok b, .ok c, .ok d => .ok (.ok (a, b, c, d))
  | .error e, _, _, _ => .ok (.error e)
  | _, .error e, _, _ => .ok (.error e)
  | _, _, .error e, _ => .ok (.error e)
  | _, _, _, .error e => .ok (.error e)

/-- What the reads of a step leave: their messages, and A in the leaves of their pages (R25, R361). -/
def State.sawPart (s : State) (align : Nat) (x : Nat × Nat) : State :=
  ((s.sawRange s.stepAgent align x.1 x.2).markRange x.1 x.2).renewRange x.1 x.2
def State.markStep (s : State) (r : Seq) (h : StepShape) (loads : Bool) : State :=
  let s1 := (if loads then r.parts r.wplane (4 * r.wp) (128 * h.m) h.cols h else []).foldl (State.sawPart · 4 ·) s
  let s2 := (if loads then r.parts r.wscale 1 (128 * h.m) h.cols h else []).foldl (State.sawPart · 1 ·) s1
  let s3 := (r.parts r.aplane (4 * r.ap) (32 * h.g) h.rows h).foldl (State.sawPart · 4 ·) s2
  (r.parts r.ascale 1 (32 * h.g) h.rows h).foldl (State.sawPart · 1 ·) s3

/-- The errors inside a step that end the tile for good (R233): an uncorrectable word of memory. -/
def tileSpoils (c : Cause) : Bool := decide (c = .sramUncorrectable) || decide (c = .poolError)

/-- The weights that an MLOADW of the step would load. -/
def Seq.loadw (r : Seq) (h : StepShape) : LoadW := { n := h.cols, kb := h.blocks, wp := r.wp, sparse := false, wsplit := false }

/-- Whether a step of a member has an MLOADW (R231): of the first row group, the member's first since MTILE started, or one whose bank is empty. -/
def VCore.loads (v : VCore) (h : StepShape) (begun : List Nat) : Bool :=
  decide (h.g = 0) || !begun.contains h.m || (v.bank (h.kc % 2)).isNone

/-- The effect of a step on its member (R231). -/
def VCore.tileStep (v : VCore) (r : Seq) (h : StepShape) (loads : Bool) (x : List Byte × List Byte × List Byte × List Byte) : VCore :=
  let k := h.kc % 2
  let v1 := if loads then v.setBank k ((r.loadw h).tile x.1 x.2.1) else v
  match v1.bank k with
  | some b => v1.stream b r.ap h.blocks (r.first + 32 * h.g) h.rows x.2.2.1 x.2.2.2
  | none => v1

/-- The MTILE of the thread in focus ends: its group is unlocked. -/
def State.endTile (s : State) : State := s.dropJobs

/-- One step of the running MTILE of the thread in focus: the state after it, where the instruction goes on (R232, R233). -/
def mtileStepBody (j : TileJob) (s : State) : Res State := do
  let r := seqOf j.image
  if r.steps ≤ j.step then do
    let s1 ← s.writeSeq 60 (leBytes 1 3) j.addr
    .ok s1.endTile
  else do
    let h := r.shape j.step
    let ms := s.vc.id :: r.members r.group
    let v := ms[h.m]?.getD 0
    match s.vcAt v with
    | none => raiseD .mcmdReject h.m
    | some target => do
      let loads := target.loads h j.begun
      let x ← s.stepReads r h loads
      let cap := BitVec.ofNat 64 r.cap
      refuseIfD (decide (h.m ≠ 0) && (decide (cap = 0) || !target.mkeys.toList.contains cap)) .mcmdReject h.m
      refuseIfD ((List.range h.rows).any fun i => (target.row (r.first + 32 * h.g + i)).pair) .formatMismatch (r.first + 32 * h.g)
      match x with
      | .error (s0, e) => do
        let s1 ← (if tileSpoils e.cause then s0.writeSeq 60 (leBytes 1 2) j.addr else .ok s0)
        .error (.trapIn s1 ⟨e.cause, e.faddr, e.fdetail⟩)
      | .ok d => do
        let s1 := (s.markStep r h loads).onVc v fun t => t.tileStep r h loads d
        let s2 := if h.m = 0 then s1 else (s1.sentMsg 0).receivedMsg v 0
        let s3 ← s2.writeSeq 56 (leBytes 4 (j.step + 1)) j.addr
        let s4 := s3.updVc fun v => { v with tile := some { j with step := j.step + 1, begun := h.m :: j.begun } }
        if j.step + 1 = r.steps then do
          let s5 ← s4.writeSeq 60 (leBytes 1 3) j.addr
          .ok s5.endTile
        else .error (.waitIn s4 .mtile)

/-- MTILE_STEP: the running MTILE of the thread named by the request makes its next step. -/
def execMtileStep (s0 : State) : Out :=
  let s := s0.focus s0.req.t
  match s.vc.tile with
  | some j =>
    if s.ctx.goesOn && decide (s.thr.status = .running) && decide (s.thr.waitA = .mtile) && decide (j.thread = s.thr.id) then finishA 16 s (mtileStepBody j s)
    else .next s0
  | none => .next s0

end Sys2Proof.Machine
end

