-- ==== Sys2Proof/Machine/Gw.lean ====
section
/-! DEFINITION. What the hardware reads by itself from a context's memory, pool records (R81), and GW (R234 to R248). -/

namespace Sys2Proof.Machine

/-! ## Pool records -/

/-- The object of the running launch (R81). -/
def State.launchObj (s : State) : Option Obj :=
  match s.launchOf with
  | some l => s.ctx.objects.find? fun o => decide (o.handle = l.object)
  | none => none

/-- The bus address of what the thread in focus reads where no holding keeps it from it: translated by the TLB, of a readable class and under a
loaded key (R360, R363, R372). -/
def State.recordBus (s : State) (a : Access) : Res Nat := do
  let (pte, pa) ← s.translate s.agent a
  permCheck pte a
  s.keyCheck pte pa a
  .ok (busOf (pteSlot pte) pa)

/-- Where such a read goes: to the value of a window, the backing block of a view, or memory (R17, R244). -/
def State.recordTarget (s : State) (a : Access) : Res Target :=
  match findWindow s.windows a.va with
  | some w =>
    if w.kind = 6 then do
      let pa ← viewFault a.va (s.recordBus (a.backing w))
      .ok (.conv w pa)
    else .ok (.gen w)
  | none => do
    let pa ← s.recordBus a
    .ok (.mem pa)

/-- The bytes of such a read. -/
def State.recordRead (s : State) (va size : Nat) : Res (List Byte) := do
  let t ← s.recordTarget (readAcc va size)
  s.readTarget { s.agent with thread := false } (readAcc va size) t

/-- The bytes of a pool record of 32 or 64 bytes (R81): RECORD_INDEX names the pool index. A pool page that has no translation parks the
thread. -/
def State.poolRead (s : State) (idx size : Nat) : Res (List Byte) :=
  match s.launchObj with
  | none => raiseD .recordIndex idx
  | some o =>
    if o.poolCount < idx + size / 32 || (decide (size = 64) && decide (idx % 2 = 1)) then raiseD .recordIndex idx
    else s.recordRead (o.pool + 32 * idx) size

/-- What the read of a pool record leaves: its messages (R25). -/
def State.sawRecord (s : State) (idx size : Nat) : State :=
  match s.launchObj with
  | none => s
  | some o => match s.recordTarget (readAcc (o.pool + 32 * idx) size) with
    | .ok t => s.traffic false [t]
    | .error _ => s

/-! ## The window record (R235 to R243) -/

/-- The entry that a record and the overrides of R246 give, before F is read. -/
def windowOf (bs : List Byte) (base p1 : Option Nat) (version : W32) : Window where
  isSet := true
  version := version
  base := base.getD (fieldAt bs 0 8)
  lsize := fieldAt bs 8 1
  kind := fieldAt bs 9 1
  fmt := fieldAt bs 10 1
  p := (List.range 13).map fun k => if k = 1 then p1.getD (fieldAt bs 16 4) else fieldAt bs (12 + 4 * k) 4
  freq := []

/-- The parameters that a kind does not list are zero. -/
def Window.zeroFrom (w : Window) (n : Nat) : Bool := (w.p.drop n).all fun x => decide (x = 0)

/-- An FP32 parameter that is finite. -/
def finitePar (x : Nat) : Bool := match fp32.decode x with | .fin _ _ _ => true | _ => false

/-- KIND, FMT and the parameters as R238 and R243 allow them. -/
def Window.parsOk (w : Window) : Bool :=
  let fl := decide (6 ≤ w.fmt) && decide (w.fmt ≤ 8)
  match w.kind with
  | 1 => decide (w.fmt ≤ 8) && w.zeroFrom 2 && (!fl || (finitePar (w.par 0) && finitePar (w.par 1)))
  | 2 => decide (w.fmt ≤ 8) && w.zeroFrom 4 && decide (1 ≤ w.par 3) &&
      (!fl || (finitePar (w.par 0) && finitePar (w.par 1) && finitePar (w.par 2)))
  | 3 => decide (w.fmt ≤ 8) && w.zeroFrom 6 && decide (1 ≤ w.par 0) && decide (w.par 2 < 2 ^ (8 * winSize w.fmt)) &&
      decide (w.par 3 < 2 ^ (8 * winSize w.fmt))
  | 4 => fl && w.zeroFrom 4 && decide (1 ≤ w.par 0) && decide (w.par 0 ≤ 512) && decide (w.par 2 % 4 = 0)
  | 5 => ((decide (w.fmt = 4) && decide (w.par 4 = 0)) || (decide (w.fmt = 8) && decide (w.par 4 = 1)) ||
      (decide (w.fmt = 2) && decide (w.par 4 = 2))) && w.zeroFrom 5 && decide (w.par 0 ≤ 1) &&
      (decide (w.par 0 = 0) || (decide (w.par 2 = 0) && decide (w.par 3 = 0)))
  | 6 => (decide (w.fmt = 7) || decide (w.fmt = 8)) && w.zeroFrom 4 && decide (w.par 0 % 64 = 0) && decide (w.par 2 ≤ 5) &&
      decide (w.par 3 = w.fmt)
  | _ => false

/-- WINDOW_CONFIG of R248 step 6 for entry `n`. -/
def Window.bad (w : Window) (n flags : Nat) (all : List Window) : Bool :=
  decide (w.base % 65536 ≠ 0) || decide (w.lsize < 16) || decide (40 < w.lsize) || decide (2 ^ 56 < w.base + 2 ^ w.lsize) ||
  decide (w.base < 0x1000000) || decide (flags ≠ 0) || !w.parsOk ||
  (List.range 16).any fun k => decide (k ≠ n) &&
    match all[k]? with
    | some x => x.isSet && meets w.base (2 ^ w.lsize) x.base (2 ^ x.lsize)
    | none => false

/-- F of a ROTARY window (R241): a read of 4P bytes. -/
def State.rotaryTable (s : State) (w : Window) : Res (List Nat) :=
  if w.kind = 4 && decide (1 ≤ w.par 0) && decide (w.par 0 ≤ 512) then do
    let bs ← s.readRange s.agent 4 (w.par 2 + 2 ^ 32 * w.par 3) (4 * w.par 0)
    .ok (wordsAt bs 0 (w.par 0))
  else .ok []

/-- What that read leaves. -/
def State.sawRotary (s : State) (w : Window) : State :=
  if w.kind = 4 then s.sawRange s.agent 4 (w.par 2 + 2 ^ 32 * w.par 3) (4 * w.par 0) else s

/-! ## GW (R246 to R248) -/

def gwWindow (r : RArgs) : Nat := r.x16 / 4096
/-- An entry of the window table. -/
def State.winEntry (s : State) (n : Nat) : Window := s.ctx.windows[n]?.getD Window.clear
def State.setWin (s : State) (n : Nat) (w : Window) : State := s.updCtx fun c => { c with windows := c.windows.setIfInBounds n w }

/-- The new VERSION written to the entry and to sD. -/
def State.putWindow (s : State) (d n : Nat) (w : Window) : Res State := (s.setWin n w).writeS d (w.version.setWidth 64)

/-- Every older access of the thread in focus performed, those of its E-stream too (R247). -/
def State.allPerformed (s : State) : Res State := do
  s.pathWait isEmuMem
  s.performed

def gwsetBody (r : RArgs) (s : State) : Res State := do
  refuseIf s.thr.restartable .frameWindow
  refuseIf s.det .nondetOp
  s.thr.checkDest r.d
  let n := gwWindow r
  let bs ← s.poolRead (r.x16 % 4096) 64
  let w := windowOf bs (if r.a = 0 then none else some (s.thr.getS r.a).toNat)
    (if r.b = 0 then none else some ((s.thr.getS r.b).toNat % 2 ^ 32)) ((s.winEntry n).version + 1)
  let s1 ← s.allPerformed
  let f ← s1.rotaryTable w
  refuseIfD (w.bad n (fieldAt bs 11 1) s1.windows) .windowConfig n
  ((s1.sawRecord (r.x16 % 4096) 64).sawRotary w).putWindow r.d n { w with freq := f }
def execGwGwset (r : RArgs) (s : State) : Out := finishA 8 s (gwsetBody r s)

def gwclrBody (r : RArgs) (s : State) : Res State := do
  refuseIf s.thr.restartable .frameWindow
  refuseIf s.det .nondetOp
  s.thr.checkDest r.d
  let n := gwWindow r
  let s1 ← s.allPerformed
  s1.putWindow r.d n { Window.clear with version := (s1.winEntry n).version + 1 }
def execGwGwclr (r : RArgs) (s : State) : Out := finishA 8 s (gwclrBody r s)

def gwverVal (r : RArgs) (s : State) : W64 :=
  let w := s.winEntry (gwWindow r)
  BitVec.ofNat 64 (w.version.toNat + 2 ^ 32 * b2n w.isSet)
def execGwGwver (r : RArgs) (s : State) : Out := finishA 8 s (scalarOp r.d (gwverVal r) s)

end Sys2Proof.Machine
end

