-- ==== Sys2Proof/Machine/Deque.lean ====
section
/-! DEFINITION. The checks of task records (R305), placement (R323, R324), the launch join (R310), the ends of lanes (R314), and what the
hardware reads by itself. -/

namespace Sys2Proof.Machine

/-! ## Records (R305) -/

/-- A registered entry of the context (R305). -/
def Ctx.isEntry (c : Ctx) (code : Nat) : Bool := c.objects.any fun o => o.entries.contains code

/-- What of a record extends past the arena, or is reserved and not zero (R305). -/
def recordBad (framesize : Nat) (bs : List Byte) : Bool :=
  let w := fieldAt bs 0 8
  let t := taskOf bs
  decide (w / 2 ^ 57 % 8 ≠ 0) || decide (w % 32 ≠ 0) || decide (t.frame % 16 ≠ 0) || decide (framesize < t.frame + 16 * t.fsize) ||
  (decide (t.result ≠ offNone) && decide (framesize < t.result + 2 ^ t.rs)) ||
  (decide (t.join ≠ offNone) && decide (t.join ≠ joinLaunch) && decide (framesize < t.join + 32))

/-- The check of R305 on a record, with the address or detail that the caller names. -/
def Ctx.recordCause (c : Ctx) (bs : List Byte) : Option Cause :=
  if !c.isEntry (taskOf bs).code then some .badCodePointer
  else if recordBad c.framesize.toNat bs then some .recordInvalid
  else none

/-- HASH: the virtual core of a key (R323). -/
def hashCore (key nv : Nat) : Nat := key / 2 ^ 32 * nv / 2 ^ 32

/-- The key of child i (R323). -/
def childKey (key i : Nat) : Nat := (key * 0x9E3779B97F4A7C15 + i + 1) % 2 ^ 64

/-! ## What the hardware reads by itself -/

/-- A byte that the hardware reads from the context's memory: of a window its value (R17, R245). -/
def State.hwByte (s : State) (va : Nat) (own : Bool := false) : Option Byte :=
  match findWindow s.windows va with
  | none => (s.hwBus .read va own).toOption.map s.busByte
  | some w =>
    if w.kind = 6 then
      let (b, vb) := w.backing va
      ((List.range (mxKind (w.par 2)).2.2.2).mapM fun i => (s.hwBus .read (b + i) own).toOption.map s.busByte).bind fun bs =>
        (w.viewBlock bs)[(va - w.base) % vb]?
    else some (w.byte va)

/-- Bytes that the hardware reads from the context's memory. -/
def State.hwRead (s : State) (va n : Nat) (own : Bool := false) : Option (List Byte) := (List.range n).mapM fun i => s.hwByte (va + i) own

/-- What a read by a core itself at an address of the context meets, if it fails: the cause and its detail. -/
def State.hwFails (s : State) (va : Nat) : Option (Cause × Nat) :=
  match findWindow s.windows va with
  | some _ => none
  | none => match s.hwBus .read va true with
    | .error e => some e
    | .ok _ => none

/-- A write that the core in focus makes by itself, with its messages (R25) and with no older translation of it left (R366). -/
def State.coreWrite (s : State) (va : Nat) (bs : List Byte) : State :=
  ((s.hwTraffic s.vc.phys true va).hwWrite va bs true).renew va

/-- What a read that the core in focus makes by itself leaves: its messages, A in the leaves, and no older translation (R25, R361, R366). -/
def State.coreSaw (s : State) (va n : Nat) : State := ((s.hwTraffic s.vc.phys false va).markRange va n).renewRange va n

/-- A completion word (R308). -/
def State.completionWord (s : State) (va : Nat) (x : W64) : State := if va = 0 then s else s.hwWrite va (leBytes 8 x.toNat)

/-- The launch join of a launch decreased: at zero DONEVAL is written (R310). -/
def State.launchDec (s : State) (l : Nat) : State :=
  match SMap.find s.ctx.launches l with
  | none => s
  | some x =>
    if x.join = 0 then s
    else
      let s1 := s.updCtx fun c => { c with launches := SMap.put c.launches l { x with join := x.join - 1 } }
      if x.join = 1 then s1.completionWord x.doneAddr x.doneVal else s1

/-! ## Ending a lane (R314) -/

/-- What the end of a lane notes: a cause with the join record's address. -/
abbrev Noted := Option LateErr

/-- The decrement of a join record at `j`: the atomic, translated by a walk, and the enqueue of the continuation by the last one. A near address
names the core's own slice (R15). -/
def State.joinDec (s : State) (j : Nat) : State × Noted :=
  match s.hwRead j 32 true with
  | none => (s, some ⟨.joinUnderflow, j, 0⟩)
  | some bs =>
    let t := taskOf bs
    if t.count = 0 then (s, some ⟨.joinUnderflow, j, 0⟩)
    else
      let s1 := s.coreWrite (j + 8) (leBytes 4 (t.fsize * 2 ^ 20 + (t.count - 1)))
      if t.count ≠ 1 then (s1, none)
      else match s.ctx.recordCause bs with
        | some c => (s1, some ⟨c, j, 0⟩)
        | none =>
          let v := if s.det then hashCore t.key s.nv else s.vc.id
          (s1.enqueue v s.thr.launch (if s.det then 0 else 3) [{ t with count := 0 }], none)

/-- A lane that finishes. -/
def State.endLane (s : State) (l : LaneRec) : State × Noted :=
  if l.joined then (s, none)
  else if l.task.join = joinLaunch then (s.launchDec s.thr.launch, none)
  else if l.task.join = offNone then (s, none)
  else s.joinDec (s.ctx.framebase.toNat + l.task.join)

end Sys2Proof.Machine
end

