-- ==== Sys2Proof/Machine/Copy.lean ====
section
/-! DEFINITION. COPY and COPYM (R289 to R303): their records, their checks at issue, and the engine that carries them out. -/

namespace Sys2Proof.Machine

/-! ## Formats (R290) -/

def isMxFmt (f : Nat) : Bool := (decide (16 ≤ f) && decide (f ≤ 20)) || (decide (32 ≤ f) && decide (f ≤ 47))
def isIntFmt (f : Nat) : Bool := decide (f ≤ 5) || decide (f = 9) || decide (f = 10)
def fmtValid (f : Nat) : Bool := decide (f ≤ 12) || isMxFmt f

/-- The bytes of one unit. -/
def fmtUnit (f : Nat) (plane : Bool) : Nat :=
  match f with
  | 0 | 1 | 11 | 12 => 1
  | 2 | 3 | 6 | 7 => 2
  | 4 | 5 | 8 => 4
  | 9 | 10 => 8
  | 16 | 17 => 32
  | 18 | 19 => 24
  | 20 => 16
  | _ => if plane then 4 * (f - 31) else 32

/-- The conversion format of a format that is no MX one. -/
def fmtCvt (f : Nat) : CvtFmt :=
  match f with
  | 0 => .int 8 false
  | 1 => .int 8 true
  | 2 => .int 16 false
  | 3 => .int 16 true
  | 4 => .int 32 false
  | 5 => .int 32 true
  | 6 => .float fp16
  | 7 => .float bf16
  | 8 => .float fp32
  | 9 => .int 64 false
  | 10 => .int 64 true
  | 11 => .float e4m3
  | _ => .float e5m2

/-- The element format of an MX format, and the bits of an element. -/
def fmtMx (f : Nat) : MxElem × Nat :=
  match f with
  | 16 => (.float e4m3, 8)
  | 17 => (.float e5m2, 8)
  | 18 => (.float e3m2, 6)
  | 19 => (.float e2m3, 6)
  | 20 => (.float e2m1, 4)
  | _ => (.int (f - 31), f - 31)

/-! ## Records (R289, R292) -/

/-- A signed 32-bit field of a record. -/
def fieldS (bs : List Byte) (off : Nat) : Int := toSigned 32 (fieldAt bs off 4)

/-- The tensor of a record, with BASEREG resolved. -/
def tensorOf (t : Thread) (bs : List Byte) : Tensor :=
  let rank := fieldAt bs 9 1
  { base := if bitOf (fieldAt bs 10 2) 0 then (t.getS (fieldAt bs 0 8 % 64)).toNat else fieldAt bs 0 8
    fmt := fieldAt bs 8 1
    rank := rank
    plane := bitOf (fieldAt bs 10 2) 1
    fill := fieldAt bs 12 4
    ext := (List.range 5).map fun d => if d < rank then fieldAt bs (16 + 4 * d) 4 else 1
    stride := (List.range 5).map fun d => fieldS bs (36 + 4 * d)
    scaleOff := fieldS bs 56 }

def Tensor.dim (t : Tensor) (d : Nat) : Nat := t.ext[d]?.getD 1
def Tensor.step (t : Tensor) (d : Nat) : Int := t.stride[d]?.getD 0
def Tensor.unit (t : Tensor) : Nat := fmtUnit t.fmt t.plane
def Tensor.mx (t : Tensor) : Bool := isMxFmt t.fmt
def Tensor.empty (t : Tensor) : Bool := t.ext.any fun n => decide (n = 0)

/-- The range of a tensor relative to BASE: its lowest byte, and the byte after its highest one, those of the scale array of an MX tensor
among them (R291). -/
def Tensor.hull (t : Tensor) : Int × Int :=
  let n := fun d => (if t.mx && decide (d = 0) then t.dim 0 / 32 else t.dim d : Nat)
  let ds := (List.range 5).map fun d => ((n d : Int) - 1) * t.step d
  let lo := (ds.map fun x => min 0 x).sum
  let hi := (ds.map fun x => max 0 x).sum + t.unit
  if t.mx then (min lo t.scaleOff, max hi (t.scaleOff + t.ext.prod / 32)) else (lo, hi)

/-- The range of a tensor (R294): the address of its lowest byte, and the bytes from there to its highest one; empty for an empty tensor. -/
def Tensor.range (t : Tensor) : Nat × Nat :=
  (wrapNat 64 (t.base + t.hull.1), if t.empty then 0 else (t.hull.2 - t.hull.1).toNat)

/-- Whether a range, modulo 2^64, meets a window. -/
def Window.meetsRange (w : Window) (r : Nat × Nat) : Bool :=
  w.isSet && decide (r.2 ≠ 0) && (meets r.1 r.2 w.base (2 ^ w.lsize) || (decide (2 ^ 64 < r.1 + r.2) && meets 0 (r.1 + r.2 - 2 ^ 64) w.base (2 ^ w.lsize)))

/-- Whether a range lies inside a window. -/
def Window.holds (w : Window) (r : Nat × Nat) : Bool := w.isSet && decide (w.base ≤ r.1) && decide (r.1 + r.2 ≤ w.base + 2 ^ w.lsize)

/-- RECORD_INVALID of R289 to R291. -/
def Tensor.bad (t : Tensor) (bs : List Byte) (isDst : Bool) (ws : List Window) : Bool :=
  let flags := fieldAt bs 10 2
  let raw := fun d => fieldAt bs (16 + 4 * d) 4
  !fmtValid t.fmt || decide (t.rank = 0) || decide (5 < t.rank) || decide (8 ≤ flags) ||
  (bitOf flags 0 && decide (64 ≤ fieldAt bs 0 8)) ||
  (t.plane && !(decide (32 ≤ t.fmt) && decide (t.fmt ≤ 47))) ||
  (decide (32 ≤ t.fmt) && decide (t.fmt ≠ 39) && !t.plane) ||
  ((List.range 5).any fun d => decide (t.rank ≤ d) && (decide (raw d ≠ 0) || decide (t.step d ≠ 0))) ||
  decide (fieldAt bs 60 4 ≠ 0) ||
  (if t.mx then decide (t.dim 0 % 32 ≠ 0)
   else decide (t.scaleOff ≠ 0) || decide (t.base % t.unit ≠ 0) || t.stride.any fun x => decide (x % (t.unit : Int) ≠ 0)) ||
  (bitOf flags 2 && (isDst || !(decide (t.range.2 = 0) || ws.any fun w => w.holds t.range)))

/-- The box of a record. -/
def boxOf (bs : List Byte) : Box where
  ext := (List.range 5).map fun d => fieldAt bs (4 * d) 4
  perm := (List.range 5).map fun d => fieldAt bs 20 2 / 2 ^ (3 * d) % 8
  rm := fieldAt bs 22 1

def Box.dim (b : Box) (d : Nat) : Nat := b.ext[d]?.getD 1
def Box.permOf (b : Box) (d : Nat) : Nat := b.perm[d]?.getD 0
/-- The extent of the box along destination dimension d. -/
def Box.dstDim (b : Box) (d : Nat) : Nat := b.dim (b.permOf d)

/-- RECORD_INVALID of R292. -/
def Box.bad (b : Box) (bs : List Byte) (srcRank dstRank : Nat) : Bool :=
  !((List.range 5).all fun d => b.perm.contains d) || decide (2 ^ 15 ≤ fieldAt bs 20 2) || decide (4 < b.rm) ||
  ((bs.drop 23).take 9).any (fun x => decide (x ≠ 0)) ||
  ((List.range 5).any fun k => decide (srcRank ≤ k) && decide (b.dim k ≠ 1)) ||
  ((List.range 5).any fun d => decide (dstRank ≤ d) && decide (b.dstDim d ≠ 1)) || decide (2 ^ 32 < b.ext.prod)

/-! ## The checks at issue (R294) -/

/-- The pool indexes of CMD64. -/
def srcIdx (x : CArgs) : Nat := x.cmd % 4096
def dstIdx (x : CArgs) : Nat := x.cmd / 2 ^ 12 % 4096
def boxIdx (x : CArgs) : Nat := x.cmd / 2 ^ 24 % 4096

/-- CONVERT_INVALID (R296). -/
def convertBad (src dst : Tensor) : Bool :=
  (isIntFmt src.fmt && dst.mx) || (src.mx && isIntFmt dst.fmt) || decide (dst.fmt = 32)

/-- The blocks of an MX destination are whole (R296). -/
def blocksBad (dst : Tensor) (b : Box) : Bool := dst.mx && decide (b.dstDim 0 % 32 ≠ 0)

/-- Steps 2 to 4: the tensors, the box, and whether the destination's BASE is the record's own. -/
def copyRecords (x : CArgs) (s : State) : Res (Tensor × Tensor × Box × Option Nat) := do
  let sb ← s.poolRead (srcIdx x) 64
  let db ← s.poolRead (dstIdx x) 64
  let bb ← s.poolRead (boxIdx x) 32
  let src := tensorOf s.thr sb
  let dst := tensorOf s.thr db
  let box := boxOf bb
  refuseIfD (src.bad sb false s.windows) .recordInvalid (srcIdx x)
  refuseIfD (dst.bad db true s.windows) .recordInvalid (dstIdx x)
  refuseIfD (box.bad bb src.rank dst.rank || blocksBad dst box) .recordInvalid (boxIdx x)
  refuseIfD (decide (2 ^ 60 ≤ (s.thr.getS x.r.a).toNat) || decide (2 ^ 60 ≤ (s.thr.getS x.r.b).toNat)) .recordInvalid (srcIdx x)
  refuseIf (convertBad src dst) .convertInvalid
  .ok (src, dst, box, if bitOf (fieldAt db 10 2) 0 then none else some (fieldAt db 0 8))

/-- What the reads of the records leave. -/
def State.sawRecords (s : State) (x : CArgs) : State := ((s.sawRecord (srcIdx x) 64).sawRecord (dstIdx x) 64).sawRecord (boxIdx x) 32

/-- Step 5: WINDOW_STORE names the lowest byte of the destination. -/
def windowStoreCheck (dst : Tensor) (s : State) : Res Unit :=
  if s.windows.any fun w => w.meetsRange dst.range then raiseA .windowStore dst.range.1 0 else .ok ()

/-- The agent that a completion word is checked for: where a live lane is RESTARTABLE, such lanes alone, whose writes are held to their result
slots (R306, R370). -/
def State.wordAgent (s : State) : Agent :=
  if s.thr.restartable then { s.agent with lanes := s.thr.lanes.filter fun l => l.task.restart } else s.agent

/-- Steps 6 and 7 of a COPY: the completion word's check, or the task record. -/
def completionCheck (spawn : Bool) (word : Nat) (s : State) : Res (Option TaskRec) :=
  if word = 0 then .ok none
  else if spawn then do
    let a := readAcc word 32
    let t ← s.check s.agent a
    let bs ← s.readTarget s.agent a t
    match s.ctx.recordCause bs with
    | some .badCodePointer => raiseA .badCodePointer (taskOf bs).code 0
    | some c => raiseA c word 0
    | none => do
      refuseIf (decide ((taskOf bs).count ≠ 0)) .recordInvalid
      .ok (some (taskOf bs))
  else do
    let _ ← s.check s.wordAgent (writeAcc word 8)
    .ok none

/-- A copy put in flight, with its token counted (R282, R294). -/
def State.addCopy (s : State) (j : CopyJob) : State :=
  let s1 := (s.updCtx fun c => { c with copies := SMap.put c.copies j.order j }).updThr fun t =>
    t.setK j.token { t.getK j.token with count := (t.getK j.token).count + 1 }
  { s1 with nextId := s1.nextId + 1 }

/-- The token of a copy (R293): it waits where its COUNT is 255 (R282). -/
def tokenRoom (x : CArgs) (s : State) : Res Unit := waitIf (decide (255 ≤ (s.thr.getK x.r.msk).count)) .other

def copyBody (fn : Nat) (x : CArgs) (s : State) : Res State := do
  let spawn := bitOf fn 2
  refuseIf (spawn && s.thr.restartable) .frameWindow
  let (src, dst, box, _) ← copyRecords x s
  windowStoreCheck dst s
  let word := (s.thr.getS x.r.c).toNat
  let rec? ← completionCheck spawn word s
  tokenRoom x s
  let s1 := ((if spawn && decide (word ≠ 0) then s.sawRange s.agent 32 word 32 else s).sawRecords x).flush
  .ok (s1.addCopy
    { ident := s.ident, thread := s.thr.id, firing := s.thr.firing, token := x.r.msk, src := src, dst := dst, box := box,
      srcOrigin := (s.thr.getS x.r.a).toNat, dstOrigin := (s.thr.getS x.r.b).toNat, acq := bitOf fn 0, rel := bitOf fn 1,
      scope := x.r.ty, word := if spawn then 0 else word, value := s.thr.getS x.r.d, spawn := rec?, members := none, landing := 0,
      order := s.nextId, windows := s.windows, serving := 0, pos := 0, stop := none, suspended := false })
def execCopy (fn : Nat) (x : CArgs) (s : State) : Out := finishA 16 s (copyBody fn x s)

/-! ## COPYM (R300, R303) -/

/-- The virtual cores that MEMBERS names. -/
def copymMembers (x : CArgs) (self : Nat) : List Nat :=
  ((List.range 24).filter fun i => bitOf (x.cmd / 2 ^ 36) i).map fun i => 24 * (self / 24) + i

/-- MULTICAST_GROUP of R300. -/
def copymBad (x : CArgs) (base : Option Nat) (s : State) : Bool :=
  let d := (s.thr.getS x.r.d).toNat
  (copymMembers x s.vc.id).isEmpty || (copymMembers x s.vc.id).any (fun v => decide (s.nv ≤ v)) || decide (s.thr.getS x.r.c = 0) ||
  decide (d = 0) || (match base with | some b => decide (0x3C0000 ≤ b) | none => false) || decide (d % 8 ≠ 0) || decide (0x3C0000 ≤ d)

def copymBody (fn : Nat) (x : CArgs) (s : State) : Res State := do
  refuseIf s.thr.restartable .frameWindow
  let (src, dst, box, base) ← copyRecords x s
  refuseIf (copymBad x base s) .multicastGroup
  windowStoreCheck dst s
  let mailbox := (s.thr.getS x.r.c).toNat
  let _ ← s.check s.agent (atomicAcc mailbox 8 false)
  waitIf (decide (4 ≤ s.vc.copyms.length)) .other
  tokenRoom x s
  let ms := copymMembers x s.vc.id
  let s1 := (s.sawRecords x).flush.updVc fun v =>
    { v with copyms := v.copyms ++ [{ order := s.nextId, members := ms, mailbox := mailbox, scope := x.r.ty }] }
  .ok (s1.addCopy
    { ident := s.ident, thread := s.thr.id, firing := s.thr.firing, token := x.r.msk, src := src, dst := dst, box := box,
      srcOrigin := (s.thr.getS x.r.a).toNat, dstOrigin := (s.thr.getS x.r.b).toNat, acq := bitOf fn 0, rel := bitOf fn 1,
      scope := x.r.ty, word := 0, value := 0, spawn := none, members := some ms, landing := (s.thr.getS x.r.d).toNat,
      order := s.nextId, windows := s.windows, serving := 0, pos := 0, stop := none, suspended := false })
def execCopym (fn : Nat) (x : CArgs) (s : State) : Out := finishA 16 s (copymBody fn x s)

/-! ## The engine's accesses (R298) -/

/-- The engine as an agent with the issuer's identity, and for a member's addresses with the member's (R301). -/
def State.engine (s : State) (i : Ident) : Agent :=
  { vcore := i.vcore, lanes := i.lanes, det := (match SMap.find s.ctx.launches i.launch with | some l => l.det | none => false), thread := false,
    tlb := false
    estream := false }

/-- The checked pieces of a read of the source. -/
def State.engineSource (s : State) (j : CopyJob) (align va n : Nat) : Res (List (Access × Target)) :=
  (pieces align .read .scalar [] (n / 32 + 2) va n).mapM fun a => do
    let t ← s.checkIn j.windows (s.engine j.ident) a
    .ok (a, t)

/-- A read of the source. -/
def State.engineRead (s : State) (j : CopyJob) (align va n : Nat) : Res (List Byte) := do
  let ps ← s.engineSource j align va n
  let bss ← ps.mapM fun x => s.readTarget (s.engine j.ident) x.1 x.2
  .ok bss.flatten

/-- What a read of the source leaves: A in the leaves, and the messages that count at the issuing core (R25). -/
def State.engineSaw (s : State) (j : CopyJob) (align va n : Nat) : State :=
  match s.engineSource j align va n with
  | .ok ps => (ps.foldl State.markSource s).trafficOf s.vc.phys false (ps.map Prod.snd)
  | .error _ => s

/-- A write checked with a member's identity: a near address of its own, in a holding that it holds (R301). -/
def State.memberCheck (s : State) (v : Nat) (a : Access) : Res Nat := do
  rangeCheck s.ctx.nmax a
  if 0x400000 ≤ a.va then raiseA .nearRange a.va 0
  else do
    s.holdingCheck { vcore := v, lanes := [], det := false, thread := false, tlb := false, estream := false } a
    .ok (s.physOf v * 0x400000 + a.va)

/-- The physical pieces of a write of the payload. -/
def State.engineTarget (s : State) (j : CopyJob) (align va n : Nat) : Res (List (Access × Nat)) :=
  (pieces align .write .scalar [(va, n)] (n / 32 + 2) va n).mapM fun a =>
    match j.members with
    | some _ => do
      let pa ← s.memberCheck j.serving a
      .ok (a, pa)
    | none => do
      match ← s.checkIn j.windows (s.engine j.ident) a with
      | .mem pa => .ok (a, pa)
      | _ => raiseA .windowStore a.va 0

/-- A message of class `k` from the core in focus to the core in whose slice an address lies, with the acknowledgement of one that is no
response itself (R22, R25). -/
def State.engineMsg (s : State) (k pa : Nat) : State :=
  if pa / 0x400000 = s.vc.phys then s
  else
    let s1 := (s.countAt s.vc.phys k 1 0).countAt s.vc.phys 2 0 (b2n (decide (k < 2)))
    if pa < 0x240000000 then (s1.countAt (pa / 0x400000) k 0 1).countAt (pa / 0x400000) 2 (b2n (decide (k < 2))) 0 else s1

/-- The bytes written to checked pieces. -/
def State.engineStore (s : State) : List (Access × Nat) → List Byte → Res State
  | [], _ => .ok s
  | (a, pa) :: rest, bs => do
    let s1 ← s.writeNow a.va pa (bs.take a.size)
    (s1.markLeaf a.va true).engineStore rest (bs.drop a.size)

/-- A write of an engine, with its messages of class `k`. -/
def State.engineWrite (s : State) (k : Nat) (ts : List (Access × Nat)) (bs : List Byte) : Res State := do
  let s1 ← s.engineStore ts bs
  .ok (ts.foldl (fun s x => s.engineMsg k x.2) s1)

/-! ## The steps of R295 -/

/-- Tile index d of an origin. -/
def originOf (o d : Nat) : Nat := o / 2 ^ (12 * d) % 2 ^ 12

/-- j(d) of step k in canonical order. -/
def CopyJob.jAt (j : CopyJob) (k d : Nat) : Nat := k / ((List.range d).map j.box.dstDim).prod % j.box.dstDim d

/-- The destination index of a step along dimension d, and the source index along dimension perm(d). -/
def CopyJob.dstAt (j : CopyJob) (k d : Nat) : Nat := originOf j.dstOrigin d * j.box.dstDim d + j.jAt k d
def CopyJob.srcAt (j : CopyJob) (k d : Nat) : Nat :=
  match (List.range 5).find? fun e => decide (j.box.permOf e = d) with
  | some e => originOf j.srcOrigin d * j.box.dim d + j.jAt k e
  | none => 0

/-- An index lies inside the extents. -/
def Tensor.inside (t : Tensor) (i : Nat → Nat) : Bool := (List.range 5).all fun d => decide (i d < t.dim d)

/-- The address of an element, of an MX element's block, and of its scale byte (R291). -/
def Tensor.addr (t : Tensor) (i : Nat → Nat) : Nat :=
  let i0 := if t.mx then i 0 / 32 else i 0
  wrapNat 64 (t.base + i0 * t.step 0 + ((List.range 4).map fun d => (i (d + 1) : Int) * t.step (d + 1)).sum)
def Tensor.scaleAddr (t : Tensor) (i : Nat → Nat) : Nat :=
  wrapNat 64 (t.base + t.scaleOff + (i 0 / 32 : Nat) +
    (t.dim 0 / 32 * (i 1 + t.dim 1 * (i 2 + t.dim 2 * (i 3 + t.dim 3 * i 4))) : Nat))

/-- The element codes of a block's bytes, and the bytes of its codes (R120, R243). -/
def Tensor.codes (t : Tensor) (bs : List Byte) : List Nat :=
  let bits := (fmtMx t.fmt).2
  if t.plane then (List.range 32).map (planeElem (wordsAt bs 0 bits) bits) else blockCodes bits bs
def Tensor.blockOf (t : Tensor) (codes : List Nat) : List Byte :=
  let bits := (fmtMx t.fmt).2
  if t.plane then ((List.range bits).map fun k => leBytes 4 (planeWord codes k)).flatten else blockBytes bits codes

/-- What a step reads: the bits of an element, an MX element's scale and code, or nothing of the source. -/
inductive Elem where
  | bits (x : Nat)
  | mx (scale code : Nat)
  | fill
  deriving DecidableEq, Repr

def State.copyRead (s : State) (j : CopyJob) (k : Nat) : Res Elem :=
  let t := j.src
  let i := j.srcAt k
  if !t.inside i then .ok .fill
  else if t.mx then do
    let bs ← s.engineRead j 1 (t.addr i) t.unit
    let sc ← s.engineRead j 1 (t.scaleAddr i) 1
    .ok (.mx (leNat sc) ((t.codes bs)[i 0 % 32]?.getD 0))
  else do
    let bs ← s.engineRead j t.unit (t.addr i) t.unit
    .ok (.bits (leNat bs))

/-- What the read of step k leaves. -/
def State.copySaw (s : State) (j : CopyJob) (k : Nat) : State :=
  let t := j.src
  let i := j.srcAt k
  if !t.inside i then s
  else if t.mx then (s.engineSaw j 1 (t.addr i) t.unit).engineSaw j 1 (t.scaleAddr i) 1
  else s.engineSaw j t.unit (t.addr i) t.unit

/-- No conversion (R296). -/
def CopyJob.same (j : CopyJob) : Bool := decide (j.src.fmt = j.dst.fmt) && decide (j.src.plane = j.dst.plane)

/-- The format of FILL (R289). -/
def fillFmt (f : Nat) : CvtFmt :=
  if isIntFmt f then (if f = 1 || f = 3 || f = 5 || f = 10 then .int 32 true else .int 32 false) else .float fp32

/-- convert(v) for a destination that is no MX format: to E4M3 and E5M2 it saturates. -/
def CopyJob.convert (j : CopyJob) (e : Elem) : Nat :=
  let dst := fmtCvt j.dst.fmt
  let sat := decide (j.dst.fmt = 11) || decide (j.dst.fmt = 12)
  let rm := Mode.ofCode j.box.rm
  match e with
  | .bits x => if j.same then x else (Machine.convert (fmtCvt j.src.fmt) dst rm sat x 0).1
  | .mx sc c =>
    match dst with
    | .float f => (f.round rm ((fmtMx j.src.fmt).1.decode sc c) sat 0).1
    | .int _ _ => 0
  | .fill => (Machine.convert (fillFmt j.src.fmt) dst rm sat j.src.fill 0).1

/-- The value of an element on its way to an MX block: MX elements go through FP32 (R126). -/
def CopyJob.elemVal (j : CopyJob) (e : Elem) : FVal :=
  match e with
  | .bits x => (match fmtCvt j.src.fmt with | .float f => f.decode x | .int _ _ => .nan false)
  | .mx sc c => fp32.decode (fp32.round (Mode.ofCode j.box.rm) ((fmtMx j.src.fmt).1.decode sc c) false 0).1
  | .fill => fp32.decode j.src.fill

/-- The 32 elements of the block that step k ends. -/
def State.copyReads (s : State) (j : CopyJob) (k : Nat) : Res (List Elem) := (List.range 32).mapM fun n => s.copyRead j (k - 31 + n)

/-- Whether the block that step k ends is passed bit for bit: it is one block of a source of the same format. -/
def CopyJob.passes (j : CopyJob) (k : Nat) : Bool := j.same && decide (j.box.permOf 0 = 0) && j.src.inside (j.srcAt k)

/-- What the reads of that block leave. -/
def State.blockSaw (s : State) (j : CopyJob) (k : Nat) : State :=
  if j.passes k then s.copySaw j k else (List.range 32).foldl (fun s n => s.copySaw j (k - 31 + n)) s

/-- The bytes and the scale byte of the block that step k ends (R296): passed bit for bit where it is one block of a source of the same
format, else encoded. -/
def State.copyBlock (s : State) (j : CopyJob) (k : Nat) : Res (List Byte × List Byte) :=
  if j.passes k then do
    let bs ← s.engineRead j 1 (j.src.addr (j.srcAt k)) j.src.unit
    let sc ← s.engineRead j 1 (j.src.scaleAddr (j.srcAt k)) 1
    .ok (bs, sc)
  else do
    let es ← s.copyReads j k
    let (scale, codes, _) := (fmtMx j.dst.fmt).1.encode (Mode.ofCode j.box.rm) (es.map j.elemVal) []
    .ok (j.dst.blockOf codes, leBytes 1 scale)

/-- Step k of R295. -/
def State.copyStep (s : State) (j : CopyJob) (k : Nat) : Res State :=
  let u := j.dstAt k
  if !j.dst.inside u then .ok s
  else if j.dst.mx then
    if u 0 % 32 ≠ 31 then .ok s
    else do
      let (bs, sc) ← s.copyBlock j k
      let t1 ← s.engineTarget j 1 (j.dst.addr u) j.dst.unit
      let t2 ← s.engineTarget j 1 (j.dst.scaleAddr u) 1
      (s.blockSaw j k).engineWrite 1 (t1 ++ t2) (bs ++ sc)
  else do
    let e ← s.copyRead j k
    let t ← s.engineTarget j j.dst.unit (j.dst.addr u) j.dst.unit
    (s.copySaw j k).engineWrite 1 t (leBytes j.dst.unit (j.convert e))

/-- The number of steps of a copy. -/
def CopyJob.steps (j : CopyJob) : Nat := if j.dst.empty then 0 else j.box.ext.prod

/-- Steps from k on: the state, the next step, and the stop that one met. -/
def copyLoop (j : CopyJob) : Nat → Nat → State → State × Nat × Option Stop
  | 0, k, s => (s, k, none)
  | n + 1, k, s =>
    match s.copyStep j k with
    | .ok s1 => copyLoop j n (k + 1) s1
    | .error e => (s, k, some e)

/-! ## Completion and failure (R297, R298) -/

/-- A copy's record replaced. -/
def State.setCopy (s : State) (j : CopyJob) : State := s.updCtx fun c => { c with copies := SMap.put c.copies j.order j }

/-- A change of the token of a copy, which is that of the firing that issued it (R282). -/
def Thread.onToken (t : Thread) (j : CopyJob) (f : Token → Token) : Thread :=
  if t.firing = j.firing then t.setK j.token (f (t.getK j.token)) else t

/-- A copy ended: its token is decreased. -/
def State.endCopy (s : State) (j : CopyJob) : State :=
  (s.updCtx fun c => { c with copies := SMap.del c.copies j.order }).updThr fun t => t.onToken j fun k => { k with count := k.count - 1 }

/-- What a copy does after its payload. -/
def State.copyFinish (s : State) (j : CopyJob) : Res State := do
  let s1 ← (if j.word = 0 then .ok s else do
      let t ← s.engineTarget j 8 j.word 8
      s.engineWrite 2 t (leBytes 8 j.value.toNat) : Res State)
  match j.spawn with
  | none => .ok (s1.endCopy j)
  | some r =>
    let nv := match SMap.find s.ctx.launches j.ident.launch with | some l => l.nv | none => 0
    let v := hashCore r.key nv
    if s1.fits v 1 then .ok ((s1.enqueue v j.ident.launch 0 [r]).endCopy j) else raiseD .spawnOverflow v

/-- A copy stopped by a failure: a page fault suspends it, anything else is to fail it (R298). -/
def State.stopCopy (s : State) (j : CopyJob) (k : Nat) (e : Stop) : Out :=
  match e with
  | .trap i =>
    let fault := decide (i.cause = .pageFaultRead) || decide (i.cause = .pageFaultWrite)
    .next (s.setCopy { j with pos := k, stop := some ⟨i.cause, i.faddr, i.fdetail⟩, suspended := fault })
  | .trapIn s1 i => .next (s1.setCopy { j with pos := k, stop := some ⟨i.cause, i.faddr, i.fdetail⟩, suspended := false })
  | .wait _ | .waitIn _ _ => .next (s.setCopy { j with pos := k })
  | .fault f => .fault f

/-- The copy that a request names. -/
def State.copyAt (s : State) (c n : Nat) : Option CopyJob := (s.ctxAt c).bind fun x => SMap.find x.copies n

/-- The state with the issuing thread of a copy in focus. -/
def State.focusCopy (s : State) (c : Nat) (j : CopyJob) : State := s.focus { ctx := c, vc := j.ident.vcore, th := j.thread }

/-- A copy whose engine may go on: no failure stands, and the issuer's stores before it have been performed (R262). -/
def State.copyReady (s : State) (j : CopyJob) : Bool :=
  j.stop.isNone && s.thr.replay.all fun p => p.failed.isSome || decide (j.order < p.order)

/-- Copies stand still while their context is halted, once its stop is reported: before that they complete (R390). -/
def State.copiesHeld (s : State) (c : Nat) : Bool := (s.ctxAt c).any fun x => x.halted && !s.stops.contains x.part

/-- The engine's work on a copy of a context: the payload in canonical order, then R297. -/
def State.runCopy (s0 : State) (c n : Nat) : Out :=
  match s0.copyAt c n with
  | none => .next s0
  | some j =>
    let s := s0.focusCopy c j
    if j.members.isSome || !s.copyReady j then .next s0
    else match copyLoop j (j.steps - j.pos) j.pos s with
      | (s1, k, some e) => s1.stopCopy j k e
      | (s1, k, none) =>
        match s1.copyFinish j with
        | .ok s2 => .next s2
        | .error e => s1.stopCopy j k e

/-- COPY_COMPLETE: the copy that the request names is carried out. -/
def execCopyComplete (s0 : State) : Out := if s0.copiesHeld s0.req.t.ctx then .next s0 else s0.runCopy s0.req.t.ctx s0.req.n

/-- The first failure that a token records (R298). -/
def Token.fail (t : Token) (e : LateErr) : Token := if t.err then t else { t with err := true, cause := causeCode e.cause, addr := e.faddr }

/-- A member of a COPYM counts as freed. -/
def VCore.freeMember (v : VCore) (order member : Nat) : VCore :=
  { v with copyms := v.copyms.map fun c => if c.order = order then { c with members := c.members.filter fun m => decide (m ≠ member) } else c }

/-- A member that has received its payload or failed (R301). -/
def State.memberDone (s : State) (j : CopyJob) : State :=
  let rest := (j.members.getD []).filter fun m => decide (m ≠ j.serving)
  if rest.isEmpty then s.endCopy j else s.setCopy { j with members := some rest, pos := 0, stop := none, suspended := false }

/-- COPY_FAILED: a copy that met a failure, or a page fault that cannot be resolved, fails and is reported (R298, R301). -/
def execCopyFailed (s0 : State) : Out :=
  match s0.copyAt s0.req.t.ctx s0.req.n with
  | none => .next s0
  | some j =>
    match j.stop with
    | none => .next s0
    | some e =>
      let s := s0.focusCopy s0.req.t.ctx j
      let s1 := (s.updThr fun t => t.onToken j fun k => k.fail e).report
        (reportOf .copyFailed 1 s.ctx.id s.vc.id e.faddr j.token s.now)
      match j.members with
      | none => .next (s1.endCopy j)
      | some _ => .next ((s1.updVc fun v => v.freeMember j.order j.serving).memberDone j)

/-- COPY_CONTINUES: the runtime has resolved the translation (R298). -/
def execCopyContinues (s0 : State) : Out :=
  match s0.copyAt s0.req.t.ctx s0.req.n with
  | none => .next s0
  | some j =>
    if j.suspended then .next ((s0.focusCopy s0.req.t.ctx j).setCopy { j with stop := none, suspended := false })
    else .next s0

/-- The landing word's increment and the pending free at the member (R301). -/
def State.land (s : State) (j : CopyJob) : Res State := do
  let pa ← s.memberCheck j.serving (writeAcc j.landing 8)
  s.performRead j.landing pa 8
  let s1 := (s.writePhys pa (leBytes 8 ((leNat (s.busRead pa 8) + 1) % 2 ^ 64))).engineMsg 0 pa
  .ok (s1.onVc j.serving fun v => { v with frees := v.frees ++ [{ key := j.landing, sender := j.ident.vcore, order := j.order }] })

/-- The engine's work on a COPYM for one member: the payload, then the landing word. -/
def State.runMember (s0 : State) (c n v : Nat) : Out :=
  match s0.copyAt c n with
  | none => .next s0
  | some j0 =>
    let s := s0.focusCopy c j0
    if !(j0.members.getD []).contains v || !s.copyReady j0 || (decide (j0.pos ≠ 0) && decide (j0.serving ≠ v)) then .next s0
    else
      let j := { j0 with serving := v }
      match copyLoop j (j.steps - j.pos) j.pos s with
      | (s1, k, some e) => s1.stopCopy j k e
      | (s1, k, none) =>
        match s1.land j with
        | .ok s2 => .next (s2.memberDone j)
        | .error e => s1.stopCopy j k e

/-- MULTICAST_DELIVERY: the payload and the landing word of the member that the request names. -/
def execMulticastDelivery (s0 : State) : Out :=
  if s0.copiesHeld s0.req.t.ctx then .next s0 else s0.runMember s0.req.t.ctx s0.req.n s0.req.t.vc

/-! ## The mailbox (R302) -/

/-- The mailbox of a COPYM as an address that its sender may increase. -/
def State.mailboxAddr (s : State) (v va : Nat) : Res Nat := do
  let a := atomicAcc va 8 false
  let ag : Agent := { vcore := v, lanes := [], det := false, thread := false, tlb := false, estream := false }
  rangeCheck s.ctx.nmax a
  match findWindow s.windows va with
  | some w => raiseA (windowCause w) va 0
  | none =>
    if va < 0x400000 then do
      s.holdingCheck ag a
      .ok (s.physOf v * 0x400000 + va)
    else do
      let (pte, pa) ← s.translate ag a
      if paTail pa 8 then raiseA .contextTail va 0
      permCheck pte a
      s.keyCheck pte pa a
      match findHolding s.ctx.holdings va with
      | some (_, h) => if h.cls = .frame then .ok () else s.holdingCheck ag a
      | none => s.holdingCheck ag a
      .ok (busOf (pteSlot pte) pa)

/-- The mailbox word increased (R302). -/
def State.bumpMailbox (s : State) (v va : Nat) : Res State := do
  let pa ← s.mailboxAddr v va
  s.performRead va pa 8
  let s1 ← s.writeNow va pa (leBytes 8 ((leNat (s.busRead pa 8) + 1) % 2 ^ 64))
  .ok (s1.engineMsg 0 pa)

/-- The virtual core of a context that issued a COPYM. -/
def Ctx.copymOf (c : Ctx) (order : Nat) : Option (Nat × OutCopym) :=
  c.vcores.findSome? fun e => (e.2.copyms.find? fun x => decide (x.order = order)).map fun x => (e.1, x)

/-- The free messages of a COPYM that arrive: those with no older message of their class from the same core to the same core before them
(R24). -/
def Ctx.freesOf (c : Ctx) (order : Nat) : List FreeMsg :=
  c.freeMsgs.filter fun m => decide (m.order = order) && !c.classBusy m.member m.sender m.seq

/-- Free messages taken out of the fabric. -/
def Ctx.takeMsgs (c : Ctx) (ms : List FreeMsg) : Ctx := { c with freeMsgs := c.freeMsgs.filter fun m => !ms.contains m }

/-- MULTICAST_ALL_FREED: free messages of a COPYM arrive, combined; after the last one the mailbox is increased, and a mailbox that cannot be
increased stays owed. A halted context receives none (R390). -/
def execMulticastAllFreed (s0 : State) : Out :=
  let s := s0.sync
  match (s.ctxAt s0.req.t.ctx).bind fun c => if c.halted then none else c.copymOf s0.req.n with
  | none => .next s0
  | some (v, o) =>
    let s1 := s.load { ctx := s0.req.t.ctx, vc := v, th := 0 }
    let msgs := s1.ctx.freesOf o.order
    let left := o.members.filter fun m => !(msgs.any fun x => decide (x.member = m))
    let s2 := (s1.updCtx fun c => c.takeMsgs msgs).updVc fun x =>
      { x with copyms := x.copyms.map fun c => if c.order = o.order then { c with members := left } else c }
    let s3 := if msgs.isEmpty then s2 else s2.receivedMsg v 3
    if !left.isEmpty then .next s3
    else match s3.bumpMailbox v o.mailbox with
      | .error (.fault f) => .fault f
      | .error (.trapIn s4 _) => .next s4
      | .error _ => .next s3
      | .ok s4 => .next ((s4.markLeaf o.mailbox true).updVc fun x => { x with copyms := x.copyms.filter fun c => decide (c.order ≠ o.order) })

end Sys2Proof.Machine
end

