-- ==== Sys2Proof/Machine/Tasks.lean ====
section
/-! DEFINITION. The TASK major (R312 to R318), SPAWN and SPAWNQ (R319 to R322), named queues (R330, R331), and how records become firings
(R317, R325 to R329, R333). -/

namespace Sys2Proof.Machine

/-! ## Quiesce (R313) -/

/-- The queues that hold an entry. -/
def Thread.queueMask (t : Thread) : Nat := ((List.range 8).map fun q => if (t.getQ q).isEmpty then 0 else 2 ^ q).sum

def State.quiesce (s : State) (tokens : Nat) : Res State := do
  waitIf (!s.thr.ePath.isEmpty) .other
  refuseIfD (decide (s.thr.queueMask ≠ 0)) .queueAtPpt s.thr.queueMask
  s.thr.waitTokens tokens
  let s1 ← s.drain
  s1.arrayWait

/-- The end of an instruction that ends its firing. -/
def finishEnd (s : State) (r : Res State) : Out :=
  match r with
  | .ok s' => .next s'
  | .error e => finishTo s (.error e)

/-- Handler mode left (R378). -/
def State.leaveHandler (s : State) : State := s.updThr fun t => { t with handler := false }

/-- The thread in focus freed, its links discarded (R314). -/
def State.freeThread (s : State) : State := s.updThr Thread.freed

/-! ## DONE and TAIL (R314, R315) -/

/-- The live lanes: those of m0, with their numbers. -/
def Thread.liveLanes (t : Thread) : List (Nat × LaneRec) :=
  ((List.range t.lanes.length).zip t.lanes).filter fun x => laneOn (t.getM 0) x.1

/-- The join records of lanes that a DONE is to decrease have a translation. -/
def State.joinReach (s : State) (ls : List LaneRec) : Res Unit :=
  match (ls.filter fun l => !l.joined && decide (l.task.join ≠ joinLaunch) && decide (l.task.join ≠ offNone)).findSome? fun l =>
      match s.hwAddrs true 32 (s.ctx.framebase.toNat + l.task.join) with
      | .error (c, d) => some (c, s.ctx.framebase.toNat + l.task.join, d)
      | .ok _ => none with
  | some (c, a, d) => raiseA c a d
  | none => .ok ()

/-- Live lanes in ascending order, each with the code pointer with which it is enqueued again or with none, where it finishes; and the first
thing noted. -/
def endLanes : List (LaneRec × Option Nat) → State → Noted → State × Noted
  | [], s, n => (s, n)
  | (l, none) :: rest, s, n =>
    let (s1, m) := s.endLane l
    endLanes rest s1 (n.or m)
  | (l, some code) :: rest, s, n => endLanes rest (s.enqueue s.vc.id s.thr.launch 0 [{ l.task with code := code }]) n

/-- The firing ended for its live lanes: the thread is freed, or what was noted is raised with DONE_PENDING set. -/
def State.endFiring (s : State) (ls : List (LaneRec × Option Nat)) : Res State :=
  match endLanes ls s none with
  | (s1, none) => .ok s1.freeThread
  | (s1, some e) => .error (.trapIn (s1.updThr fun t => { t with donePending := true }) ⟨e.cause, e.faddr, e.fdetail⟩)

def doneBody (s : State) : Res State :=
  if s.thr.donePending then .ok s.freeThread
  else do
    let s1 ← s.quiesce 255
    let ls := s1.thr.liveLanes.map Prod.snd
    s1.joinReach ls
    s1.endFiring (ls.map fun l => (l, none))
def execTaskDone (s : State) : Out := finishEnd s.leaveHandler (doneBody s.leaveHandler)

/-- Whether an older E-stream instruction writes a mask register (R312). -/
def writesMask (m inst : Nat) : Bool :=
  let op := inst / 8 % 128
  let fn := inst / 2 ^ 10 % 16
  let d := inst / 2 ^ 14 % 64
  bitOf inst 2 &&
  (((decide (op = 5) || decide (op = 9) || (decide (op = 12) && decide (fn ≠ 5))) && decide (d = m)) ||
    (decide (op = 15) && decide (fn = 3) && decide (m ≠ 0) && decide (inst / 2 ^ 32 % 64 = m)))

/-- The wait of R312 for a mask register. -/
def State.maskWait (s : State) (m : Nat) : Res Unit := waitIf (s.thr.ePath.any fun a => writesMask m (s.einstAt a)) .other

/-- TAIL_INVALID: the lowest live lane that executed JOIN. -/
def Thread.checkJoined (t : Thread) : Res Unit :=
  match t.liveLanes.find? fun x => x.2.joined with
  | some x => raiseD .tailInvalid x.1
  | none => .ok ()

/-- The register of a lane's code pointer under TAIL, and the code pointer; register 0 ends the lane (R312, R315). -/
def tailReg (r : RArgs) (t : Thread) (lane : Nat) : Nat := if laneOn (t.getM r.msk) lane then r.a else r.b
def tailCode (r : RArgs) (t : Thread) (lane : Nat) : Nat := (t.getS (tailReg r t lane)).toNat

/-- What becomes of a lane under TAIL. -/
def tailLane (r : RArgs) (t : Thread) (x : Nat × LaneRec) : LaneRec × Option Nat :=
  (x.2, if tailReg r t x.1 = 0 then none else some (tailCode r t x.1))

/-- BAD_CODE_POINTER of TAIL: a live lane takes a register that is not 0 and whose code pointer is no registered entry (R318). -/
def tailCheck (r : RArgs) (s : State) : Res Unit :=
  match s.thr.liveLanes.find? fun x => decide (tailReg r s.thr x.1 ≠ 0) && !s.ctx.isEntry (tailCode r s.thr x.1) with
  | some x => raiseA .badCodePointer (tailCode r s.thr x.1) 0
  | none => .ok ()

def tailBody (r : RArgs) (s : State) : Res State :=
  if s.thr.donePending then .ok s.freeThread
  else do
    s.thr.checkJoined
    s.maskWait r.msk
    tailCheck r s
    let s1 ← s.quiesce 255
    let ls := s1.thr.liveLanes.map (tailLane r s1.thr)
    s1.joinReach ((ls.filter fun x => x.2.isNone).map Prod.fst)
    s1.endFiring ls
def execTaskTail (r : RArgs) (s : State) : Out := finishEnd s.leaveHandler (tailBody r s.leaveHandler)

/-! ## JOIN (R316) -/

/-- The active lanes of a TASK or SPAWN instruction: mK AND m0. -/
def actLanes (r : RArgs) (t : Thread) : List (Nat × LaneRec) := t.liveLanes.filter fun x => laneOn (t.getM r.msk) x.1

/-- Offset and address of a lane's join record. -/
def joinOff (joff : Nat) (l : LaneRec) : Nat := l.task.frame + 16 * joff

/-- The join record that JOIN writes for a lane. -/
def joinRec (code count : Nat) (l : LaneRec) : TaskRec := { l.task with code := code, count := count }

/-- FRAME_WINDOW of JOIN. -/
def joinWindow (joff : Nat) (ls : List (Nat × LaneRec)) (s : State) : Res Unit :=
  match ls.find? fun x => x.2.task.restart || decide (x.2.task.frame + 16 * x.2.task.fsize < joinOff joff x.2 + 32) with
  | some x => raiseA .frameWindow (s.ctx.framebase.toNat + joinOff joff x.2) (2 ^ 32 * x.1)
  | none => .ok ()

/-- The pieces of a join record with their bus addresses: steps 1 to 7 of R141; the frame rules do not bind the hardware's own writes (R306). -/
def State.joinTarget (s : State) (va : Nat) : Res (List (Access × Nat)) :=
  (pieces 16 .write .scalar [] 3 va 32).mapM fun a => do
    rangeCheck s.ctx.nmax a
    s.parkWait s.agent a.va
    match findWindow s.windows a.va with
    | some w => raiseA (windowCause w) a.va 0
    | none =>
      if a.va < 0x400000 then do
        s.mcmdWait s.agent a (s.vc.phys * 0x400000 + a.va)
        .ok (a, s.vc.phys * 0x400000 + a.va)
      else do
        let (pte, pa) ← s.translate s.agent a
        if paTail pa a.size then raiseA .contextTail a.va 0
        permCheck pte a
        s.keyCheck pte pa a
        s.mcmdWait s.agent a (busOf (pteSlot pte) pa)
        .ok (a, busOf (pteSlot pte) pa)

/-- Lanes marked as joined. -/
def Thread.markJoined (t : Thread) (ls : List Nat) : Thread :=
  { t with lanes := ((List.range t.lanes.length).zip t.lanes).map fun x => if ls.contains x.1 then { x.2 with joined := true } else x.2 }

def joinBody (r : RArgs) (s : State) : Res State := do
  let code := (s.thr.getS r.b).toNat
  let count := (s.thr.getS r.a).toNat
  let joff := r.x16 % 256
  if !s.ctx.isEntry code then raiseA .badCodePointer code 0 else .ok ()
  s.maskWait r.msk
  let ls := actLanes r s.thr
  joinWindow joff ls s
  refuseIfD (decide (count = 0) || decide (2 ^ 20 ≤ count)) .joinUnderflow count
  let ts ← ls.mapM fun x => s.joinTarget (s.ctx.framebase.toNat + joinOff joff x.2)
  let s1 := s.flush
  let s2 ← (ts.zip ls).foldlM (fun s x => s.engineStore x.1 (joinRec code count x.2.2).bytes) s1
  .ok ((s2.traffic true (ts.flatten.map fun x => .mem x.2)).updThr fun t => t.markJoined (ls.map Prod.fst))
def execTaskJoin (r : RArgs) (s : State) : Out := finishA 8 s (joinBody r s)

/-! ## YIELD (R317) -/

/-- The hardware threads of a core. -/
def threadNums : List Nat := List.range 8

/-- Whether a hardware thread of the core in focus is free. -/
def State.anyFree (s : State) : Bool :=
  threadNums.any fun n =>
    let t := if n = s.thr.id then s.thr else SMap.get (Thread.fresh n) s.vc.threads n
    decide (t.status = .free)

/-- A record of the context waits on the core. -/
def VCore.waiting (v : VCore) : Bool := !v.deque.isEmpty || v.stations.any fun x => !x.recs.isEmpty

/-- Whether YIELD parks: with a park slot free, when a record waits and no thread is free, or pre-emption is pending. -/
def State.yieldParks (s : State) : Bool :=
  decide (s.vc.parks.length < 4) && ((s.vc.waiting && !s.anyFree) || decide (s.ctx.preempt ≠ .none))

/-- The firing in a park slot, to go on at `pos`. -/
def State.park (s : State) (pos : W64) : State :=
  let t := { s.thr with apc := pos, waitA := .none, waitE := .none, hprio := useBoost s.thr.hprio, lastA := s.now, agedA := 0 }
  (s.updVc fun v => { v with parks := v.parks ++ [{ thr := t, since := s.now }] }).freeThread

def execTaskYield (s0 : State) : Out :=
  let s := s0.leaveHandler
  match s.quiesce 255 with
  | .ok s1 => if s1.yieldParks then .next (s1.park (s1.after 8)) else finishA 8 s (.ok s1)
  | .error e => finishTo s (.error e)

/-! ## SPAWN (R319 to R321) -/

/-- The fields of CMD64. -/
def spRs (x : CArgs) : Nat := x.cmd / 2 ^ 60
def spRoff (x : CArgs) : Nat := x.cmd / 2 ^ 52 % 256
def spJoff (x : CArgs) : Nat := x.cmd / 2 ^ 44 % 256
def spFsize (x : CArgs) : Nat := x.cmd / 2 ^ 32 % 4096
def spFstride (x : CArgs) : Nat := x.cmd / 2 ^ 20 % 4096
def spFoff (x : CArgs) : Nat := x.cmd % 2 ^ 20

/-- Child i of a lane (R320). -/
def childRec (x : CArgs) (code : Nat) (l : LaneRec) (i : Nat) : TaskRec where
  rs := spRs x
  restart := bitOf x.r.x16 0
  code := code
  fsize := spFsize x
  count := 0
  frame := (l.task.frame + 16 * spFoff x + i * (16 * spFstride x)) % 2 ^ 32
  result := (l.task.frame + 16 * spRoff x + i * 2 ^ spRs x) % 2 ^ 32
  join := (l.task.frame + 16 * spJoff x) % 2 ^ 32
  key := childKey l.task.key i

/-- Step 5 of R321: the lowest lane that is RESTARTABLE, or whose join record or result slots lie outside its window. -/
def spawnWindow (x : CArgs) (n : Nat) (ls : List (Nat × LaneRec)) (s : State) : Res Unit :=
  match ls.find? fun y => y.2.task.restart || decide (16 * y.2.task.fsize < 16 * spJoff x + 32) ||
      (decide (n ≠ 0) && decide (16 * y.2.task.fsize < 16 * spRoff x + n * 2 ^ spRs x)) with
  | some y => raiseA .frameWindow (s.ctx.framebase.toNat + y.2.task.frame + 16 * spJoff x) (2 ^ 32 * y.1)
  | none => .ok ()

/-- Step 6: the lowest lane of which a child's window extends past the arena or past 2^32. -/
def spawnArena (x : CArgs) (n : Nat) (ls : List (Nat × LaneRec)) (s : State) : Res Unit :=
  let bound := min s.ctx.framesize.toNat (2 ^ 32)
  match ls.find? fun y => decide (bound < y.2.task.frame + 16 * spFoff x + (n - 1) * (16 * spFstride x) + 16 * spFsize x) with
  | some y => raiseD .frameArena (2 ^ 32 * y.1)
  | none => .ok ()

/-- Step 4 for AT: the virtual core that holds the holding, or is to. -/
def atTarget (x : CArgs) (s : State) : Res Nat :=
  let h := (s.thr.getS x.r.b).toNat
  match SMap.find s.ctx.holdings h with
  | some e =>
    let v := e.inflight.getD e.holder
    if (decide (e.cls = .exclusive) || decide (e.cls = .localOnly)) && decide (v < s.nv) && decide (v < 2 ^ 16) then .ok v
    else raiseD .placementInvalid h
  | none => raiseD .placementInvalid h

/-- The children of a SPAWN, lane by lane (R320). -/
def spawnRecs (x : CArgs) (code n : Nat) (ls : List (Nat × LaneRec)) : List TaskRec :=
  (ls.map fun y => (List.range n).map (childRec x code y.2)).flatten

/-- The target of a record (R324), and its domain of stealing. -/
def spawnTarget (fn nv self at_ : Nat) (t : TaskRec) : Nat := match fn with | 0 => hashCore t.key nv | 5 => at_ | _ => self
def spawnDomain (fn : Nat) : Nat := match fn with | 2 => 1 | 3 => 2 | 4 => 3 | _ => 0

/-- Records by their target: the targets in the order of their first records. -/
def targetsOf (f : TaskRec → Nat) (ts : List TaskRec) : List Nat := (ts.map f).eraseDups

/-- Step 7 for one target. -/
def State.checkRoom (s : State) (v n : Nat) : Res Unit := if s.fits v n then .ok () else raiseD .spawnOverflow v

/-- The children enqueued, those of one target as one group. -/
def State.enqueueAll (s : State) (f : TaskRec → Nat) (domain : Nat) (ts : List TaskRec) : State :=
  (targetsOf f ts).foldl (fun s v => s.enqueue v s.thr.launch domain (ts.filter fun t => decide (f t = v))) s

def spawnBody (fn : Nat) (x : CArgs) (s : State) : Res State := do
  refuseIf (decide (fn ≠ 0) && s.det) .nondetOp
  let code := (s.thr.getS x.r.a).toNat
  let n := (s.thr.getS x.r.d).toNat
  if !s.ctx.isEntry code then raiseA .badCodePointer code 0 else .ok ()
  let v ← (if fn = 5 then atTarget x s else .ok s.vc.id : Res Nat)
  s.maskWait x.r.msk
  let ls := actLanes x.r s.thr
  spawnWindow x n ls s
  if n = 0 then .ok s
  else do
    spawnArena x n ls s
    refuseIfD (decide (4096 < n)) .spawnOverflow n
    let ts := spawnRecs x code n ls
    let f := spawnTarget fn s.nv s.vc.id v
    let _ ← (targetsOf f ts).mapM fun u => s.checkRoom u (ts.filter fun t => decide (f t = u)).length
    let s1 ← s.drain
    .ok (s1.enqueueAll f (spawnDomain fn) ts)
def execSpawn (fn : Nat) (x : CArgs) (s : State) : Out := finishA 16 s (spawnBody fn x s)

/-! ## Named queues (R330, R331) -/

/-- An entry of ctl.qtable. -/
structure QEnt where
  ring : Nat
  ringcap : Nat
  spillcap : Nat
  spill : Nat
  first : Nat
  count : Nat
  flags : Nat
  pushed : Nat
  popped : Nat
  deriving DecidableEq, Repr

def qentOf (bs : List Byte) : QEnt where
  ring := fieldAt bs 0 8
  ringcap := fieldAt bs 8 4
  spillcap := fieldAt bs 12 4
  spill := fieldAt bs 16 8
  first := fieldAt bs 24 2
  count := fieldAt bs 26 2
  flags := fieldAt bs 28 1
  pushed := fieldAt bs 32 8
  popped := fieldAt bs 40 8

/-- A power of two. -/
def isPow2 (n : Nat) : Bool := decide (n ≠ 0) && decide (2 ^ Nat.log2 n = n)

/-- A range lies in one holding of class QUEUE. -/
def Ctx.inQueue (c : Ctx) (va n : Nat) : Bool :=
  match findHolding c.holdings va with
  | some (_, h) => decide (h.cls = .queue) && decide (va + n ≤ h.base + 2 ^ h.lsize)
  | none => false

/-- An entry that is VALID and keeps to the table of R330. -/
def Ctx.queueOk (c : Ctx) (nv : Nat) (e : QEnt) (bs : List Byte) : Bool :=
  decide (e.flags = 1) && isPow2 e.ringcap && decide (16 ≤ e.ringcap) && decide (e.ringcap ≤ 4096) &&
  (decide (e.spillcap = 0) || (isPow2 e.spillcap && decide (e.spillcap ≤ 2 ^ 24))) &&
  decide (e.first + e.count ≤ nv) && decide (fieldAt bs 29 3 = 0) && decide (fieldAt bs 48 16 = 0) &&
  decide (0x10000000000 ≤ e.ring) && decide (e.ring < 0x20000000000) && c.inQueue e.ring (32 * e.ringcap) &&
  (if e.spillcap = 0 then decide (e.spill = 0)
   else decide (0x100000000000 ≤ e.spill) && decide (e.spill < 0x500000000000) && c.inQueue e.spill (32 * e.spillcap))

/-- The address of an entry. -/
def State.qentAddr (s : State) (q : Nat) : Nat := s.ctx.qtable.toNat + 64 * q

/-- The slot of the k-th record pushed: in the ring while no more than RINGCAP records stand before it, else in the spill area. -/
def QEnt.slot (e : QEnt) (popped k : Nat) : Nat :=
  if k < popped + e.ringcap || decide (e.spillcap = 0) then e.ring + 32 * (k % e.ringcap) else e.spill + 32 * (k % e.spillcap)

/-- The records of a named queue. -/
def Ctx.queue (c : Ctx) (q : Nat) : List DRec := SMap.get [] c.queued q
def State.setQueue (s : State) (q : Nat) (rs : List DRec) : State := s.updCtx fun c => { c with queued := SMap.put c.queued q rs }

/-- Records pushed: their slots and PUSHED are written. -/
def State.pushQueue (s : State) (q : Nat) (e : QEnt) (ts : List TaskRec) : State :=
  let recs := ts.map (deckRec s.thr.launch 0 0 0)
  let s1 := ((List.range ts.length).zip ts).foldl (fun s x => s.coreWrite (e.slot e.popped (e.pushed + x.1)) x.2.bytes) s
  (s1.coreWrite (s.qentAddr q + 32) (leBytes 8 ((e.pushed + ts.length) % 2 ^ 64))).setQueue q (s.ctx.queue q ++ recs)

/-- The oldest record popped, which is read in the ring: the ring takes in the head of the spill area, and POPPED is written. -/
def State.popQueue (s : State) (q : Nat) (e : QEnt) : State :=
  let p := e.popped + 1
  let k := e.popped + e.ringcap
  let s0 := s.coreSaw (e.slot e.popped e.popped) 32
  let s1 := match (s.ctx.queue q)[e.ringcap]? with
    | some r => (s0.coreSaw (e.slot e.popped k) 32).coreWrite (e.slot p k) r.task.bytes
    | none => s0
  (s1.coreWrite (s.qentAddr q + 40) (leBytes 8 (p % 2 ^ 64))).setQueue q ((s.ctx.queue q).drop 1)

/-- The entry of a queue for a push (R322): QUEUE_INVALID. -/
def State.queueEntry (s : State) (id : Nat) : Res QEnt :=
  if 256 ≤ id then raiseD .queueInvalid id
  else match s.hwRead (s.qentAddr id) 64 true with
    | none =>
      let (a, c, d) := ((List.range 64).findSome? fun i => (s.hwFails (s.qentAddr id + i)).map fun x => (s.qentAddr id + i, x)).getD
        (s.qentAddr id, .pageFaultRead, 0)
      raiseA c a d
    | some bs => if s.ctx.queueOk s.nv (qentOf bs) bs then .ok (qentOf bs) else raiseD .queueInvalid id

def spawnqBody (x : CArgs) (s : State) : Res State := do
  refuseIf s.det .nondetOp
  let code := (s.thr.getS x.r.a).toNat
  let n := (s.thr.getS x.r.d).toNat
  let q := (s.thr.getS x.r.b).toNat
  if !s.ctx.isEntry code then raiseA .badCodePointer code 0 else .ok ()
  let e ← s.queueEntry q
  s.maskWait x.r.msk
  let ls := actLanes x.r s.thr
  spawnWindow x n ls s
  if n = 0 then .ok s
  else do
    spawnArena x n ls s
    refuseIfD (decide (4096 < n)) .spawnOverflow n
    let ts := spawnRecs x code n ls
    refuseIfD (decide (e.ringcap + e.spillcap < (s.ctx.queue q).length + ts.length)) .queueFull q
    let s1 ← s.drain
    .ok ((s1.coreSaw (s1.qentAddr q) 64).pushQueue q e ts)
def execSpawnq (x : CArgs) (s : State) : Out := finishA 16 s (spawnqBody x s)

/-! ## Firings (R326, R327, R317) -/

/-- PRIO of a launch. -/
def State.prioOf (s : State) (l : Nat) : Nat := match SMap.find s.ctx.launches l with | some x => x.prio | none => 0

/-- The effective priority of something that has waited since a cycle (R333). -/
def State.effPrio (s : State) (launch since : Nat) : Nat :=
  min 7 (s.prioOf launch + (s.now - since) / 2 ^ s.ctx.agesh.toNat)

/-- What a free thread may take up: its effective priority, and since when it waits. -/
abbrev Rank := Nat × Nat
/-- The higher priority first, among equals the one that waits longer. -/
def Rank.before (a b : Rank) : Bool := decide (b.1 < a.1) || (decide (a.1 = b.1) && decide (a.2 < b.2))

/-- The rank of a station: that of its oldest record. -/
def State.stationRank (s : State) (x : Station) : Rank :=
  let since := ((x.recs.map DRec.since).min?).getD 0
  (s.effPrio x.launch since, since)

/-- Whether a station can fire (R326). -/
def State.canFire (s : State) (x : Station) : Bool :=
  !x.recs.isEmpty &&
  (decide (x.recs.length = 32) || x.expired || s.vc.gatherDone s.now ||
    (x.recs.any fun r => decide (s.ctx.gather.toNat ≤ s.now - r.entered)))

def State.parkRank (s : State) (p : ParkSlot) : Rank := (s.effPrio p.thr.launch p.since, p.since)

/-- Everything that a free thread of the core could take up. -/
def State.ranks (s : State) : List Rank :=
  ((s.vc.stations.filter s.canFire).map s.stationRank) ++ s.vc.parks.map s.parkRank

/-- The thread in focus may take up work: it is free, and no pre-emption is pending. -/
def State.mayTake (s : State) : Bool :=
  s.ctx.runs && decide (s.ctx.preempt = .none) && s.ctx.hasVc s.vc.id && decide (s.thr.id < 8) && decide (s.thr.status = .free)

/-- The thread at the start of a firing (R327). -/
def Thread.start (t : Thread) (framebase : W64) (code launch firing : Nat) (recs : List TaskRec) : Thread :=
  let n := recs.length
  { t.freed with
    status := .running
    s := ((t.freed.s.setIfInBounds 1 (BitVec.ofNat 64 code)).setIfInBounds 2 (BitVec.ofNat 64 n)).setIfInBounds 3 framebase
    v := (t.freed.v.setIfInBounds 0 (Lanes.make fun i => BitVec.ofNat 32 ((recs[i]?.map TaskRec.frame).getD 0))).setIfInBounds 1
      (Lanes.make fun i => BitVec.ofNat 32 ((recs[i]?.map TaskRec.key).getD 0))
    m := t.freed.m.setIfInBounds 0 (BitVec.ofNat 32 (2 ^ n - 1))
    apc := BitVec.ofNat 64 code
    lanes := recs.map fun r => { task := r, joined := false }
    launch := launch
    firing := firing }

/-- STATION_FIRE: station n of the core of the thread named by the request fires on that thread. -/
def execStationFire (s0 : State) : Out :=
  let s := s0.focus s0.req.t
  match s.vc.stations[s0.req.n]? with
  | none => .next s0
  | some x =>
    if !s.mayTake || !s.canFire x || s.ranks.any (fun r => r.before (s.stationRank x)) then .next s0
    else
      let t := s.thr.start s.ctx.framebase x.code x.launch s.nextId (x.recs.map DRec.task)
      .next (({ s with thr := t, nextId := s.nextId + 1 }).changeDeque s.vc.id fun v => { v with stations := v.stations.set s0.req.n Station.empty })

/-- GATHER_LIMIT_EXPIRY: the oldest record of a station has waited ctl.gather cycles. -/
def execGatherLimitExpiry (s0 : State) : Out :=
  let s := s0.focus s0.req.t
  match s.vc.stations[s0.req.n]? with
  | none => .next s0
  | some x =>
    if s.ctx.runs && s.ctx.hasVc s.vc.id && x.recs.any fun r => decide (s.ctx.gather.toNat ≤ s.now - r.entered) then
      .next (s.updVc fun v => { v with stations := v.stations.set s0.req.n { x with expired := true } })
    else .next s0

/-- PARKED_FIRING_RESUME: the thread named by the request takes up a parked firing. -/
def execParkedFiringResume (s0 : State) : Out :=
  let s := s0.focus s0.req.t
  match s.vc.parks[s0.req.n]? with
  | none => .next s0
  | some p =>
    if !s.mayTake || s.ranks.any (fun r => r.before (s.parkRank p)) then .next s0
    else
      .next ((s.setThr { p.thr with id := s.thr.id, status := .running, singleStep := s.thr.singleStep }).updVc fun v =>
        { v with parks := v.parks.eraseIdx s0.req.n })

/-! ## Looking for work (R329) -/

/-- Whether two physical cores share a domain of stealing. -/
def sameDomain (d a b : Nat) : Bool :=
  match d with
  | 1 => decide (a / 24 = b / 24)
  | 2 => decide (a / 288 = b / 288)
  | 3 => true
  | _ => false

/-- A record's task may run on the core in focus: its number is below the launch's Nv (R2). -/
def State.mayRun (s : State) (r : DRec) : Bool :=
  match SMap.find s.ctx.launches r.launch with
  | some l => decide (s.vc.id < l.nv)
  | none => false

/-- The entry of a named queue that the core in focus serves. -/
def State.serves (s : State) (q : Nat) : Option QEnt :=
  (s.hwRead (s.qentAddr q) 64 true).bind fun bs =>
    let e := qentOf bs
    if decide (e.first ≤ s.vc.id) && decide (s.vc.id < e.first + e.count) && (s.ctx.queue q).head?.any s.mayRun then some e else none

/-- The named queues that hold a record, in ascending order, and the first of them that the core in focus serves. -/
def Ctx.fullQueues (c : Ctx) : List Nat := (c.queued.filter fun e => !e.2.isEmpty).map Prod.fst
def State.servedQueue (s : State) : Option (Nat × QEnt) := s.ctx.fullQueues.findSome? fun q => (s.serves q).map fun e => (q, e)

/-- What the reads of the entries that the search has looked at leave. -/
def State.markSearch (s : State) : State :=
  let read := s.ctx.fullQueues.takeWhile fun q => (s.serves q).isNone
  (read ++ (s.servedQueue.map Prod.fst).toList).foldl (fun s q => s.coreSaw (s.qentAddr q) 64) s

/-- A record that enters the deque of the core in focus. -/
def State.takeIn (s : State) (r : DRec) : State :=
  let s1 := s.changeDeque s.vc.id fun v =>
    { v with deque := v.deque ++ [{ r with group := s.nextId, since := s.now, entered := 0, slot := none }] }
  { s1 with nextId := s1.nextId + 1 }

/-- A record taken out of the deque of a virtual core. -/
def State.lose (s : State) (v i : Nat) : State := s.changeDeque v fun x => { x with deque := x.deque.eraseIdx i }

/-- LOOK_FOR_WORK: an idle core pops a named queue, or takes the oldest stealable record of the victim that the request names. -/
def execLookForWork (s0 : State) : Out :=
  let s := s0.focus { s0.req.t with th := 0 }
  if !(s.ctx.runs && decide (s.ctx.preempt = .none) && s.ctx.hasVc s.vc.id && s.anyFree && !s.vc.waiting) then .next s0
  else match s.servedQueue with
    | some (q, e) =>
      match s.ctx.queue q with
      | r :: _ => .next ((s.markSearch.popQueue q e).takeIn r)
      | [] => .next s0
    | none =>
      let v := s0.req.n
      match (if v = s.vc.id then none else SMap.find s.ctx.vcores v) with
      | none => .next s.markSearch
      | some x =>
        match x.deque.findIdx? fun r => sameDomain r.domain x.phys s.vc.phys && s.mayRun r with
        | none => .next s.markSearch
        | some i =>
          match x.deque[i]? with
          | some r => .next ((s.markSearch.lose v i).takeIn r)
          | none => .next s.markSearch

/-- HPRIO_BOOST_END: a boost without issues left ends (R62). -/
def execHprioBoostEnd (s0 : State) : Out :=
  let s := s0.focus s0.req.t
  if s.thr.hprio = 1 then .next (s.updThr fun t => { t with hprio := 0 }) else .next s0

end Sys2Proof.Machine
end

