-- ==== Sys2Proof/Machine/Rule.lean ====
section
/-! DEFINITION. Rule mode (R336 to R351): RLOAD, RSTEP and the generations of a running RSTEP. -/

namespace Sys2Proof.Machine

/-! ## Neighbourhoods and tables (R341, R342) -/

/-- The radius of a neighbourhood. -/
def hoodRadius (hood : Nat) : Nat := if hood = 2 then 2 else 1

/-- The neighbours' offsets in reading order. -/
def hoodOffsets (hood : Nat) : List (Int × Int) :=
  match hood with
  | 0 => [(-1, -1), (0, -1), (1, -1), (-1, 0), (1, 0), (-1, 1), (0, 1), (1, 1)]
  | 1 => [(0, -1), (-1, 0), (1, 0), (0, 1)]
  | _ => ((List.range 5).map fun (y : Nat) => (List.range 5).filterMap fun (x : Nat) =>
      if x = 2 && y = 2 then none else some ((x : Int) - 2, (y : Int) - 2)).flatten

/-- The neighbour count. -/
def hoodCount (hood : Nat) : Nat := match hood with | 0 => 8 | 1 => 4 | _ => 24

/-- The entries of a table. -/
def tableSize (kind : RuleKind) (hood b : Nat) : Nat :=
  match kind with
  | .full => 2 ^ (b * (hoodCount hood + 1))
  | .total => 2 ^ b * (hoodCount hood * (2 ^ b - 1) + 1)

/-- The index of a cell with its neighbours' codes. -/
def ruleIndex (kind : RuleKind) (hood b c0 : Nat) (cs : List Nat) : Nat :=
  match kind with
  | .full => c0 + 2 ^ b * cs.foldr (fun c acc => c + 2 ^ b * acc) 0
  | .total => c0 * (hoodCount hood * (2 ^ b - 1) + 1) + cs.sum

/-! ## The lantern order (R337) -/

/-- The lantern order with a thread in it. -/
def VCore.enterLantern (v : VCore) (n : Nat) : VCore := if v.lantern.contains n then v else { v with lantern := v.lantern ++ [n] }

/-- A lantern command of the thread in focus: it enters the order when it issues, and is carried out when none stands before it. -/
def State.inLantern (s : State) (body : State → Res State) : Res State :=
  let s1 := s.updVc fun v => v.enterLantern s.thr.id
  if s1.vc.lantern.head? = some s.thr.id then
    match body s1 with
    | .error (.wait w) => .error (.waitIn s1 w)
    | r => r
  else .error (.waitIn s1 .other)

/-- A lantern command of the thread in focus has completed. -/
def State.leaveLantern (s : State) : State := s.updVc fun v => v.leaveLantern s.thr.id

/-! ## RLOAD (R346, R347) -/

def rloadKind (fn : Nat) : RuleKind := if fn = 0 then .full else .total
def rloadBits (x : CArgs) : Nat := x.cmd % 16
def rloadHood (x : CArgs) : Nat := x.cmd / 16 % 16

def rloadCore (fn : Nat) (x : CArgs) (s : State) : Res State := do
  refuseIf s.thr.restartable .frameWindow
  let b := rloadBits x
  let hood := rloadHood x
  let kind := rloadKind fn
  refuseIf (decide (b = 0) || decide (4 < b) || decide (2 < hood) || (decide (fn = 0) && decide (hood = 2))) .ruleTable
  refuseIf (decide (fn = 0) && decide (16 < b * (hoodCount hood + 1))) .ruleIndexWidth
  let n := (s.thr.getS x.r.b).toNat
  refuseIf (decide (n ≠ tableSize kind hood b)) .ruleTable
  let bs ← s.readRange s.agent 1 (s.thr.getS x.r.a).toNat n
  .ok ((s.sawRange s.agent 1 (s.thr.getS x.r.a).toNat n).updVc fun v => { v with table := some { kind := kind, hood := hood, bits := b, entries := bs } }).leaveLantern
def rloadBody (fn : Nat) (x : CArgs) (s : State) : Res State := s.inLantern (rloadCore fn x)
def execRload (fn : Nat) (x : CArgs) (s : State) : Out := finishA 16 s (rloadBody fn x s)

/-! ## Tile descriptors (R338 to R340) -/

/-- A tile descriptor. -/
structure TileD where
  base : Nat
  sw : Nat
  sh : Nat
  halo : Nat
  bits : Nat
  edges : Nat
  fill : Nat
  x0 : Int
  y0 : Int
  gen : Nat
  remaining : Nat
  flags : Nat
  run : Nat
  deriving DecidableEq, Repr

def tileOf (bs : List Byte) : TileD where
  base := fieldAt bs 0 4
  sw := fieldAt bs 4 2
  sh := fieldAt bs 6 2
  halo := fieldAt bs 8 1
  bits := fieldAt bs 9 1
  edges := fieldAt bs 10 1
  fill := fieldAt bs 11 1
  x0 := fieldS bs 12
  y0 := fieldS bs 16
  gen := fieldAt bs 20 4
  remaining := fieldAt bs 24 4
  flags := fieldAt bs 28 4
  run := fieldAt bs 32 4

/-- The modes of the sides N, E, S and W. -/
def TileD.edge (d : TileD) (k : Nat) : Nat := d.edges / 4 ^ k % 4
def TileD.iw (d : TileD) : Nat := d.sw - 64
def TileD.ih (d : TileD) : Nat := d.sh - 2 * d.halo
/-- T, the bytes of the tile (R339). -/
def TileD.size (d : TileD) : Nat := 4 * d.bits * d.sh * (d.sw / 32)
def TileD.anyHalo (d : TileD) : Bool := (List.range 4).any fun k => decide (d.edge k = 0)
/-- The carry tile is in use for a run. -/
def TileD.carries (d : TileD) (run : Nat) : Bool := d.anyHalo && decide (2 ≤ run)
/-- RUN of the run that an RSTEP with the count g starts or continues. -/
def TileD.runOf (d : TileD) (g : Nat) : Nat := if d.remaining = 0 then g else d.run

/-- TILE_DESCRIPTOR (R340, R348). -/
def TileD.bad (d : TileD) (bs : List Byte) (cheq : Bool) (g : Nat) : Bool :=
  decide (d.bits = 0) || decide (4 < d.bits) || decide (16 < d.halo) || decide (2 ^ d.bits ≤ d.fill) ||
  decide (d.sw ≤ 64) || decide (d.sw % 32 ≠ 0) || decide (d.sh ≤ 2 * d.halo) ||
  ((List.range 4).any fun k => decide (d.edge k = 3)) ||
  decide (d.edge 0 = 2) != decide (d.edge 2 = 2) || decide (d.edge 1 = 2) != decide (d.edge 3 = 2) ||
  (cheq && decide (d.edge 0 = 2) && decide (d.ih % 2 = 1)) || decide (d.base % 4 ≠ 0) || decide (2 ≤ d.flags) ||
  (bs.drop 36).any (fun x => decide (x ≠ 0)) || decide (d.run < d.remaining) ||
  (decide (d.flags = 1) && decide (d.remaining = 0)) ||
  decide (0x3C0000 < d.base + (if d.carries (d.runOf g) then 2 * d.size else d.size)) ||
  (decide (d.remaining = 0) && decide (2 ^ 32 ≤ g))

/-- HALO_SHORT (R345). -/
def TileD.short (d : TileD) (cheq : Bool) (hood g : Nat) : Bool :=
  let need := hoodRadius hood * (d.runOf g) * (if cheq then 2 else 1)
  (List.range 4).any fun k => decide (d.edge k = 0) && decide ((if k % 2 = 0 then d.halo else 32) < need)

/-! ## Cells (R339) -/

/-- The codes of the stored cells, row by row, from the words of a tile. -/
def TileD.cells (d : TileD) (bs : List Byte) : List Nat :=
  let words := (wordsAt bs 0 (d.size / 4)).toArray
  (List.range (d.sh * d.sw)).map fun p =>
    let y := p / d.sw
    let x := p % d.sw
    ((List.range d.bits).map fun j => if bitOf (words[(j * d.sh + y) * (d.sw / 32) + x / 32]?.getD 0) (x % 32) then 2 ^ j else 0).sum

/-- Whether a stored cell lies in the interior. -/
def TileD.interior (d : TileD) (x y : Nat) : Bool :=
  decide (32 ≤ x) && decide (x < 32 + d.iw) && decide (d.halo ≤ y) && decide (y < d.halo + d.ih)

/-- A lattice cell (R343). -/
def TileD.lattice (d : TileD) (x y : Nat) : Bool :=
  (decide (32 ≤ x) || decide (d.edge 3 = 0)) && (decide (x < 32 + d.iw) || decide (d.edge 1 = 0)) &&
  (decide (d.halo ≤ y) || decide (d.edge 0 = 0)) && (decide (y < d.halo + d.ih) || decide (d.edge 2 = 0))

/-- The word of plane j, row y and word column w that cells give. -/
def TileD.word (d : TileD) (cells : Array Nat) (j y w : Nat) : Nat :=
  ((List.range 32).map fun i => if bitOf (cells[y * d.sw + 32 * w + i]?.getD 0) j then 2 ^ i else 0).sum

/-- The words whose cells meet a condition, with their offsets from the tile's base. -/
def TileD.words (d : TileD) (cells : List Nat) (p : Nat → Nat → Bool) : List (Nat × Nat) :=
  let arr := cells.toArray
  ((List.range d.bits).map fun j => ((List.range d.sh).map fun y => (List.range (d.sw / 32)).filterMap fun w =>
    if p (32 * w) y then some (4 * ((j * d.sh + y) * (d.sw / 32) + w), d.word arr j y w) else none).flatten).flatten

/-! ## Generations (R343, R344) -/

/-- A coordinate resolved against its two sides: none where FILL applies. WRAP adds or subtracts the extent once (log 43). -/
def resolve (lo n : Nat) (modeLow modeHigh : Nat) (x : Int) : Option Int :=
  if x < lo then (match modeLow with | 0 => some x | 1 => none | _ => some (x + n))
  else if lo + n ≤ x then (match modeHigh with | 0 => some x | 1 => none | _ => some (x - n))
  else some x

/-- The code of a neighbour: none where it lies outside the stored tile. -/
def TileD.neighbour (d : TileD) (w : Array Nat) (x y : Int) : Option Nat :=
  match resolve 32 d.iw (d.edge 3) (d.edge 1) x, resolve d.halo d.ih (d.edge 0) (d.edge 2) y with
  | some a, some b =>
    if 0 ≤ a && decide (a < d.sw) && decide (0 ≤ b) && decide (b < d.sh) then w[b.toNat * d.sw + a.toNat]? else none
  | _, _ => some d.fill

/-- The new code of a cell. -/
def TileD.newCode (d : TileD) (t : RuleTab) (entries : Array Byte) (w : Array Nat) (x y : Nat) : Nat :=
  let old := w[y * d.sw + x]?.getD 0
  match (hoodOffsets t.hood).mapM fun o => d.neighbour w (x + o.1) (y + o.2) with
  | some cs => (entries[ruleIndex t.kind t.hood d.bits old cs]?.getD 0).toNat % 2 ^ d.bits
  | none => old

/-- update(S) for the lattice cells that meet a condition. -/
def TileD.update (d : TileD) (t : RuleTab) (p : Nat → Nat → Bool) (w : List Nat) : List Nat :=
  let arr := w.toArray
  let entries := t.entries.toArray
  (List.range (d.sh * d.sw)).map fun k =>
    let x := k % d.sw
    let y := k / d.sw
    if d.lattice x y && p x y then d.newCode t entries arr x y else arr[k]?.getD 0

/-- One generation (R344). -/
def TileD.generation (d : TileD) (t : RuleTab) (cheq : Bool) (w : List Nat) : List Nat :=
  let par := fun (x y : Nat) => (d.x0 + x - 32 + d.y0 + y - d.halo) % 2
  if cheq then d.update t (fun x y => decide (par x y = 1)) (d.update t (fun x y => decide (par x y = 0)) w)
  else d.update t (fun _ _ => true) w

/-! ## RSTEP (R348, R349) -/

/-- A list of words stored at offsets from an address, as stores of the thread in focus. -/
def State.storeWords (s : State) (ag : Agent) (base : Nat) : List (Nat × Nat) → Res State
  | [] => .ok s
  | (off, x) :: rest => do
    let (ps, sl) ← s.checkRange ag 4 (base + off) 4
    let s1 ← s.storeRange ps sl (leBytes 4 x)
    s1.storeWords ag base rest

/-- The halo cells of the working state taken from the carry tile. -/
def TileD.withCarry (d : TileD) (tile carry : List Nat) : List Nat :=
  ((List.range (d.sh * d.sw)).zip (tile.zip carry)).map fun z => if d.interior (z.1 % d.sw) (z.1 / d.sw) then z.2.1 else z.2.2

/-- The working state that an RSTEP starts from: the tile, with the halo of the carry tile where CARRY_VALID is set. -/
def TileD.start (d : TileD) (s : State) : Res (List Nat) := do
  let tile ← s.readRange s.agent 4 d.base d.size
  if d.flags = 1 then do
    let carry ← s.readRange s.agent 4 (d.base + d.size) d.size
    .ok (d.withCarry (d.cells tile) (d.cells carry))
  else .ok (d.cells tile)

/-- What those reads leave. -/
def TileD.seen (d : TileD) (s : State) : State :=
  let s1 := s.sawRange s.agent 4 d.base d.size
  if d.flags = 1 then s1.sawRange s.agent 4 (d.base + d.size) d.size else s1

/-- An RSTEP whose checks 1 to 5 have passed. -/
def rstepStart (cheq : Bool) (ra g : Nat) (bs : List Byte) (d : TileD) (s : State) : Res State := do
  s.checkBoth s.agent 4 d.base d.size
  s.checkBoth s.agent 4 (d.base + d.size) (if d.carries (d.runOf g) then d.size else 0)
  let seen := s.sawRange s.agent 64 ra 64
  if d.remaining = 0 && decide (g = 0) then .ok seen.leaveLantern
  else if s.ctx.preempt ≠ .none then .error (.waitIn s.leaveLantern .rstep)
  else do
    let s1 ← (if d.remaining = 0 then seen.storeWords s.agent ra [(32, g), (24, g)] else .ok seen : Res State)
    let w ← d.start s1
    let job : RuleJob :=
      { thread := s.thr.id, cheq := cheq, addr := ra, image := bs, run := d.runOf g, gen := d.gen,
        remaining := if d.remaining = 0 then g else d.remaining, working := w }
    .error (.waitIn ((d.seen s1).updVc fun v => { v with rule := some job }) .rstep)

def rstepCore (cheq : Bool) (x : CArgs) (s : State) : Res State := do
  let ra := (s.thr.getS x.r.a).toNat
  let g := (s.thr.getS x.r.b).toNat
  s.checkBoth s.agent 64 ra 64
  let bs ← s.readRange s.agent 64 ra 64
  let d := tileOf bs
  refuseIf (d.bad bs cheq g) .tileDescriptor
  match s.vc.table with
  | none => raise .ruleTable
  | some t => do
    refuseIf (decide (t.bits ≠ d.bits)) .ruleTable
    refuseIf (d.short cheq t.hood g) .haloShort
    rstepStart cheq ra g bs d s
def rstepBody (cheq : Bool) (x : CArgs) (s : State) : Res State := s.inLantern (rstepCore cheq x)
def execRstepSync (x : CArgs) (s : State) : Out := finishA 16 s (rstepBody false x s)
def execRstepCheq (x : CArgs) (s : State) : Out := finishA 16 s (rstepBody true x s)

/-- A generation of the running RSTEP, and the writes of its boundary. -/
def boundaryBody (j : RuleJob) (t : RuleTab) (s : State) : Res State := do
  let d := tileOf j.image
  let w := d.generation t j.cheq j.working
  let gen := (j.gen + 1) % 2 ^ 32
  let rem := j.remaining - 1
  let s1 ← s.storeWords s.stepAgent d.base (d.words w d.interior)
  let s2 ← s1.storeWords s.stepAgent j.addr [(20, gen), (24, rem)]
  let carry := d.carries j.run && decide (rem ≠ 0)
  let s3 ← (if carry then s2.storeWords s.stepAgent (d.base + d.size) (d.words w fun x y => d.lattice x y && !d.interior x y)
    else .ok s2 : Res State)
  let s4 ← s3.storeWords s.stepAgent j.addr [(28, b2n carry)]
  let s5 := (s4.markLeaf j.addr true).renew j.addr
  if rem = 0 then .ok (s5.updVc fun v => { v with rule := none }).leaveLantern
  else .error (.waitIn (s5.updVc fun v => { v with rule := some { j with gen := gen, remaining := rem, working := w } }) .rstep)

/-- GENERATION_BOUNDARY: the running RSTEP of the thread named by the request completes one generation. -/
def execGenerationBoundary (s0 : State) : Out :=
  let s := s0.focus s0.req.t
  match s.vc.rule, s.vc.table with
  | some j, some t =>
    if s.ctx.goesOn && decide (s.thr.status = .running) && decide (s.thr.waitA = .rstep) && decide (j.thread = s.thr.id) then
      finishA 16 s (boundaryBody j t s)
    else .next s0
  | _, _ => .next s0

end Sys2Proof.Machine
end

