-- ==== Sys2Proof/Machine/Retired.lean ====
section
/-! DEFINITION. PPT (R383, R384) and the retired majors, whose effect firmware completes (R59, R97, R98). -/

namespace Sys2Proof.Machine

/-! ## PPT -/

/-- A liveness record (R383). -/
structure Live where
  slive : Nat
  vlive : Nat
  llive : Nat
  klive : Nat
  first : Nat
  count : Nat
  dead : List (Nat × Nat)
  deriving DecidableEq, Repr

def liveOf (bs : List Byte) : Live where
  slive := fieldAt bs 0 8
  vlive := fieldAt bs 8 8
  llive := fieldAt bs 16 4
  klive := fieldAt bs 20 1
  first := fieldAt bs 24 2
  count := fieldAt bs 26 2
  dead := (List.range 4).map fun i => (fieldAt bs (32 + 8 * i) 4, fieldAt bs (36 + 8 * i) 4)

/-- RECORD_INVALID of R384 step 1. -/
def Live.bad (l : Live) (bs : List Byte) : Bool :=
  decide (fieldAt bs 21 3 ≠ 0) || decide (fieldAt bs 28 4 ≠ 0) || decide (256 < l.first + l.count) ||
  l.dead.any fun r => decide (r.2 ≠ 0) && decide (960 < r.1 + r.2)

/-- The changes of R166 to a thread. Which kind's level links are evaluated first the manual leaves open, R161 ordering those of one kind: here the
A-kind ones, a DESIGN CHOICE that shows in ctl.fdetail where a CK link of each kind overflows (log 56). -/
def Thread.pptThread (t : Thread) (l : Live) : Res Thread := do
  let t1 := { t with
    l := Vector.ofFn fun i : Fin 32 => if bitOf l.llive i.val then t.getL i.val else none
    s := Vector.ofFn fun i : Fin 64 => if bitOf l.slive i.val then t.getS i.val else 0
    v := Vector.ofFn fun i : Fin 64 => if bitOf l.vlive i.val then t.getV i.val else Lanes.zero }
  let t2 ← reevalA (topoOrder 32 (t1.links false)) t1
  reevalE (topoOrder 32 (t2.links true)) t2

/-- The dead pages of a core's slice: they read as zero. -/
def State.killPages (s : State) (r : Nat × Nat) : State :=
  { s with mem := Memory.zeroN s.mem (s.vc.phys * 0x400000 + 4096 * r.1) (4096 * r.2)
           vc := { s.vc with dead := (s.vc.dead ++ List.range' r.1 r.2).eraseDups } }

/-- The changes of R384 to the core. -/
def VCore.pptCore (v : VCore) (l : Live) : VCore :=
  { (v.mapRows 0 256 fun i r => if l.first ≤ i && decide (i < l.first + l.count) then r else r.wipe) with bank0 := none, bank1 := none }

def pptBody (i : IArgs) (s : State) : Res State := do
  let bs ← s.poolRead i.imm 64
  let l := liveOf bs
  refuseIfD (l.bad bs) .recordInvalid i.imm
  let s1 ← s.quiesce l.klive
  let t ← s1.thr.pptThread l
  .ok (l.dead.foldl State.killPages (((s1.sawRecord i.imm 64).setThr { t with liveRows := (l.first, l.count) }).updVc fun v => v.pptCore l))

/-- Step 4: with pre-emption pending the thread stops after the PPT, but not in handler mode (R378, R385). -/
def State.pptStop (s : State) : State :=
  if decide (s.ctx.preempt ≠ .none) && !s.thr.handler && decide (s.thr.status = .running) then s.updThr fun t => { t with status := .stopped }
  else s

def execPpt (i : IArgs) (s : State) : Out :=
  match pptBody i s with
  | .ok s1 => .next (s1.retireTo (s.after 8)).pptStop
  | .error e => finishTo s (.error e)

/-! ## Retired majors -/

/-- RETIRED_OP of an A-stream major is taken when every older E-stream instruction has completed (R376), and firmware completes the effect then. -/
def State.retiredA (s : State) : Res Unit := waitIf (!s.thr.ePath.isEmpty) .other

/-- What the emulation handler refuses: an FN, or a field that the Z3 did not define (R59, R97). -/
def retiredFields (fn : Nat) (zero : List Nat) : Res Unit :=
  if fn ≠ 0 then raise .illegalOpcode
  else if zero.any fun x => decide (x ≠ 0) then raise .reservedField
  else .ok ()

def ldpBody (fn : Nat) (m : MArgs) (s : State) : Res State := do
  s.retiredA
  retiredFields fn [m.sz, m.ord, m.scope, m.q]
  refuseIf (decide (m.d = 63)) .reservedField
  s.thr.checkDest m.d
  s.thr.checkDest (m.d + 1)
  let ea := (s.thr.effAddr m).toNat
  let as := [{ readAcc ea 8 with align := 16 }, readAcc (ea + 8) 8]
  let ts ← s.checkAll s.agent as
  let xs ← s.readAll s.agent as ts
  let t1 := (s.thr.setS m.d (BitVec.ofNat 64 (xs[0]?.getD 0))).setS (m.d + 1) (BitVec.ofNat 64 (xs[1]?.getD 0))
  let t2 ← t1.settleA (if m.d = 0 then [1] else [m.d, m.d + 1])
  .ok ((s.traffic false ts).setThr t2)
def execLdp (fn : Nat) (m : MArgs) (s : State) : Out := finishA 8 s (ldpBody fn m s)

/-- The signed byte i of a register. -/
def sbyte (x : W64) (i : Nat) : Int := toSigned 8 (x.toNat / 2 ^ (8 * i))

def mma8Val (r : RArgs) (s : State) : W64 :=
  s.thr.getS r.c + BitVec.ofInt 64 ((List.range 8).map fun i => sbyte (s.thr.getS r.a) i * sbyte (s.thr.getS r.b) i).sum
def mma8Body (fn : Nat) (r : RArgs) (s : State) : Res State := do
  s.retiredA
  retiredFields fn [r.msk, r.ty, r.rm, r.x16]
  scalarOp r.d (mma8Val r) s
def execMma8 (fn : Nat) (r : RArgs) (s : State) : Out := finishA 8 s (mma8Body fn r s)

def bindxBody (fn : Nat) (r : RArgs) (s : State) : Res State := do
  s.retiredA
  retiredFields fn [r.msk, r.ty, r.rm, r.x16 / 32]
  bindBody (levelLink false 2 r) (slotOf r) s
def execBindx (fn : Nat) (r : RArgs) (s : State) : Out := finishA 8 s (bindxBody fn r s)

/-- The active lanes of an emulated E-stream major. -/
def emuAct (r : RArgs) (t : Thread) : W32 := t.getM r.msk &&& t.getM 0

/-- The address of a lane of VLDE and VSTE. -/
def emuAddr (r : RArgs) (t : Thread) (i : Nat) : Nat := ((t.getV r.a).lane i).toNat

def vldeBody (fn : Nat) (r : RArgs) (s : State) : Res State := do
  retiredFields fn [r.b, r.c, r.ty, r.rm, r.x16]
  s.thr.checkDestV r.d
  let lanes := activeLanes (emuAct r s.thr)
  let as := lanes.map fun i => readAcc (emuAddr r s.thr i) 4 (.lane i)
  let ts ← s.checkAll s.agentE as
  let xs ← s.readAll s.agentE as ts
  let t1 ← s.thr.writeV r.d (emuAct r s.thr) (scatterLanes lanes (xs.map (BitVec.ofNat 32)))
  .ok ((s.traffic false ts).setThr t1)
def execVlde (fn : Nat) (r : RArgs) (s : State) : Out := finishE 8 s (vldeBody fn r s)

/-- The stores of VSTE, with their bytes. -/
def vsteStores (r : RArgs) (t : Thread) : List (Access × List Byte) :=
  let lanes := activeLanes (emuAct r t)
  let cover := lanes.map fun i => (emuAddr r t i, 4)
  lanes.map fun i => ({ writeAcc (emuAddr r t i) 4 (.lane i) with cover := cover }, leBytes 4 ((t.getV r.d).lane i).toNat)

def vsteBody (fn : Nat) (r : RArgs) (s : State) : Res State := do
  retiredFields fn [r.b, r.c, r.ty, r.rm, r.x16]
  let xs := vsteStores r s.thr
  let ts ← s.checkAll s.agentE (xs.map Prod.fst)
  let ps := storesOf xs xs (ts.map Slot.ready)
  .ok ((s.updThr fun t => { t with stores := t.stores ++ ps }).traffic true (ps.map fun p => .mem p.pa))
def execVste (fn : Nat) (r : RArgs) (s : State) : Out := finishE 8 s (vsteBody fn r s)

/-- A lane of VDOTQ: DOT4 added with saturation. -/
def vdotqLane (r : RArgs) (t : Thread) (i : Nat) : W32 :=
  let a := (t.getV r.a).lane i
  let b := (t.getV r.b).lane i
  let dot := ((List.range 4).map fun j => toSigned 8 (elem 8 j a) * toSigned 8 (elem 8 j b)).sum
  BitVec.ofInt 32 (clampS 32 (((t.getV r.d).lane i).toInt + dot))

def vdotqBody (fn : Nat) (r : RArgs) (s : State) : Res State := do
  retiredFields fn [r.c, r.ty, r.rm, r.x16]
  s.thr.checkDestV r.d
  let t1 ← s.thr.writeV r.d (emuAct r s.thr) (Lanes.make (vdotqLane r s.thr))
  .ok (s.setThr t1)
def execVdotq (fn : Nat) (r : RArgs) (s : State) : Out := finishE 8 s (vdotqBody fn r s)

end Sys2Proof.Machine
end

