-- ==== Sys2Proof/Machine/Loader.lean ====
section
/-! DEFINITION. The loader of code objects (R72 to R91, R94, R95): the checks in the order of R91, the choice of an image, the places that the
request gives, relocation, and registration. -/

namespace Sys2Proof.Machine

/-- A check of the loader: the load status of the first failure (R91). -/
abbrev Load (α : Type) := Except Nat α

/-- The statuses of R91. -/
def stHeader : Nat := 1
def stGeneration : Nat := 2
def stSection : Nat := 3
def stUnderstand : Nat := 4
def stNote : Nat := 5
def stImage : Nat := 6
def stReloc : Nat := 7
def stUnresolved : Nat := 8
def stProfile : Nat := 9
def stNear : Nat := 10
def stSpace : Nat := 11

def failIf (b : Bool) (status : Nat) : Load Unit := if b then .error status else .ok ()

/-! ## Sections (R72 to R75) -/

/-- A section table entry with its contents, and its number (R73). -/
structure Sec where
  index : Nat
  kind : Nat
  flags : Nat
  offset : Nat
  size : Nat
  address : Nat
  align : Nat
  link : Nat
  name : Nat
  info : Nat
  body : List Byte
  deriving DecidableEq, Repr

/-- A known type (R75). -/
def Sec.known (x : Sec) : Bool := decide (1 ≤ x.kind) && decide (x.kind ≤ 13)
def Sec.alloc (x : Sec) : Bool := x.known && bitOf x.flags 0
def Sec.near (x : Sec) : Bool := x.alloc && bitOf x.flags 4

/-- The section of a table entry. -/
def secOf (file : List Byte) (index : Nat) (e : List Byte) : Sec where
  index := index
  kind := fieldAt e 0 4
  flags := fieldAt e 4 4
  offset := fieldAt e 8 8
  size := fieldAt e 16 8
  address := fieldAt e 24 8
  align := fieldAt e 32 4
  link := fieldAt e 36 4
  name := fieldAt e 40 4
  info := fieldAt e 44 4
  body := if fieldAt e 0 4 = 4 then [] else (file.drop (fieldAt e 8 8)).take (fieldAt e 16 8)

/-- ALLOC, EXEC and WRITE of a type (R74). -/
def secFlags : Nat → Nat
  | 1 => 3
  | 2 | 5 | 6 => 1
  | 3 | 4 => 5
  | _ => 0

/-- The section at an index, of type 0 where there is none. -/
def secAt (secs : List Sec) (i : Nat) : Sec := secs[i]?.getD (secOf [] i [])

/-- BAD_SECTION of R73 to R76 for a section of a known type. That a RELOC section patches an ALLOC or a HANDLERS section, and any other LINK is
BAD_SECTION, is a DESIGN CHOICE (log 30). -/
def Sec.bad (n : Nat) (secs : List Sec) (x : Sec) : Bool :=
  decide (x.flags % 8 ≠ secFlags x.kind) || decide (32 ≤ x.flags) || (bitOf x.flags 4 && !(decide (x.kind = 3) || decide (x.kind = 4))) ||
  (decide (x.kind ≠ 4) && decide (n < x.offset + x.size)) || decide (30 < x.align) ||
  (if bitOf x.flags 4 then decide (0x3C0000 < x.address + x.size) || decide (x.address % 2 ^ x.align ≠ 0) else decide (x.address ≠ 0)) ||
  (match x.kind with
   | 9 => decide (secs.length ≤ x.link) || !((secAt secs x.link).alloc || decide ((secAt secs x.link).kind = 12)) ||
      decide ((secAt secs (x.info / 256 % 65536)).kind ≠ 7) || decide (x.info / 2 ^ 24 ≠ 0)
   | 7 => decide ((secAt secs x.link).kind ≠ 8) || decide (256 ≤ x.info)
   | _ => decide (x.link ≠ 0) || decide (256 ≤ x.info))

def Sec.check (n : Nat) (secs : List Sec) (x : Sec) : Load Unit :=
  if x.known then failIf (x.bad n secs) stSection else failIf (bitOf x.flags 3) stUnderstand

/-- The header (R72): what breaks it, and a generation that is none. BAD_HEADER for a file of less than 64 bytes is a DESIGN CHOICE (log 30). -/
def headerCheck (f : List Byte) : Load Unit := do
  failIf (decide (f.length < 64) || decide (fieldAt f 0 4 ≠ 0x014F4E5A) || decide (fieldAt f 4 2 ≠ 1) || decide (fieldAt f 6 2 ≠ 64) ||
    decide (fieldAt f 24 4 ≠ 48) || decide (2 ≤ fieldAt f 12 4) || decide (fieldAt f 40 24 ≠ 0)) stHeader
  failIf (decide (fieldAt f 8 4 = 0) || decide (4 < fieldAt f 8 4)) stGeneration

/-- The section table, checked. -/
def sectionTable (f : List Byte) : Load (List Sec) := do
  let n := fieldAt f 16 4
  let off := fieldAt f 20 4
  failIf (decide (n = 0) || decide (65535 < n) || decide (off % 8 ≠ 0) || decide (f.length < off + 48 * n) ||
    decide (fieldAt f 32 8 ≠ f.length)) stSection
  let secs := (List.range n).map fun i => secOf f i ((f.drop (off + 48 * i)).take 48)
  let _ ← secs.mapM (Sec.check f.length secs)
  failIf (decide ((secAt secs (fieldAt f 28 4)).kind ≠ 8) || decide ((secs.filter fun x => decide (x.kind = 11)).length ≠ 1)) stSection
  .ok secs

/-! ## Notes (R85) -/

/-- What the notes of an object say: its build identifier and the least spill capacity. -/
structure Notes where
  buildId : List Byte
  spillMin : Nat
  deriving DecidableEq, Repr

/-- The notes of a section (R85). BAD_SECTION for a reserved field or a FLAGS bit that is not zero and for a payload that runs past the section is
a DESIGN CHOICE (log 30). -/
def noteLoop : Nat → List Byte → Notes → Load Notes
  | 0, _, a => .ok a
  | n + 1, bs, a =>
    if bs.isEmpty then .ok a
    else do
      let len := fieldAt bs 8 4
      let whole := 16 + (len + 7) / 8 * 8
      failIf (decide (bs.length < whole) || decide (2 ≤ fieldAt bs 4 4) || decide (fieldAt bs 12 4 ≠ 0)) stSection
      let x := (bs.drop 16).take len
      let a' ← (match fieldAt bs 0 4 with
        | 1 => .ok a
        | 2 => if len = 0 || decide (32 < len) then .error stSection else .ok { a with buildId := x }
        | 3 => if len ≠ 4 then .error stSection else .ok { a with spillMin := max a.spillMin (leNat x) }
        | 4 => if len ≠ 4 then .error stSection else if Config.firmwareVersion < leNat x then .error stNote else .ok a
        | _ => if fieldAt bs 4 4 = 1 then .error stNote else .ok a : Load Notes)
      noteLoop n (bs.drop whole) a'

def notesOf (secs : List Sec) : Load Notes :=
  (secs.filter fun x => decide (x.kind = 10)).foldlM (fun a x => noteLoop (x.body.length / 16 + 1) x.body a) { buildId := [], spillMin := 0 }

/-! ## Images (R80, R86 to R90) -/

structure ObjImage where
  index : Nat
  kind : Nat
  generation : Nat
  pref : Nat
  features : Nat
  deriving DecidableEq, Repr

def objImage (bs : List Byte) (i : Nat) : ObjImage where
  index := i
  kind := fieldAt (bs.drop (16 * i)) 0 1
  generation := fieldAt (bs.drop (16 * i)) 1 1
  pref := fieldAt (bs.drop (16 * i)) 2 2
  features := fieldAt (bs.drop (16 * i)) 8 8

/-- The better of two native images: the higher PREF, among equals the lower number. -/
def ObjImage.better (a b : ObjImage) : ObjImage := if a.pref < b.pref then b else a

/-- The image selected (R88). BAD_SECTION for a table of a broken size, a reserved field that is not zero, GENERATION 0 and a second portable
image is a DESIGN CHOICE (log 30). -/
def selectImage (features : Nat) (bs : List Byte) : Load ObjImage := do
  let ims := (List.range (bs.length / 16)).map (objImage bs)
  failIf (decide (bs.length % 16 ≠ 0) || ims.any (fun i => decide (2 ≤ i.kind) || decide (i.generation = 0) || decide (fieldAt (bs.drop (16 * i.index)) 4 4 ≠ 0)) ||
    decide (1 < (ims.filter fun i => decide (i.kind = 1)).length)) stSection
  match (ims.filter fun i => decide (i.kind = 0) && decide (i.generation ≤ 4) && decide (Nat.land i.features features = i.features)) with
  | i :: rest => .ok (rest.foldl ObjImage.better i)
  | [] => match ims.find? fun i => decide (i.kind = 1) with
    | some i => .ok i
    | none => .error stImage

/-- A section of the selected image, or a common one. -/
def Sec.of (i : ObjImage) (x : Sec) : Bool := x.known && (decide (x.info % 256 = i.index) || decide (x.info % 256 = 255))

/-- The pool of an image (R80). The status of a pool above 128 KiB is a DESIGN CHOICE (log 30). -/
def poolOf (i : ObjImage) (secs : List Sec) : Load (Option Sec) :=
  let all := secs.filter fun x => decide (x.kind = 5)
  let own := all.filter fun x => decide (x.info % 256 = i.index)
  match (if own.isEmpty then all.filter (fun x => decide (x.info % 256 = 255)) else own) with
  | [] => .ok none
  | [x] => if 131072 < x.size then .error stSection else .ok (some x)
  | _ => .error stSection

/-- The rows of a handler table (R90). -/
def handlerRows (bs : List Byte) : List (Nat × Nat) :=
  (List.range (bs.length / 16)).map fun k => (fieldAt (bs.drop (16 * k)) 0 4, fieldAt (bs.drop (16 * k)) 8 8)

/-- The check of the handler tables (R90). BAD_SECTION for a broken size, a reserved field that is not zero and TYPE 0, and that the tables of
another image than the selected one are not looked at, are DESIGN CHOICES (log 30). -/
def handlersCheck (i : ObjImage) (secs : List Sec) : Load Unit :=
  let bodies := (secs.filter fun x => x.of i && decide (x.kind = 12)).map Sec.body
  let rows := (bodies.map handlerRows).flatten
  failIf (bodies.any (fun b => decide (b.length % 16 ≠ 0) || (List.range (b.length / 16)).any fun k => decide (fieldAt (b.drop (16 * k)) 4 4 ≠ 0)) ||
    rows.any (fun r => decide (r.1 = 0)) || !decide ((rows.map Prod.fst).Nodup)) stSection

/-! ## Symbols (R77) -/

/-- A symbol of a table: its name, section, value, binding and kind. -/
structure RawSym where
  name : List Byte
  sec : Nat
  value : Nat
  bind : Nat
  kind : Nat
  deriving DecidableEq, Repr

/-- The name at an offset of a string table. -/
def nameAt (strtab : List Byte) (off : Nat) : List Byte := (strtab.drop off).takeWhile fun b => decide (b ≠ 0)

def rawSym (secs : List Sec) (tab : Sec) (k : Nat) : RawSym :=
  let e := (tab.body.drop (24 * k)).take 24
  { name := nameAt (secAt secs tab.link).body (fieldAt e 0 4)
    sec := fieldAt e 4 4
    value := fieldAt e 8 8
    bind := fieldAt e 20 1
    kind := fieldAt e 21 1 }

/-- The symbols of a table. -/
def symsOf (secs : List Sec) (tab : Sec) : List RawSym := (List.range (tab.body.length / 24)).map (rawSym secs tab)

/-- A table with a reserved field that is not zero, a BIND or a KIND that R77 does not list, or a broken size: BAD_SECTION for it is a DESIGN CHOICE
(log 30). -/
def symtabBad (tab : Sec) : Bool :=
  decide (tab.body.length % 24 ≠ 0) || (List.range (tab.body.length / 24)).any fun k =>
    let e := tab.body.drop (24 * k)
    decide (fieldAt e 22 2 ≠ 0) || decide (2 ≤ fieldAt e 20 1) || decide (6 ≤ fieldAt e 21 1)

/-! ## The base profile (R89) -/

/-- Whether an instruction belongs to the base profile, by its words. -/
def inProfile (w0 w1 : Nat) : Bool :=
  let op := opOf w0
  let fn := fnOf w0
  let index := w1 / 65536
  let tReg := decide (0x010 ≤ index) && decide (index ≤ 0x012)
  let hwReg := (decide (0x020 ≤ index) && decide (index ≤ 0x025)) || (decide (0x060 ≤ index) && decide (index ≤ 0x067)) || decide (index = 0x070)
  decide (112 ≤ op) ||
  (match stOf w0, lenOf w0 with
   | 0, 0 => (decide (1 ≤ op) && decide (op ≤ 10)) || op == 16 || op == 17 || (decide (24 ≤ op) && decide (op ≤ 26)) ||
      (decide (32 ≤ op) && decide (op ≤ 42)) || (op == 45 && decide (1 ≤ fn)) || (op == 48 && (tReg || (hwReg && fn == 0))) ||
      (op == 49 && decide (fn ≤ 1)) || op == 50 || op == 64
   | 0, 1 => op == 9 || op == 24
   | 0, _ => op == 1 || op == 2 || op == 8
   | _, 0 => op != 16 && decide (op < 96)
   | _, _ => true)

/-- Every instruction of a code section from an offset on is of the base profile. That a word which the decoder refuses is not of it, whatever its
major, is a DESIGN CHOICE (log 30). -/
def profileFrom (bs : List Byte) : Nat → Nat → Bool
  | 0, _ => true
  | n + 1, off =>
    if bs.length ≤ off then true
    else
      let here := bs.drop off
      match decodeAt (off % 32) (here.take 16) with
      | .pad => profileFrom bs n (off + 4)
      | .instr _ len => inProfile (fieldAt here 0 4) (fieldAt here 4 4) && profileFrom bs n (off + len)
      | .fault _ => false

/-- The entries of a section: their offsets. -/
def entryOffsets (syms : List RawSym) (x : Sec) : List Nat :=
  (syms.filter fun y => decide (y.kind = 3) && decide (y.sec = x.index)).map RawSym.value

def profileCheck (i : ObjImage) (secs : List Sec) (syms : List RawSym) : Load Unit :=
  if i.kind = 0 then .ok ()
  else failIf (secs.any fun x => x.of i && decide (x.kind = 1) &&
    (entryOffsets syms x).any fun o => !profileFrom x.body (x.body.length / 4 + 1) o) stProfile

/-! ## Placement (R76, R369) -/

/-- A placed section: its address, the LSIZE of its holding, and its bytes. -/
structure Place where
  sec : Sec
  addr : Nat
  lsize : Nat
  bytes : List Byte
  deriving DecidableEq, Repr

/-- The smallest LSIZE for a size (R76), 41 where there is none. -/
def lsizeFor (size : Nat) : Nat := (((List.range 29).map (· + 12)).find? fun l => decide (size ≤ 2 ^ l)).getD 41

/-- The smallest aligned block of at least 4 KiB that covers a NEAR section (R369). -/
def nearLsize (x : Sec) : Nat :=
  (((List.range 11).map (· + 12)).find? fun l => decide (x.address / 2 ^ l = (x.address + (x.size - 1)) / 2 ^ l)).getD 22

/-- The sections that are placed at addresses of the request, in table order. -/
def farSecs (i : ObjImage) (secs : List Sec) : List Sec := secs.filter fun x => x.of i && x.alloc && !x.near
def nearSecs (i : ObjImage) (secs : List Sec) : List Sec := secs.filter fun x => x.of i && x.near

def farPlaces (i : ObjImage) (secs : List Sec) (at_ : List Nat) : List Place :=
  ((farSecs i secs).zip (at_ ++ List.replicate secs.length 0)).map fun y =>
    { sec := y.1, addr := y.2, lsize := lsizeFor y.1.size, bytes := y.1.body }
def nearPlaces (i : ObjImage) (secs : List Sec) : List Place :=
  (nearSecs i secs).map fun x => { sec := x, addr := x.address, lsize := nearLsize x, bytes := x.body }

/-- A range that a holding of the context overlaps (R367). -/
def Ctx.overlaps (c : Ctx) (base n : Nat) : Bool := c.holdings.any fun e => meets base n e.2.base (2 ^ e.2.lsize)

/-- The pages that a place lies in. -/
def Place.pages (p : Place) : List Nat := (List.range (max 1 ((p.sec.size + 65535) / 65536))).map fun k => p.addr + 65536 * k

/-- The pages of a place have the permissions of R76. That every LINKAGE section needs pages with W = 1, a sealed one too, and that DATA and ZERO
sections do, is a DESIGN CHOICE (log 30). -/
def State.pagesFit (s : State) (p : Place) : Bool :=
  p.pages.all fun va =>
    match s.walk va with
    | .leaf pte _ _ =>
      let w := bitOf pte 3
      (match p.sec.kind with
       | 1 => bitOf pte 4 && !w
       | 2 | 5 => !w
       | _ => w)
    | _ => false

/-- A place that the request gives is one that R76 allows. -/
def State.placeFits (s : State) (p : Place) : Bool :=
  decide (p.lsize ≤ 40) && decide (p.addr % 2 ^ p.lsize = 0) && decide (p.addr % 2 ^ p.sec.align = 0) && decide (0x1000000 ≤ p.addr) &&
  decide (p.addr + 2 ^ p.lsize ≤ 2 ^ 56) && !s.ctx.overlaps p.addr (2 ^ p.lsize) && s.pagesFit p &&
  p.pages.all fun va => (s.hwAddr va).toBool

/-- Places that overlap none of the others. -/
def disjoint : List Place → Bool
  | [] => true
  | p :: rest => rest.all (fun q => !meets p.addr (2 ^ p.lsize) q.addr (2 ^ q.lsize)) && disjoint rest

/-- The blocks of the NEAR holdings: those that lie in no larger one. -/
def nearBlocks (ps : List Place) : List (Nat × Nat) :=
  let bs := ((ps.filter fun p => decide (p.sec.size ≠ 0)).map fun p => (p.addr / 2 ^ p.lsize * 2 ^ p.lsize, p.lsize)).eraseDups
  bs.filter fun b => !(bs.any fun c => decide (b.2 < c.2) && decide (b.1 / 2 ^ c.2 = c.1 / 2 ^ c.2))

/-- NEAR sections meet those of a loaded object. -/
def Ctx.nearConflict (c : Ctx) (ps : List Place) : Bool :=
  ps.any fun p => decide (p.sec.size ≠ 0) && c.objects.any fun o => o.nears.any fun r => decide (r.2 ≠ 0) && meets p.addr p.sec.size r.1 r.2

/-- The class of a section's holding (R76, R95), and its holder: the host's code for what the host holds. -/
def Place.holding (c : Ctx) (eager : Bool) (p : Place) : Holding where
  base := p.addr
  lsize := p.lsize
  cls := match p.sec.kind with
    | 3 | 4 => .exclusive
    | 6 => if eager then .sealed else .common
    | _ => .sealed
  holder := if p.sec.kind = 3 || p.sec.kind = 4 then 0x20000 + c.hosts.headD 0 else 0x30000
  inflight := none

/-- Near block b of virtual core n, as a holding that the core holds (R369). -/
def nearHolding (n : Nat) (b : Nat × Nat) : Holding :=
  { base := 0x10000000000 + n * 0x400000 + b.1, lsize := b.2, cls := .exclusive, holder := n, inflight := none }

/-- An EXCLUSIVE holding that covers another one: NEAR sections of one block share it. -/
def Ctx.sharing (c : Ctx) (h : Holding) : Option Nat :=
  (c.holdings.find? fun e => decide (e.2.cls = .exclusive) && decide (e.2.base ≤ h.base) &&
    decide (h.base + 2 ^ h.lsize ≤ e.2.base + 2 ^ e.2.lsize)).map Prod.fst

/-- A holding put at the lowest free index, or the one that it shares: the table and the index. -/
def Ctx.addHolding (c : Ctx) (share : Bool) (h : Holding) : Option (Ctx × Nat) :=
  match (if share then c.sharing h else none) with
  | some k => some (c, k)
  | none =>
    if c.overlaps h.base (2 ^ h.lsize) then none
    else match (List.range 4096).find? fun k => (SMap.find c.holdings k).isNone with
      | some k => some ({ c with holdings := SMap.put c.holdings k h }, k)
      | none => none

def Ctx.addHoldings (share : Bool) : List Holding → Ctx → Option (Ctx × List Nat)
  | [], c => some (c, [])
  | h :: rest, c => do
    let (c1, k) ← c.addHolding share h
    let (c2, ks) ← Ctx.addHoldings share rest c1
    some (c2, k :: ks)

/-! ## Relocation (R78, R79, R95) -/

/-- A relocation that applies: the number of the patched section, and its fields. -/
structure Reloc where
  sec : Nat
  off : Nat
  addend : Int
  sym : Nat
  kind : Nat
  reserved : Nat
  tab : Nat
  deriving DecidableEq, Repr

def relocAt (x : Sec) (k : Nat) : Reloc :=
  let e := (x.body.drop (24 * k)).take 24
  { sec := x.link, off := fieldAt e 0 8, addend := toSigned 64 (fieldAt e 8 8), sym := fieldAt e 16 4, kind := fieldAt e 20 2,
    reserved := fieldAt e 22 2, tab := x.info / 256 % 65536 }

/-- The relocations of an image, in order. That the bytes after the last whole entry of a RELOC section are ignored is a DESIGN CHOICE (log 30). -/
def relocsOf (i : ObjImage) (secs : List Sec) : List Reloc :=
  ((secs.filter fun x => x.of i && decide (x.kind = 9) && (secAt secs x.link).of i).map fun x =>
    (List.range (x.body.length / 24)).map (relocAt x)).flatten

/-- The value and kind of a symbol: `none` where nothing defines it. BAD_RELOC for a symbol of a section that is not placed is a DESIGN CHOICE
(log 30). -/
def symValue (ps : List Place) (globals : List Sym) (y : RawSym) : Load (Option (Nat × Nat)) :=
  if y.sec = 0xFFFFFFFE then .ok (some (y.value, y.kind))
  else if y.sec = 0xFFFFFFFF then .ok ((globals.find? fun g => decide (g.name = y.name)).map fun g => (g.value, g.kind))
  else match ps.find? fun p => decide (p.sec.index = y.sec) && decide (p.sec.kind ≠ 12) with
    | some p => .ok (some ((p.addr + y.value) % 2 ^ 64, y.kind))
    | none => .error stReloc

def isEntrySym (v kind : Nat) : Bool := decide (kind = 3) && decide (v % 32 = 0)

/-- Formats J, M and I by word 0, as relocations may patch them. -/
def patchesJ (w0 : Nat) : Bool := decide (w0 % 8 = 0) && (decide (opOf w0 = 16) || decide (opOf w0 = 17))
def patchesM (w0 : Nat) : Bool :=
  decide (w0 % 8 = 0) && ((decide (32 ≤ opOf w0) && decide (opOf w0 ≤ 38)) || decide (opOf w0 = 96) || decide (opOf w0 = 112))
def patchesI (w0 : Nat) : Bool :=
  (decide (w0 % 8 = 0) && (opOf w0 == 3 || opOf w0 == 6 || opOf w0 == 9 || opOf w0 == 50 || opOf w0 == 113)) ||
  (decide (w0 % 8 = 1) && opOf w0 == 9)
def isLi (fn w0 : Nat) : Bool := decide (w0 % 8 = 0) && opOf w0 == 9 && fnOf w0 == fn

/-- What a relocation writes: the offset, the length and the value, or BAD_RELOC. A linkage entry is left to the caller. BAD_RELOC for a ZR_POOLBASE
that lies outside a POOL section or not on 32 bytes is a DESIGN CHOICE (log 30). -/
def relocWrite (p : Place) (r : Reloc) (v kind : Nat) : Load (Nat × Nat × Nat) :=
  let w0 := fieldAt (p.bytes.drop r.off) 0 4
  let w1 := fieldAt (p.bytes.drop r.off) 4 4
  let x : Int := v + r.addend
  let rel : Int := toSigned 64 (wrapNat 64 (x - (p.addr + r.off : Nat)))
  let fits : Int → Bool := fun y => decide (-2147483648 ≤ y) && decide (y ≤ 2147483647)
  match r.kind with
  | 1 => .ok (r.off, 8, wrapNat 64 x)
  | 2 =>
    if patchesJ w0 then (if rel % 4 = 0 && fits (rel / 4) then .ok (r.off + 4, 4, wrapNat 32 (rel / 4)) else .error stReloc)
    else if isLi 2 w0 && fits rel then .ok (r.off + 4, 4, wrapNat 32 rel)
    else .error stReloc
  | 3 =>
    let y := toSigned 64 (wrapNat 64 x)
    if patchesM w0 && decide (-524288 ≤ y) && decide (y ≤ 524287) then .ok (r.off + 4, 4, w1 % 4096 + 4096 * wrapNat 20 y) else .error stReloc
  | 4 => if patchesI w0 then .ok (r.off + 4, 4, wrapNat 32 x) else .error stReloc
  | 5 => if isLi 1 w0 then .ok (r.off + 4, 4, wrapNat 64 x / 2 ^ 32) else .error stReloc
  | 6 =>
    if p.sec.kind = 5 && decide (r.off % 32 = 0) && !bitOf (fieldAt (p.bytes.drop r.off) 10 2) 0 then .ok (r.off, 8, wrapNat 64 x) else .error stReloc
  | 8 => if isEntrySym v kind && decide (r.addend = 0) then .ok (r.off, 8, v) else .error stReloc
  | _ => .error stReloc

/-- Bytes of a list replaced from an offset on; a list that ends before it, of a ZERO section, goes on with zeros. -/
def patchAt (bs : List Byte) (off : Nat) (xs : List Byte) : List Byte :=
  bs.take off ++ List.replicate (off - bs.length) 0 ++ xs ++ bs.drop (off + xs.length)

/-- The place of a section with its bytes replaced. -/
def repatch (sec off : Nat) (xs : List Byte) (ps : List Place) : List Place :=
  ps.map fun p => if p.sec.index = sec then { p with bytes := patchAt p.bytes off xs } else p

/-- The parts of the object that stay the same while relocations apply. -/
structure LinkEnv where
  secs : List Sec
  globals : List Sym
  stub : Nat
  eager : Bool
  deriving DecidableEq, Repr

/-- A linkage entry (R94, R95): unbound, or bound under EAGER. -/
def linkEntry (e : LinkEnv) (r : Reloc) (v : Option (Nat × Nat)) : Load (List Byte) :=
  match v with
  | some (x, kind) =>
    if kind = 1 || kind = 3 then
      .ok (if e.eager then leBytes 8 x ++ leBytes 4 r.sym ++ leBytes 4 1 else leBytes 8 e.stub ++ leBytes 4 r.sym ++ leBytes 4 0)
    else .error stReloc
  | none => if e.eager then .error stUnresolved else .ok (leBytes 8 e.stub ++ leBytes 4 r.sym ++ leBytes 4 0)

/-- One relocation: the places with it applied, and the range that it writes. BAD_RELOC for a reserved field that is not zero, for a SYMBOL beyond
the table, for a write that runs past its section, and for a ZR_LINKSLOT that lies outside a LINKAGE section or not on 16 bytes, and that an undefined
symbol which no relocation names fails nothing, are DESIGN CHOICES (log 30). -/
def applyReloc (e : LinkEnv) (ps : List Place) (done : List (Nat × Nat × Nat)) (r : Reloc) : Load (List Place × List (Nat × Nat × Nat)) := do
  let tab := secAt e.secs r.tab
  failIf (decide (r.reserved ≠ 0) || decide (tab.body.length / 24 ≤ r.sym)) stReloc
  match ps.find? fun p => decide (p.sec.index = r.sec) with
  | none => .error stReloc
  | some p => do
    let v ← symValue ps e.globals (rawSym e.secs tab r.sym)
    let (off, n, xs) ← (if r.kind = 7 then do
        failIf (decide (p.sec.kind ≠ 6) || decide (r.off % 16 ≠ 0)) stReloc
        let bs ← linkEntry e r v
        .ok (r.off, 16, bs)
      else match v with
        | none => .error stUnresolved
        | some (x, kind) => do
          let (off, n, y) ← relocWrite p r x kind
          .ok (off, n, leBytes n y) : Load (Nat × Nat × List Byte))
    failIf (decide (p.sec.size < off + n) || done.any fun d => decide (d.1 = r.sec) && meets off n d.2.1 d.2.2) stReloc
    .ok (repatch r.sec off xs ps, (r.sec, off, n) :: done)

/-- Relocations in their order. -/
def applyAll (e : LinkEnv) : List Reloc → List Place → List (Nat × Nat × Nat) → Load (List Place × List (Nat × Nat × Nat))
  | [], ps, done => .ok (ps, done)
  | r :: rest, ps, done => do
    let (ps1, done1) ← applyReloc e ps done r
    applyAll e rest ps1 done1

/-- Steps 7 and 8 of R91: every relocation but the linkage entries of an EAGER object, then those. -/
def relocate (e : LinkEnv) (rs : List Reloc) (ps : List Place) : Load (List Place) := do
  let late := fun r : Reloc => e.eager && decide (r.kind = 7)
  let (ps1, done) ← applyAll e (rs.filter fun r => !late r) ps []
  let (ps2, _) ← applyAll e (rs.filter late) ps1 done
  .ok ps2

/-! ## The bytes placed -/

/-- Bytes placed at an address of the context, page by page, with A and D set in the leaves (R361). -/
def State.placeBytes : Nat → State → Nat → List Byte → State
  | 0, s, _, _ => s
  | n + 1, s, va, bs =>
    if bs.isEmpty then s
    else
      let k := 65536 - va % 65536
      match s.hwAddr va with
      | .ok pa => State.placeBytes n ((s.writePhys pa (bs.take k)).markLeaf va true) (va + k) (bs.drop k)
      | .error _ => s

/-- Bytes at zero at a bus address. -/
def State.zeroPhys (s : State) (b n : Nat) : State :=
  if b < 0x80000000000 then { s with mem := Memory.zeroN s.mem b n } else s.writePhys b (List.replicate n 0)

/-- Bytes at zero from an address of the context on, page by page. -/
def State.placeZero : Nat → State → Nat → Nat → State
  | 0, s, _, _ => s
  | n + 1, s, va, size =>
    if size = 0 then s
    else
      let k := min size (65536 - va % 65536)
      match s.hwAddr va with
      | .ok pa => State.placeZero n ((s.zeroPhys pa k).markLeaf va true) (va + k) (size - k)
      | .error _ => s

/-- A placed section written: a NEAR one into the slice of every virtual core. A ZERO section is zeroed, and then holds what relocations write in
it (R79). -/
def State.putPlace (s : State) (p : Place) : State :=
  if p.sec.near then
    (List.range s.ctx.nmax).foldl (fun s n =>
      let pa := s.physOf n * 0x400000 + p.addr
      (if p.sec.kind = 4 then { s with mem := Memory.zeroN s.mem pa p.sec.size } else s).writePhys pa p.bytes) s
  else if p.sec.kind = 4 then
    (s.placeZero (p.sec.size / 65536 + 2) p.addr p.sec.size).placeBytes (p.bytes.length / 65536 + 2) p.addr p.bytes
  else if p.sec.kind = 12 then s
  else s.placeBytes (p.bytes.length / 65536 + 2) p.addr p.bytes

/-! ## OBJECT_LOAD (R91) -/

/-- What a load that passes every check registers. -/
structure Loaded where
  places : List Place
  ctx : Ctx
  obj : Obj
  notes : Notes
  deriving DecidableEq, Repr

/-- The global symbols that the placed sections define. -/
def globalsOf (ps : List Place) (syms : List RawSym) : List Sym :=
  (syms.filter fun y => decide (y.bind = 1) && decide (y.sec ≠ 0xFFFFFFFF)).filterMap fun y =>
    match symValue ps [] y with
    | .ok (some (v, k)) => some { name := y.name, value := v, kind := k }
    | _ => none

/-- The entries of the placed code. -/
def entriesOf (ps : List Place) (syms : List RawSym) : List Nat :=
  (syms.filter fun y => decide (y.kind = 3)).filterMap fun y =>
    match symValue ps [] y with
    | .ok (some (v, k)) => if isEntrySym v k then some v else none
    | _ => none

/-- The handlers sections of the image and the common ones, which are relocated and not placed. -/
def handlerPlaces (i : ObjImage) (secs : List Sec) : List Place :=
  (secs.filter fun x => x.of i && decide (x.kind = 12)).map fun x => { sec := x, addr := 0, lsize := 0, bytes := x.body }

def loadCheck (s : State) (f : List Byte) (at_ : List Nat) (handle : Nat) : Load Loaded := do
  headerCheck f
  let secs ← sectionTable f
  let notes ← notesOf secs
  let features := (s.parts[s.ctx.part]?.map Part.features).getD 0
  let im ← selectImage features ((secs.find? fun x => decide (x.kind = 11)).map Sec.body |>.getD [])
  let pool ← poolOf im secs
  handlersCheck im secs
  let tabs := secs.filter fun x => x.of im && decide (x.kind = 7)
  failIf (tabs.any symtabBad) stSection
  let syms := (tabs.map (symsOf secs)).flatten
  profileCheck im secs syms
  let far := farPlaces im secs at_
  let near := nearPlaces im secs
  failIf (s.ctx.nearConflict near) stNear
  failIf (far.any (fun p => !s.placeFits p) || !disjoint far) stSpace
  let eager := bitOf (fieldAt f 12 4) 0
  let (c1, ks) ← (match Ctx.addHoldings false (far.map (Place.holding s.ctx eager)) s.ctx with
    | some x => .ok x
    | none => .error stSpace : Load (Ctx × List Nat))
  let (c2, ns) ← (match Ctx.addHoldings true (((List.range s.ctx.nmax).map fun n => (nearBlocks near).map (nearHolding n)).flatten) c1 with
    | some x => .ok x
    | none => .error stSpace : Load (Ctx × List Nat))
  let ps := far ++ near
  let ps2 ← relocate { secs := secs, globals := (s.ctx.objects.map Obj.globals).flatten, stub := s.ctx.stub, eager := eager }
    (relocsOf im secs) (ps ++ handlerPlaces im secs)
  let handlers := if im.kind = 0 then [] else ((ps2.filter fun p => decide (p.sec.kind = 12)).map fun p => handlerRows p.bytes).flatten
  let entries := if im.kind = 0 then entriesOf ps syms else handlers.map Prod.snd
  let poolAddr := pool.bind fun x => (far.find? fun p => decide (p.sec.index = x.index)).map Place.addr
  .ok { places := ps2
        ctx := c2
        obj :=
          { handle := handle
            entries := entries
            pool := poolAddr.getD 0
            poolCount := (pool.map fun x => x.size / 32).getD 0
            handlers := handlers
            globals := globalsOf ps syms
            linkages := ((far.zip ks).filter fun x => decide (x.1.sec.kind = 6)).map Prod.snd
            holdings := ks ++ ns
            nears := near.map fun p => (p.addr, p.sec.size) }
        notes := notes }

/-- Whether an object can be loaded into a context: one that is killed, or saved off its cores, has no slices for the NEAR sections, and a load into
it is refused (log 30). -/
def Ctx.takesObjects (c : Ctx) : Bool := !c.killed && decide (c.preempt ≠ .saved)

/-- OBJECT_LOAD: the object of the request, checked, placed, relocated and registered, with the status to the host. -/
def execObjectLoad (s0 : State) : Out :=
  match (s0.ctxAt s0.req.t.ctx).filter Ctx.takesObjects with
  | none => .next { s0 with replies := s0.replies ++ [.refused] }
  | some _ =>
    let s := s0.focus { s0.req.t with th := 0 }
    match loadCheck s (s0.req.l1.map (BitVec.ofNat 8)) s0.req.l2 (s.nextId % 2 ^ 32) with
    | .error n => .next { s0 with replies := s0.replies ++ [.loaded n 0 []] }
    | .ok l =>
      let s1 := { s with
        ctx := { l.ctx with
          objects := l.ctx.objects ++ [l.obj]
          spillsize := if l.ctx.spillsize.toNat < l.notes.spillMin then BitVec.ofNat 64 l.notes.spillMin else l.ctx.spillsize }
        nextId := s.nextId + 1 }
      let s2 := l.places.foldl State.putPlace s1
      .next { s2 with replies := s2.replies ++ [.loaded 0 l.obj.handle l.notes.buildId] }

end Sys2Proof.Machine
end

