-- ==== Sys2Proof/Machine/Launch.lean ====
section
/-! DEFINITION. The launch unit (R307 to R311) and the references to objects (R92). -/

namespace Sys2Proof.Machine

/-! ## Control blocks (R307) -/

structure CBlock where
  ring : Nat
  cap : Nat
  flags : Nat
  tail : Nat
  head : Nat
  ctxid : Nat
  slot : Nat
  reserved : Nat
  deriving DecidableEq, Repr

def cblockOf (bs : List Byte) : CBlock where
  ring := fieldAt bs 0 8
  cap := fieldAt bs 8 4
  flags := fieldAt bs 12 4
  tail := fieldAt bs 16 8
  head := fieldAt bs 24 8
  ctxid := fieldAt bs 32 4
  slot := fieldAt bs 36 4
  reserved := fieldAt bs 40 24

/-- The conditions of R309 that stall a queue. -/
def CBlock.stalled (b : CBlock) : Bool :=
  !(isPow2 b.cap && decide (2 ≤ b.cap) && decide (b.cap ≤ 65536)) || decide (b.ring % 64 ≠ 0) || decide (b.reserved ≠ 0) ||
  decide (4 ≤ b.flags) || decide (b.tail < b.head) || decide (b.head + b.cap < b.tail)

/-- The control block at an address of the context in focus. -/
def State.cblock (s : State) (a : Nat) : Option CBlock := (s.hwRead a 64).map cblockOf

/-- FLAGS of a control block written (R398). -/
def State.setFlags (s : State) (block : Nat) (b : CBlock) (set clear : Nat) : State :=
  s.hwWrite (block + 12) (leBytes 4 (Nat.lor (b.flags - Nat.land b.flags clear) set))

/-- A report of the launch unit: no thread, the packet's index (R381, R382). -/
def State.launchReport (s : State) (c : Cause) (index : Nat) : State := s.report (reportOf c 1 s.ctx.id 0xFFFF 0 index s.now)

/-- A queue of the launch unit replaced. -/
def State.setQueueSlot (s : State) (q : Nat) (x : LQueue) : State := { s with queues := SMap.put s.queues q x }

/-! ## Kicks (R309) -/

/-- The slot that a control block is bound to. -/
def State.slotOf (s : State) (c block : Nat) : Option Nat :=
  (s.queues.find? fun e => decide (e.2.ctx = c) && decide (e.2.block = block)).map Prod.fst

/-- A kick that names no control block of a live context: the report's FADDR holds the address that it carried. -/
def State.dropKick (s : State) (a : Nat) : State :=
  s.report { reportOf .launchInvalid 1 0xFF 0xFFFF 0 (2 ^ 64 - 1) s.now with faddr := a }

/-- SLOT of a control block written (R398). -/
def State.setSlot (s : State) (block slot : Nat) : State := s.hwWrite (block + 36) (leBytes 4 slot)

/-- Whether firmware may give a slot to another control block: it is free, or its queue has nothing left to do. Which queues it unmaps is its
choice (R309, log 28). -/
def State.slotIdle (s : State) (q : Nat) : Bool :=
  match SMap.find s.queues q with
  | none => true
  | some x =>
    match s.ctxAt x.ctx with
    | none => true
    | some c =>
      x.waits.isEmpty && (c.launches.all fun e => !(decide (e.2.queue = q) && decide (e.2.join ≠ 0))) &&
        ((s.focus { ctx := x.ctx, vc := 0, th := 0 }).cblock x.block).any fun b => decide (x.tail ≤ b.head)

/-- The control block of a slot unmapped: SLOT reads 0xFFFF_FFFF, and what the queue holds is kept (R92, R307). -/
def State.unmapSlot (s : State) (q : Nat) : State :=
  match SMap.find s.queues q with
  | none => s
  | some x =>
    let s1 := ((s.focus { ctx := x.ctx, vc := 0, th := 0 }).setSlot x.block 0xFFFFFFFF).focus s.tid
    { s1 with queues := SMap.del s1.queues q, unmapped := s1.unmapped ++ [x] }

/-- The queue of a control block that is to be mapped: what was kept of it, or a new one. -/
def State.queueFor (s : State) (c block : Nat) : LQueue :=
  (s.unmapped.find? fun x => decide (x.ctx = c) && decide (x.block = block)).getD { ctx := c, block := block, tail := 0, refs := [], waits := [] }

/-- A control block mapped to a slot: SLOT names it, and PENDING is clear. -/
def State.mapBlock (s : State) (q block : Nat) (b : CBlock) : State :=
  let s1 := ((s.unmapSlot q).setFlags block b 0 1).setSlot block q
  let x := s1.queueFor s.ctx.id block
  { s1.setQueueSlot q x with
    unmapped := s1.unmapped.filter fun y => !(decide (y.ctx = x.ctx) && decide (y.block = block))
    pendingBlocks := s1.pendingBlocks.filter fun y => decide (y ≠ (x.ctx, block)) }

/-- A control block left for the firmware scheduler: PENDING is set. -/
def State.leavePending (s : State) (block : Nat) (b : CBlock) : State :=
  let s1 := s.setFlags block b 1 0
  { s1 with pendingBlocks := if s1.pendingBlocks.contains (s.ctx.id, block) then s1.pendingBlocks else s1.pendingBlocks ++ [(s.ctx.id, block)] }

/-- TAIL read for the queue at a slot: the packets up to it are to be processed, or the queue is stalled. -/
def State.readTail (s : State) (q : Nat) (b : CBlock) (x : LQueue) : State :=
  if b.stalled then ((s.setFlags x.block b 2 0).setQueueSlot q { x with tail := b.head }).launchReport .launchInvalid b.head
  else s.setQueueSlot q { x with tail := b.tail }

/-- A step held until the machine, the context or the partition takes it (R33, R388, R390). -/
def State.hold (s : State) (i : Instr) : State := { s with heldMoves := s.heldMoves ++ [(i, s.req)] }

/-- The held steps to be taken again, after what stands on the agenda. -/
def State.release (s : State) : State :=
  { s with heldMoves := [], agenda := s.agenda ++ s.heldMoves.map fun x => .event x.1 x.2 }

/-- LAUNCH_KICK: the control block is mapped to a slot if it is not, and TAIL is read. A block for which no slot can be had is left with PENDING
set, and firmware kicks it again (R309). -/
def execLaunchKick (s0 : State) : Out :=
  if s0.phase ≠ .up then .next (s0.hold .launchKick)
  else match s0.ctxAt s0.req.t.ctx with
    | none => .next (s0.dropKick s0.req.k)
    | some c =>
      if c.killed then .next (s0.dropKick s0.req.k)
      else if c.halted || decide (c.preempt ≠ .none) then .next (s0.hold .launchKick)
      else
        let s := s0.focus { s0.req.t with vc := 0, th := 0 }
        match s.cblock s0.req.k with
        | none => .next (s.dropKick s0.req.k)
        | some b =>
          if b.ctxid ≠ c.id then .next (s.dropKick s0.req.k)
          else
            let s1 := s.markRange s0.req.k 64
            match s1.slotOf c.id s0.req.k with
            | some q => .next (s1.readTail q b ((SMap.find s1.queues q).getD (s1.queueFor c.id s0.req.k)))
            | none =>
              if 128 ≤ s0.req.m || !s1.slotIdle s0.req.m then .next (s1.leavePending s0.req.k b)
              else
                .next ((s1.mapBlock s0.req.m s0.req.k b).readTail s0.req.m { b with flags := b.flags - Nat.land b.flags 1 }
                  (s1.queueFor c.id s0.req.k))

/-! ## Packets (R308) -/

/-- The queue at a slot, with its context in focus, where that context runs. -/
def State.queueAt (s : State) (q : Nat) : Option (LQueue × State) := do
  let x ← SMap.find s.queues q
  let c ← s.ctxAt x.ctx
  if c.runs then some (x, s.focus { ctx := x.ctx, vc := 0, th := 0 }) else none

/-- A waiting SERIAL launch or UNLOAD lets no later packet of its queue be processed (R92, R311). -/
def QWait.blocks : QWait → Bool
  | .serial _ => true
  | .unload _ _ _ => true
  | .marker _ _ _ => false

/-- The packet that the queue is to process next, and its index. -/
def State.nextPacket (s : State) (x : LQueue) : Option (Nat × List Byte × CBlock) := do
  let b ← s.cblock x.block
  if { b with tail := x.tail }.stalled || x.waits.any QWait.blocks || decide (x.tail ≤ b.head) then none
  else do
    let bs ← s.hwRead (b.ring + 64 * (b.head % b.cap)) 64
    some (b.head, bs, b)

/-- The fields that a TYPE does not use are zero. -/
def packetReserved (bs : List Byte) : Bool :=
  match fieldAt bs 0 2 with
  | 1 => decide (128 ≤ fieldAt bs 2 2) || decide (fieldAt bs 36 4 ≠ 0) || decide (fieldAt bs 56 8 ≠ 0)
  | 2 | 3 => decide (fieldAt bs 2 2 ≠ 0) || decide (fieldAt bs 8 32 ≠ 0) || decide (fieldAt bs 56 8 ≠ 0)
  | 4 => decide (fieldAt bs 2 38 ≠ 0) || decide (fieldAt bs 56 8 ≠ 0)
  | _ => true

def packetDone (bs : List Byte) : Nat := fieldAt bs 40 8
def packetVal (bs : List Byte) : W64 := BitVec.ofNat 64 (fieldAt bs 48 8)
def packetObj (bs : List Byte) : Nat := fieldAt bs 4 4

/-- HEAD moved past the packet that was read (R309, R361). -/
def State.takePacket (s : State) (x : LQueue) (b : CBlock) : State :=
  (s.markRange (b.ring + 64 * (b.head % b.cap)) 64).hwWrite (x.block + 24) (leBytes 8 ((b.head + 1) % 2 ^ 64))

/-- A queue that stalled after its kick: ERROR is set, LAUNCH_INVALID reported, and nothing is processed until the next kick (R309). -/
def State.stallQueue (s : State) (q : Nat) (x : LQueue) : State :=
  match s.cblock x.block with
  | none => s
  | some b =>
    if decide (x.tail ≠ b.head) && { b with tail := x.tail }.stalled then
      ((s.setFlags x.block b 2 0).setQueueSlot q { x with tail := b.head }).launchReport .launchInvalid b.head
    else s

/-- A packet refused (R311): ERROR, 2^63 + cause at DONEADDR, and a report. -/
def State.refusePacket (s : State) (x : LQueue) (c : Cause) (doneAddr index : Nat) : State :=
  let s1 := match s.cblock x.block with
    | some b => s.setFlags x.block b 2 0
    | none => s
  (s1.completionWord doneAddr (BitVec.ofNat 64 (2 ^ 63 + causeCode c))).launchReport c index

/-- A launch that has not completed. -/
def Launch.pending (l : Launch) : Bool := decide (l.join ≠ 0)

/-- Every accepted LAUNCH of a queue has completed (R311). -/
def Ctx.queueIdle (c : Ctx) (q : Nat) : Bool := c.launches.all fun e => !(decide (e.2.queue = q) && e.2.pending)

/-! ## LAUNCH (R310, R311) -/

/-- The enabled cores of a partition. -/
def State.partCores (s : State) (p : Nat) : Nat :=
  match s.parts[p]? with
  | some x => (s.cores.filter fun e => decide (e.1 / 288 / 2 ^ x.k = x.m)).length
  | none => 0

/-- The LAUNCH that a packet asks for, with a BYTYPE type resolved by the handlers of its object. -/
def packetOf (o : Option Obj) (index : Nat) (bs : List Byte) : Packet :=
  let fl := fieldAt bs 2 2
  let code := fieldAt bs 8 8
  { index := index
    det := bitOf fl 0
    replay := bitOf fl 1
    prio := fl / 4 % 8
    serial := bitOf fl 5
    object := packetObj bs
    code := if bitOf fl 6 then ((o.bind fun o => o.handlers.find? fun h => decide (h.1 = code)).map Prod.snd).getD 0 else code
    nv := fieldAt bs 16 2
    roots := fieldAt bs 18 2
    frame := fieldAt bs 20 4
    key := fieldAt bs 24 8
    fstride := fieldAt bs 32 2
    fsize := fieldAt bs 34 2
    doneAddr := packetDone bs
    doneVal := packetVal bs }

/-- The key of root i: its high half moves by the rounded-up share of 2^32. -/
def Packet.rootKey (p : Packet) (i : Nat) : Nat := (p.key + (i * 2 ^ 32 + (p.roots - 1)) / p.roots * 2 ^ 32) % 2 ^ 64

/-- The record of root i. -/
def Packet.root (p : Packet) (i : Nat) : TaskRec where
  rs := 0
  restart := false
  code := p.code
  fsize := p.fsize
  count := 0
  frame := p.frame + i * 16 * p.fstride
  result := offNone
  join := joinLaunch
  key := p.rootKey i

def Packet.rootRecs (p : Packet) : List TaskRec := (List.range p.roots).map p.root

/-- The roots fit in the deques and spill areas of their cores. -/
def State.rootsFit (s : State) (p : Packet) : Bool :=
  (targetsOf (fun t => hashCore t.key p.nv) p.rootRecs).all fun v => s.fits v (p.rootRecs.filter fun t => decide (hashCore t.key p.nv = v)).length

/-- LAUNCH_INVALID of R311, but for the room of the roots. -/
def State.launchBad (s : State) (p : Packet) (o : Obj) : Bool :=
  let features := (s.parts[s.ctx.part]?.map Part.features).getD 0
  let fs := s.ctx.framesize.toNat
  decide (p.nv = 0) || decide (s.partCores s.ctx.part < p.nv) || decide (s.ctx.nmax < p.nv) || decide (p.roots = 0) || decide (4096 < p.roots) ||
  !o.entries.contains p.code || decide (fs % 16 ≠ 0) || decide (0xFFFFFFF0 < fs) || decide (p.frame % 16 ≠ 0) || decide (4095 < p.fsize) ||
  decide (fs < p.frame + (p.roots - 1) * 16 * p.fstride + 16 * p.fsize) || (p.det && !bitOf features 8) || (p.replay && !bitOf features 9) ||
  (p.det && o.linkages.any fun h => decide ((SMap.find s.ctx.holdings h).map Holding.cls ≠ some .sealed))

/-- A launch started: its join is ROOTS, and its roots are enqueued. -/
def State.startLaunch (s : State) (q : Nat) (p : Packet) : State :=
  let id := s.nextId
  let l : Launch :=
    { det := p.det, replay := p.replay, prio := p.prio, nv := p.nv, join := p.roots, queue := q, object := p.object
      doneAddr := p.doneAddr, doneVal := p.doneVal }
  let s1 := { (s.updCtx fun c => { c with launches := SMap.put c.launches id l }) with nextId := id + 1 }
  (targetsOf (fun t => hashCore t.key p.nv) p.rootRecs).foldl
    (fun s v => s.enqueue v id 0 (p.rootRecs.filter fun t => decide (hashCore t.key p.nv = v))) s1

/-- A launch started where its roots fit, else refused. -/
def State.tryLaunch (s : State) (q : Nat) (x : LQueue) (p : Packet) : State :=
  if s.rootsFit p then s.startLaunch q p else s.refusePacket x .launchInvalid p.doneAddr p.index

/-- LAUNCH_PACKET: a LAUNCH, or a packet of an unknown TYPE. -/
def execLaunchPacket (s0 : State) : Out :=
  let q := s0.req.m
  match s0.queueAt q with
  | none => .next s0
  | some (x, s) =>
    match s.nextPacket x with
    | none => .next (if x.waits.any QWait.blocks then s0 else s.stallQueue q x)
    | some (k, bs, b) =>
      let ty := fieldAt bs 0 2
      if ty = 2 || ty = 3 || ty = 4 then .next s0
      else
        let s1 := s.takePacket x b
        let o := s.ctx.objects.find? fun o => decide (o.handle = packetObj bs)
        let p := packetOf o k bs
        if packetReserved bs then .next (s1.refusePacket x .launchInvalid (packetDone bs) k)
        else if !x.refs.contains (packetObj bs) then .next (s1.refusePacket x .launchNoObject (packetDone bs) k)
        else match o with
          | none => .next (s1.refusePacket x .launchInvalid (packetDone bs) k)
          | some ob =>
            if s.launchBad p ob || !s1.rootsFit p then .next (s1.refusePacket x .launchInvalid (packetDone bs) k)
            else if p.serial && !s.ctx.queueIdle q then .next (s1.setQueueSlot q { x with waits := x.waits ++ [.serial p] })
            else .next (s1.startLaunch q p)

/-- SERIAL_LAUNCH_START: every earlier accepted LAUNCH of the queue has completed. -/
def execSerialLaunchStart (s0 : State) : Out :=
  let q := s0.req.m
  match s0.queueAt q with
  | none => .next s0
  | some (x, s) =>
    match x.waits.findSome? fun w => match w with | .serial p => some p | _ => none with
    | none => .next s0
    | some p =>
      if !s.ctx.queueIdle q then .next s0
      else
        let x1 := { x with waits := x.waits.filter fun w => decide (w ≠ .serial p) }
        .next ((s.setQueueSlot q x1).tryLaunch q x1 p)

/-! ## References (R92) -/

/-- The next packet of a queue, if it is of a TYPE. -/
def State.packetAt (s : State) (q ty : Nat) : Option (LQueue × State × Nat × List Byte × CBlock) := do
  let (x, s1) ← s.queueAt q
  let (k, bs, b) ← s1.nextPacket x
  if fieldAt bs 0 2 = ty then some (x, s1, k, bs, b) else none

/-- LOADREF_PACKET: the queue gets a reference to a loaded object. -/
def execLoadrefPacket (s0 : State) : Out :=
  match s0.packetAt s0.req.m 2 with
  | none => .next s0
  | some (x, s, k, bs, b) =>
    let s1 := s.takePacket x b
    if packetReserved bs || !(s.ctx.objects.any fun o => decide (o.handle = packetObj bs)) then
      .next (s1.refusePacket x .launchInvalid (packetDone bs) k)
    else
      let refs := if x.refs.contains (packetObj bs) then x.refs else x.refs ++ [packetObj bs]
      .next ((s1.setQueueSlot s0.req.m { x with refs := refs }).completionWord (packetDone bs) (packetVal bs))

/-- UNLOAD_PACKET: the queue's reference is to be dropped; later packets of the queue wait. -/
def execUnloadPacket (s0 : State) : Out :=
  match s0.packetAt s0.req.m 3 with
  | none => .next s0
  | some (x, s, k, bs, b) =>
    let s1 := s.takePacket x b
    if packetReserved bs || !x.refs.contains (packetObj bs) then .next (s1.refusePacket x .launchInvalid (packetDone bs) k)
    else .next (s1.setQueueSlot s0.req.m { x with waits := x.waits ++ [.unload (packetObj bs) (packetDone bs) (packetVal bs)] })

/-- An object freed: it is no longer registered, and its holdings go where no launch runs and no other object uses them (R92, R367). -/
def Ctx.freeObj (c : Ctx) (handle : Nat) : Ctx :=
  let rest := c.objects.filter fun o => decide (o.handle ≠ handle)
  let gone := ((c.objects.filter fun o => decide (o.handle = handle)).map Obj.holdings).flatten
  { c with
    objects := rest
    holdings :=
      if c.launches.any fun e => e.2.pending then c.holdings
      else c.holdings.filter fun e => !(gone.contains e.1) || rest.any fun o => o.holdings.contains e.1 }

/-- UNLOAD_TAKES_EFFECT: every earlier LAUNCH of the queue has completed, or its context was killed. Where no queue references the object
any more, the request says whether the runtime frees it. -/
def execUnloadTakesEffect (s0 : State) : Out :=
  let q := s0.req.m
  match SMap.find s0.queues q with
  | none => .next s0
  | some x =>
    match s0.ctxAt x.ctx with
    | none => .next s0
    | some c =>
      match x.waits.findSome? fun w => match w with | .unload o a v => some (o, a, v) | _ => none with
      | none => .next s0
      | some (o, a, v) =>
        if !c.queueIdle q || c.halted || decide (c.preempt = .saved) then .next s0
        else
          let s := s0.focus { ctx := x.ctx, vc := 0, th := 0 }
          let x1 := { x with refs := x.refs.filter fun r => decide (r ≠ o), waits := x.waits.filter fun w => decide (w ≠ .unload o a v) }
          let s1 := s.setQueueSlot q x1
          let used := (s1.queues.map Prod.snd ++ s1.unmapped).any fun y => decide (y.ctx = x.ctx) && y.refs.contains o
          .next ((if used || !s0.req.flag then s1 else s1.updCtx fun c => c.freeObj o).completionWord a v)

/-! ## MARKER (R311) -/

/-- MARKER_PACKET: the marker waits for the launches of its queue that have not completed. -/
def execMarkerPacket (s0 : State) : Out :=
  match s0.packetAt s0.req.m 4 with
  | none => .next s0
  | some (x, s, k, bs, b) =>
    let s1 := s.takePacket x b
    if packetReserved bs then .next (s1.refusePacket x .launchInvalid (packetDone bs) k)
    else
      let after := (s.ctx.launches.filter fun e => decide (e.2.queue = s0.req.m) && e.2.pending).map Prod.fst
      .next (s1.setQueueSlot s0.req.m { x with waits := x.waits ++ [.marker (packetDone bs) (packetVal bs) after] })

/-- Whether the launches that a marker waits for have completed. -/
def Ctx.completed (c : Ctx) (ids : List Nat) : Bool :=
  ids.all fun i => match SMap.find c.launches i with | some l => !l.pending | none => true

/-- The first of a list that a condition picks, and the rest. -/
def pick {α : Type} (p : α → Bool) : List α → Option (α × List α)
  | [] => none
  | a :: r => if p a then some (a, r) else (pick p r).map fun x => (x.1, a :: x.2)

/-- MARKER_COMPLETE: the oldest marker whose launches have completed writes DONEVAL. -/
def execMarkerComplete (s0 : State) : Out :=
  match s0.queueAt s0.req.m with
  | none => .next s0
  | some (x, s) =>
    match pick (fun w => match w with | .marker _ _ ids => s.ctx.completed ids | _ => false) x.waits with
    | some (.marker a v _, rest) => .next ((s.setQueueSlot s0.req.m { x with waits := rest }).completionWord a v)
    | _ => .next s0

end Sys2Proof.Machine
end

