-- ==== Sys2Proof/Machine/Background.lean ====
section
/-! DEFINITION. The steps of the machine between instructions: stores performed and replayed (R145, R252), queue entries, the table walkers
(R361 to R365), waits that end (R264, R286), array commands that complete (R212), remote commands (R227) and the deadlock of the streams
(R155). -/

namespace Sys2Proof.Machine

/-- The thread that the request names, in focus, where it runs. -/
def State.running (s : State) : Option State :=
  let s1 := s.focus s.req.t
  if s1.ctx.runs && s1.ctx.hasVc s1.vc.id && decide (s1.thr.status = .running) then some s1 else none

/-! ## Stores -/

/-- Whether a store may be performed before the ones that are listed before it: none of them lies in its 64 KiB region, and none writes one of its
bytes by another address (R142, R252, R253). -/
def mayPerform (before : List PStore) (p : PStore) : Bool :=
  before.all fun x => decide (x.va / 65536 ≠ p.va / 65536) && !meets (paOf x.pa) x.bytes.length (paOf p.pa) p.bytes.length

/-- STORE_PERFORMED: store n of the thread that the request names. -/
def execStorePerformed (s0 : State) : Out :=
  let s := s0.focus s0.req.t
  match s.thr.stores[s0.req.n]? with
  | none => .next s0
  | some p =>
    if !s.ctx.live || !mayPerform (s.thr.stores.take s0.req.n) p then .next s0
    else .next ((s.updThr fun t => { t with stores := t.stores.eraseIdx s0.req.n }).performStore p)

/-- An access of a parked store. -/
def PAcc.access (cover : List (Nat × Nat)) (x : PAcc) : Access :=
  { va := x.va, size := x.bytes.length, align := 1, kind := .write, who := (match x.lane with | some i => .lane i | none => .scalar),
    fetching := false, cover := cover }

/-- The stores of a thread whose stop is not reported yet still go on: an issued instruction completes (R389, R390). -/
def State.mayReplay (s : State) : Bool := s.ctx.runs || (s.ctx.live && !s.ctx.killed && s.ctx.halted && s.stops.contains s.ctx.part)

/-- The accesses of a parked store, as its replay checks them again. -/
def Parked.cover (p : Parked) : List (Nat × Nat) := p.accs.map fun x => (x.va, x.bytes.length)
def Parked.accesses (p : Parked) : List (Access × List Byte) := p.accs.map fun x => (x.access p.cover, x.bytes)

/-- What a parked access writes to: the view that it was found to write through, or memory, by steps 6 to 8 under the tables of now (R145,
R366). -/
def State.replaySlot (s : State) (ag : Agent) (cover : List (Nat × Nat)) (x : PAcc) : Res Slot :=
  match x.view with
  | some w => do
    let pa ← viewFault x.va (s.checkMem ag ((x.access cover).backing w))
    .ok (.ready (.conv w pa))
  | none => do
    let pa ← s.checkMem ag (x.access cover)
    .ok (.ready (.mem pa))

/-- The stores that a replay performs, once every check passes (R145). -/
def State.replayStores (s : State) (p : Parked) : Res (List PStore) := do
  let ag := { s.agent with thread := false, tlb := false }
  let sl ← p.accs.mapM (s.replaySlot ag p.cover)
  .ok (storesOf p.accesses p.accesses sl)

/-- A parked store that is to wait: for an older one of its granules, for a store of its region or to its bytes that is not yet performed, or for a
remote command, issued before it, that reads its bytes (R142, R211, R252). -/
def State.replayHeld (s : State) (n : Nat) (p : Parked) (ps : List PStore) : Bool :=
  let earlier := ((s.thr.replay.take n).filter fun x => x.failed.isNone).map (Parked.granules s.vc.id) |>.flatten
  (p.granules s.vc.id).any (fun g => earlier.contains g) || !(ps.all fun x => mayPerform s.thr.stores x) ||
    ps.any fun x => s.mcmdReads p.order x.pa x.bytes.length

/-- A parked store that failed on replay stays in the queue until it is reported. -/
def State.failReplay (s : State) (n : Nat) (c : Cause) (va : Nat) : State :=
  s.updThr fun t => { t with replay := t.replay.modify n fun p => { p with failed := some ⟨.replayFailed, va, causeCode c⟩ } }

/-- The failure of step 9 that a replay's stores meet first. -/
def State.replayLink (s : State) (ps : List PStore) : Option (Cause × Nat) := ps.findSome? fun x => (s.linkFails x.pa).map fun e => (e.1, x.va)

/-- PARKED_STORE_REPLAY: entry n of the replay queue of the thread takes its checks again and is performed; where the request says that its
translation cannot be resolved, or a later check fails, it is to be reported with REPLAY_FAILED. -/
def execParkedStoreReplay (s0 : State) : Out :=
  let s := s0.focus s0.req.t
  let n := s0.req.n
  match s.thr.replay[n]? with
  | none => .next s0
  | some p =>
    if !s.mayReplay || p.failed.isSome then .next s0
    else match s.replayStores p with
      | .ok ps =>
        if s.replayHeld n p ps then .next s0
        else match s.replayLink ps with
          | some (c, va) => .next (s.failReplay n c va)
          | none =>
            let s1 := (s.updThr fun t => { t with replay := t.replay.eraseIdx n }).traffic true (ps.map fun x => .mem x.pa)
            .next (ps.foldl (fun s x => ((s.writePhys x.pa x.bytes).markLeaf x.va true).renew x.va) s1)
      | .error (.trap i) =>
        if i.cause = .pageFaultWrite then (if s0.req.flag then .next s0 else .next (s.failReplay n i.cause i.faddr))
        else .next (s.failReplay n i.cause i.faddr)
      | .error (.fault f) => .fault f
      | .error _ => .next s0

/-- The first entry that is not readable becomes so. -/
def readyFirst : List QEntry → List QEntry
  | [] => []
  | e :: rest => if e.ready then e :: readyFirst rest else { e with ready := true } :: rest

/-- QUEUE_ENTRY_READABLE: the last lane of the oldest reserved entry of queue n arrives (R146). -/
def execQueueEntryReadable (s0 : State) : Out :=
  let s := s0.focus s0.req.t
  if s.ctx.live && decide (s.thr.status ≠ .free) then .next (s.updThr fun t => t.setQ s0.req.n (readyFirst (t.getQ s0.req.n)))
  else .next s0

/-! ## Table walkers (R361, R363 to R365) -/

/-- Entries of one TLB with a new one: the newest `cap` stay. -/
def tlbAdd (cap : Nat) (es : List TlbEntry) (e : TlbEntry) : List TlbEntry :=
  let rest := es.filter fun x => !(decide (x.ctx = e.ctx) && decide (x.base < e.base + e.size) && decide (e.base < x.base + x.size))
  (if cap ≤ rest.length then rest.drop (rest.length + 1 - cap) else rest) ++ [e]

def VCore.fillTlb (v : VCore) (fetch : Bool) (e : TlbEntry) : VCore :=
  if fetch then { v with itlb := tlbAdd 32 v.itlb e } else { v with dtlb := tlbAdd 96 v.dtlb e }

/-- The L2 of a home with a new entry: 2,048 entries. -/
def State.fillL2 (s : State) (home : Nat) (e : TlbEntry) : State :=
  let mine := (s.l2tlb.filter fun x => decide (x.1 = home)).map Prod.snd
  { s with l2tlb := s.l2tlb.filter (fun x => decide (x.1 ≠ home)) ++ (tlbAdd 2048 mine e).map fun x => (home, x) }

/-- The leaf with A set, and with D set for a write that it permits. -/
def leafMarked (k : AccKind) (pte : Nat) : Nat := Nat.lor pte (if needsD k pte then 0x300 else 0x100)

/-- Whether a thread waits for a walk of the address. -/
def Thread.missing (t : Thread) (k : AccKind) (va : Nat) : Bool := decide (t.waitA = .tlb va k) || decide (t.waitE = .tlb va k)

/-- The waits for a walk of the address ended. -/
def Thread.walked (k : AccKind) (va : Nat) (t : Thread) : Thread :=
  { t with waitA := if t.waitA = .tlb va k then .none else t.waitA, waitE := if t.waitE = .tlb va k then .none else t.waitE }

/-- A change of every thread of the core in focus. -/
def State.onThreads (s : State) (f : Thread → Thread) : State := { s with thr := f s.thr, vc := s.vc.mapThreads f }

/-- The messages of a query of the home (R365): none where the core is the home. -/
def State.queryHome (s : State) (home : Nat) : State :=
  if home = s.vc.phys then s
  else (((s.countAt s.vc.phys 0 1 0).countAt home 0 0 1).countAt home 2 1 0).countAt s.vc.phys 2 0 1

/-- A miss served from the L2 home, or by a walk that fills it (R365). -/
def State.serveMiss (s : State) (k : AccKind) (va : Nat) : State :=
  let home := s.home (s.vc.phys / 288) s.ctx.id va
  let s1 := (s.queryHome home).onThreads (Thread.walked k va)
  let fetch := decide (k = .fetch)
  match s.l2Hit k va with
  | some x => s1.updVc fun v => v.fillTlb fetch x.2
  | none =>
    match s.walk va with
    | .leaf pte lv pa =>
      let e := leafEntry s.ctx.id va (leafMarked k pte) lv
      (({ s1.dropOlder (s.vc.phys / 288) e with mem := Memory.writeN s1.mem pa (leBytes 8 e.pte) }).fillL2 home (granule s.ctx.id va e)).updVc fun v => v.fillTlb fetch e
    | _ => s1

/-- TLB_WALK: a walker serves the miss of address n, of the kind that the request names, on a core. -/
def execTlbWalk (s0 : State) : Out :=
  let s := (s0.focus { s0.req.t with th := 0 }).sync
  let k := s0.req.kind
  let va := s0.req.n
  if !s.ctx.live || !s.ctx.hasVc s.vc.id || !(s.vc.threads.any fun t => t.2.missing k va) then .next s0
  else match s.walk va with
    | .hole pa => .fault (.physicalHole pa)
    | _ => .next (s.serveMiss k va)

/-! ## Waits that end -/

/-- What the read of a WAITW that wakes leaves: A in the leaf that its walk used (R361), and no older translation in the TLBs (R366). -/
def State.sawWord (s : State) (a : Access) (t : Target) : State := (s.markSource (a, t)).renew a.va

/-- WAITW_WAKE: a sleeping WAITW reads again, and completes where its condition holds (R264). It has cleared its checks: where they do not pass any
more it stays asleep (R10). -/
def execWaitwWake (s0 : State) : Out :=
  match s0.running with
  | none => .next s0
  | some s =>
    if s.thr.waitA ≠ .word then .next s0
    else match s.instrAt s.thr.apc with
      | some (.waitw fn r, _) =>
        match waitwRead r s.asleep with
        | .ok (x, t) => if waitwHolds fn x (s.thr.getS r.b) then finishA 8 s (waitwBody fn r (s.asleep.sawWord (waitwAccess r s) t)) else .next s0
        | .error (.fault f) => .fault f
        | .error _ => .next s0
      | _ => .next s0

/-- A TAKE of the thread in focus that waits and whose core holds the holding now completes. -/
def State.wakeTake (s : State) : State :=
  if decide (s.thr.status = .running) && decide (s.thr.waitA = .take) then
    match s.instrAt s.thr.apc with
    | some (.holdTake r, _) =>
      match takeBody r s with
      | .ok s1 => s1.retireTo (s1.after 8)
      | .error _ => s
    | _ => s
  else s

/-- The waiting TAKEs of a core of the context in focus. -/
def State.wakeTakes (s : State) (v : Nat) : State :=
  (s.ctxTids.foldl (fun s t => if t.vc = v then (s.focus t).wakeTake else s) s).focus s.tid

/-- A handover message delivered: its recipient is the holder (R265). -/
def State.deliver (s : State) (m : Handover) : State :=
  let s1 := match SMap.find s.ctx.holdings m.holding with
    | some h => s.setHolding m.holding { h with holder := m.dest, inflight := none }
    | none => s
  if m.dest < 2 ^ 16 then
    let s2 := s1.receivedMsg m.dest 3
    if s2.ctx.runs then s2.wakeTakes m.dest else s2
  else s1

/-- HANDOVER_ARRIVAL: message n of the context arrives; those of its class from one sender to one recipient arrive in order (R24), and none
arrives in a context that is halted (R390). -/
def execHandoverArrival (s0 : State) : Out :=
  let s := s0.focus { s0.req.t with vc := 0, th := 0 }
  match s.ctx.handovers[s0.req.n]? with
  | none => .next s0
  | some m =>
    if !s.ctx.live || s.ctx.killed || s.ctx.halted || decide (s.ctx.preempt = .saved) || s.ctx.classBusy m.sender m.dest m.seq then .next s0
    else .next ((s.updCtx fun c => { c with handovers := c.handovers.eraseIdx s0.req.n }).deliver m)

/-! ## Array commands -/

/-- ARRAY_COMMAND_COMPLETION: the oldest command of the array order of a core completes; an error found after issue is kept for its thread
(R212). -/
def execArrayCommandCompletion (s0 : State) : Out :=
  let s := s0.focus { s0.req.t with th := 0 }
  match s.vc.outstanding with
  | [] => .next s0
  | c :: rest =>
    if !s.ctx.live || !s.ctx.hasVc s.vc.id then .next s0
    else
      let s1 := s.updVc fun v => { v with outstanding := rest }
      match c.err with
      | none => .next s1
      | some e => .next ((s1.focus { s1.tid with vc := c.vcore, th := c.thread }).updThr fun t => { t with deferred := t.deferred ++ [e] })

/-- What an MREAD of R228 asks for. -/
def Mcmd.readArgs (m : Mcmd) : ReadArgs := Machine.readArgs m.fmt (m.arg / 2 ^ 16) (m.arg % 2 ^ 14)

/-- An MREAD of a remote core's rows with the issuer's identity. -/
def State.remoteRead (s : State) (m : Mcmd) (v : VCore) : Res State := do
  let a := m.readArgs
  refuseIf a.bad .planeRecord
  a.rowFaults m.first m.count v
  let ag := s.engine m.ident
  let (ps, sl) ← s.checkRange ag a.align m.addr (a.size m.count)
  let rows := (List.range m.count).map fun i => v.row (m.first + i)
  match a.chk, (List.range m.count).find? fun i => (v.row (m.first + i)).anchor with
  | true, some i => raiseD .accAnchor (m.first + i)
  | _, _ => .ok ()
  let (bs, fl) := readOut a ({ s.thr with rmode := m.rmode }.mode a.rm false) rows
  let t ← s.thr.raiseFlags [fl]
  let xs := splitBytes ps bs
  let st := storesOf xs xs sl
  let s1 := st.foldl (fun s x => (s.performStore x).markLeaf x.va true) ((s.setThr t).traffic true (st.map fun x => .mem x.pa))
  .ok (if a.clr then s1.onVc m.target fun v => v.mapRows m.first m.count fun _ r => r.wipe else s1)

/-- A MADDRAW into a remote core's rows. -/
def State.remoteAdd (s : State) (m : Mcmd) (v : VCore) : Res State := do
  let c := m.arg % 256
  refuseIf (decide (c = 0) || decide (128 < c)) .planeRecord
  rowRange m.first m.count
  let r ← s.fetchRange (s.engine m.ident) 1 m.addr (m.count * (64 + 24 * c))
  match r with
  | .error (s1, e) => .error (.trapIn s1 ⟨e.cause, e.faddr, e.fdetail⟩)
  | .ok bs =>
    refuseIfD (!v.rawsFit m.first m.count c bs) .formatMismatch m.first
    .ok (((s.sawRange (s.engine m.ident) 1 m.addr (m.count * (64 + 24 * c))).markRange m.addr (m.count * (64 + 24 * c))).onVc m.target fun v => v.addRaws m.first m.count c bs)

/-- A command in the array order of its target (R208), whose completion goes to its issuer; one that was rejected or met a fault touches no row, and
its completion brings the error (R212). -/
def State.enterOrder (s : State) (m : Mcmd) (err : Option LateErr) : State :=
  s.onVc (if (s.vcAt m.target).isSome then m.target else m.ident.vcore) fun v =>
    { v with outstanding := v.outstanding ++
        [{ vcore := m.ident.vcore, thread := m.thread, first := m.first, count := if err.isNone then m.count else 0, err := err }] }

/-- Whether a command is to wait: for an older one of its class from the same core to the same target (R24), or for a parked store of its issuer
that was issued before it (R227). -/
def State.mcmdHeld (s : State) (m : Mcmd) : Bool :=
  (s.ctx.mcmds.any fun x => decide (x.ident.vcore = m.ident.vcore) && decide (x.target = m.target) && decide (x.order < m.order)) ||
    s.thr.replay.any fun p => p.failed.isNone && decide (p.order < m.order)

/-- The execution of a command at its target, with the issuing thread in focus (R227). -/
def State.runMcmd (s : State) (m : Mcmd) : Res State :=
  match s.vcAt m.target with
  | none => raiseD .mcmdReject m.target
  | some v => do
    refuseIfD (decide (m.cap = 0) || !v.mkeys.toList.contains m.cap) .mcmdReject m.target
    waitIf (decide (m.kind ≠ 3) && v.touching m.first m.count) .other
    match m.kind with
    | 1 => do
      rowRange m.first m.count
      .ok (s.onVc m.target fun v => v.mapRows m.first m.count fun _ _ => AccRow.fresh (BitVec.ofNat 10 m.arg) (bitOf m.arg 10))
    | 2 => s.remoteRead m v
    | _ => s.remoteAdd m v

/-- MCMD_ARRIVAL: command n of the context arrives and is executed; those of one core to one target arrive in order (R24, R229). A rejection or a
fault is a deferred error of the issuer. -/
def execMcmdArrival (s0 : State) : Out :=
  match (s0.ctxAt s0.req.t.ctx).bind fun c => c.mcmds[s0.req.n]? with
  | none => .next s0
  | some m =>
    let s := s0.focus { ctx := s0.req.t.ctx, vc := m.ident.vcore, th := m.thread }
    if !s.ctx.runs || s.mcmdHeld m then .next s0
    else
      let gone := fun (s : State) => (s.updCtx fun c => { c with mcmds := c.mcmds.eraseIdx s0.req.n }).receivedMsg m.target 0
      match s.runMcmd m with
      | .ok s1 => .next ((gone s1).enterOrder m none)
      | .error (.trap i) => .next ((gone s).enterOrder m (some ⟨i.cause, i.faddr, i.fdetail⟩))
      | .error (.trapIn s1 i) => .next ((gone s1).enterOrder m (some ⟨i.cause, i.faddr, i.fdetail⟩))
      | .error (.fault f) => .fault f
      | .error _ => .next s0

/-! ## STREAM_DEADLOCK (R155) -/

/-- The queue that the A-stream waits on, 8 for an XSYNC or a CTL access, if it waits on the E-stream. -/
def Thread.aOnE (t : Thread) : Option Nat :=
  match t.waitA with
  | .pop q | .popFirst q => if (t.getQ q).isEmpty then some q else none
  | .push q | .held q _ => if (t.getQ q).length = 16 then some q else none
  | .estream => if t.ePath.isEmpty then none else some 8
  | _ => none

/-- The queue that the E-stream waits on, 8 where it has no instruction to issue, if it waits on the A-stream. -/
def State.eOnA (s : State) : Option Nat :=
  if !s.eReady then some 8
  else match s.thr.waitE with
    | .pop q => if (s.thr.getQ q).isEmpty then some q else none
    | .push q => if (s.thr.getQ q).length = 16 then some q else none
    | _ => none

/-- The detail of a deadlock: both streams wait on each other, at least one of them on a queue. -/
def State.deadlock (s : State) : Option Nat :=
  match s.thr.aOnE, s.eOnA with
  | some a, some e => if a = 8 && e = 8 then none else some (a + 16 * e)
  | _, _ => none

/-- STREAM_DEADLOCK: the trap at the A-stream's waiting instruction. -/
def execStreamDeadlock (s0 : State) : Out :=
  match s0.running with
  | none => .next s0
  | some s =>
    match s.deadlock with
    | some d => .next (s.takeTrap false ⟨.streamDeadlock, 0, d⟩)
    | none => .next s0

end Sys2Proof.Machine
end

