-- ==== Sys2Proof/Machine/Manage.lean ====
section
/-! DEFINITION. Management requests (R30, R353, R354, R366 to R369, R372, R373, R375, R391): contexts, holdings, shootdown, keys, debug access
and the partition layout. -/

namespace Sys2Proof.Machine

/-- A request answered. -/
def State.reply (s : State) (r : Reply) : State := { s with replies := s.replies ++ [r] }
def answered (s : State) : Out := .next (s.reply .done)
def declined (s : State) : Out := .next (s.reply .refused)

/-! ## Contexts (R354) -/

/-- The die of a physical core. -/
def dieOf (phys : Nat) : Nat := phys / 288

/-- A die of a partition (R353). -/
def Part.hasDie (p : Part) (d : Nat) : Bool := decide (d / 2 ^ p.k = p.m)

/-- The partition that a die belongs to. -/
def State.partOf (s : State) (d : Nat) : Option Nat := s.parts.findIdx? fun p => p.hasDie d

/-- The physical cores that live contexts run on. -/
def State.usedCores (s : State) : List Nat := (s.sync.ctxs.map fun c => if c.2.live then c.2.vcores.map fun v => v.2.phys else []).flatten

/-- Enabled cores of one partition, all different and free: they can take a context. -/
def State.coresFit (s : State) (part : Nat) (phys : List Nat) : Bool :=
  decide phys.Nodup && phys.all fun p => (SMap.find s.cores p).isSome && decide (s.partOf (dieOf p) = some part) && !s.usedCores.contains p

/-- A virtual core at creation, with its eight threads and its spill area (R328). -/
def VCore.create (n phys spill : Nat) : VCore :=
  { VCore.fresh n phys with spillBase := spill, threads := (List.range 8).map fun t => (t, Thread.fresh t) }

/-- The usable part of a core's slice at zero (R355). -/
def State.zeroSlice (s : State) (phys : Nat) : State := { s with mem := Memory.zeroN s.mem (phys * 0x400000) 0x3C0000 }

/-- The resolver stub (R96). -/
def stubBytes : List Byte :=
  (leBytes 4 0x00000188 ++ leBytes 4 0xFFFF0000) ++ (leBytes 4 0x03EF9900 ++ leBytes 4 0x00000320) ++ (leBytes 4 0x03E00888 ++ leBytes 4 0)

/-- An address of the context in focus where its stub can be placed: one where a holding of 4 KiB begins, in a page for code (R76, log 60). -/
def State.stubFits (s : State) (va : Nat) : Bool :=
  decide (va % 4096 = 0) && (s.hwAddr va).toBool &&
  match s.walk va with
  | .leaf pte _ _ => bitOf pte 4 && !bitOf pte 3
  | _ => false

/-- The stub placed at the first byte of a SEALED holding of its own: the last index of the table. -/
def State.placeStub (s : State) (va : Nat) : State :=
  (s.placeBytes 2 va stubBytes).updCtx fun c =>
    { c with holdings := SMap.put c.holdings 4095 { base := va, lsize := 12, cls := .sealed, holder := 0x30000, inflight := none } }

/-- A context added to the sets of its key slots (R354, R372). -/
def State.assignKeys (s : State) (c : Nat) (slots : List Nat) : State :=
  slots.foldl (fun s n =>
    let k := (SMap.find s.keySlots n).getD { key := 0, loaded := false, ctxs := [] }
    { s with keySlots := SMap.put s.keySlots n { k with ctxs := if k.ctxs.contains c then k.ctxs else k.ctxs ++ [c] } }) s

/-- The per-context control registers of R34, which the runtime may set with the context (R96, R354). -/
def ctxRegs : List Nat := [0x005, 0x030, 0x031, 0x032, 0x033, 0x040, 0x041]

/-- Such a register written. -/
def State.setCtxReg (s : State) (x : Nat × W64) : State :=
  match ctlEntry x.1 with
  | some (w, _) => s.ctlWrite x.1 w x.2
  | none => s

/-- The address of a spill area: none, or in pool memory (R328, log 55). -/
def spillOk (a : Nat) : Bool := decide (a = 0) || (decide (0x100000000000 ≤ a) && decide (a < 0x500000000000) && decide (a % 32 = 0))

/-- A request for a context that R354 allows. -/
def State.createOk (s : State) (p : CtxParams) (part : Nat) : Bool :=
  decide (p.id < 64) && (s.ctxAt p.id).isNone && decide (1 ≤ p.nmax) && decide (p.nmax ≤ s.partCores part) && decide (p.phys.length = p.nmax) &&
  s.coresFit part p.phys && decide (p.root % 4096 = 0) && decide (p.savebase % 65536 = 0) && p.keys.all (fun k => decide (k < 1024)) &&
  p.hosts.all (fun h => decide (h < 4096)) && p.spills.all spillOk && p.regs.all fun x => ctxRegs.contains x.1

/-- CONTEXT_CREATE: the context of the request, its cores placed and cleared, its registers set, its stub placed (R96, R354, R355). One whose stub
cannot be placed is refused (log 60). -/
def execContextCreate (s0 : State) : Out :=
  let p := s0.req.params
  match (p.phys.head?).bind fun x => s0.partOf (dieOf x) with
  | none => declined s0
  | some part =>
    if !s0.createOk p part then declined s0
    else
      let c : Ctx := { Ctx.fresh p.id with
        live := true
        part := part
        nmax := p.nmax
        hosts := p.hosts
        root := p.root
        savebase := p.savebase
        stub := p.stub
        vcores := (List.range p.nmax).zip p.phys |>.map fun x => (x.1, VCore.create x.1 x.2 (p.spills[x.1]?.getD 0)) }
      let s1 := s0.sync
      let s2 := p.phys.foldl State.zeroSlice { s1 with ctxs := SMap.put s1.ctxs p.id c }
      let s3 := (s2.assignKeys p.id p.keys).load { ctx := p.id, vc := 0, th := 0 }
      if !s3.stubFits p.stub then declined s0 else answered ((p.regs.foldl State.setCtxReg s3).placeStub p.stub)

/-- What the module keeps for a context given up: its control blocks are unmapped (R307), and its queues, its translations and its place in the key
slots are gone. -/
def State.forget (s0 : State) (c : Nat) : State :=
  let s := (((s0.queues.filter fun q => decide (q.2.ctx = c)).map Prod.fst).foldl State.unmapSlot s0).sync
  { s with
    unmapped := s.unmapped.filter fun q => decide (q.ctx ≠ c)
    pendingBlocks := s.pendingBlocks.filter fun b => decide (b.1 ≠ c)
    l2tlb := s.l2tlb.filter fun e => decide (e.2.ctx ≠ c)
    keySlots := s.keySlots.map fun k => (k.1, { k.2 with ctxs := k.2.ctxs.filter fun x => decide (x ≠ c) }) }

/-- A context destroyed, in the maps and in focus. -/
def State.destroy (s : State) (c : Nat) : State :=
  let s1 := s.sync.forget c
  ({ s1 with ctxs := SMap.del s1.ctxs c }).load s.tid

/-- CONTEXT_DESTROY (R354). -/
def execContextDestroy (s0 : State) : Out :=
  match s0.ctxAt s0.req.t.ctx with
  | none => declined s0
  | some c => answered (s0.destroy c.id)

/-! ## Holdings (R367, R369) -/

/-- A context in focus by its number alone. -/
def State.focusCtx (s : State) (c : Nat) : State := s.focus { ctx := c, vc := 0, th := 0 }

def classOf : Nat → Option HClass
  | 0 => some .exclusive
  | 1 => some .localOnly
  | 2 => some .common
  | 3 => some .frame
  | 4 => some .queue
  | 5 => some .sealed
  | _ => none

/-- The entry that a request describes, if R367 allows it. -/
def Ctx.newHolding (c : Ctx) (n : Nat) (h : HoldingReq) : Option Holding := do
  let cls ← classOf h.cls
  if decide (4096 ≤ n) || (SMap.find c.holdings n).isSome || decide (h.lsize < 12) || decide (40 < h.lsize) || decide (h.base % 2 ^ h.lsize ≠ 0) ||
      decide (h.base < 0x1000000) || decide (2 ^ 56 < h.base + 2 ^ h.lsize) || decide (2 ^ 18 ≤ h.holder) || c.overlaps h.base (2 ^ h.lsize) ||
      ((decide (cls = .exclusive) || decide (cls = .localOnly)) && !c.agentValid h.holder) then none
  else some { base := h.base, lsize := h.lsize, cls := cls, holder := h.holder, inflight := none }

/-- HOLDING_ADD: holding n added, or, where the request describes none, removed while the context runs no launch. -/
def execHoldingAdd (s0 : State) : Out :=
  match s0.ctxAt s0.req.t.ctx with
  | none => declined s0
  | some c =>
    let s := s0.focusCtx c.id
    match s0.req.holding with
    | some h =>
      match c.newHolding s0.req.n h with
      | some x => answered (s.setHolding s0.req.n x)
      | none => declined s0
    | none =>
      if (SMap.find c.holdings s0.req.n).isNone || c.launches.any fun l => l.2.pending then declined s0
      else answered (s.updCtx fun c => { c with holdings := SMap.del c.holdings s0.req.n })

/-- HOST_HANDOVER: host node n hands holding m to agent k by a handover message (R285, R369). -/
def execHostHandover (s0 : State) : Out :=
  match s0.ctxAt s0.req.t.ctx with
  | none => declined s0
  | some c =>
    let node := 0x20000 + s0.req.n
    match SMap.find c.holdings s0.req.m with
    | none => declined s0
    | some h =>
      if !h.heldBy node || !c.agentValid s0.req.k then declined s0
      else answered { (((s0.focusCtx c.id).setHolding s0.req.m { h with inflight := some s0.req.k }).updCtx fun c =>
        { c with handovers := c.handovers ++ [{ sender := node, holding := s0.req.m, dest := s0.req.k, seq := s0.nextId }] }) with
        nextId := s0.nextId + 1 }

/-! ## Shootdown (R366) -/

/-- Translations that a condition picks dropped from the TLBs of a core. -/
def VCore.dropTlb (p : TlbEntry → Bool) (v : VCore) : VCore :=
  { v with itlb := v.itlb.filter fun e => !p e, dtlb := v.dtlb.filter fun e => !p e }

/-- Translations of the context in focus dropped everywhere, after every store that passed its checks has been performed. -/
def State.shoot (s : State) (p : TlbEntry → Bool) : State :=
  let s1 := s.flushCtx
  { s1 with
    vc := s1.vc.dropTlb p
    ctx := s1.ctx.mapVcs (VCore.dropTlb p)
    l2tlb := s1.l2tlb.filter fun e => !(decide (e.2.ctx = s1.ctx.id) && p e.2) }

/-- A management message that every core of the context in focus receives (R22). -/
def State.toCores (s : State) : State := s.ctx.vcores.foldl (fun s v => s.countAt v.2.phys 3 0 1) s

/-- SHOOTDOWN: the translations of addresses n to m of the context. -/
def execShootdown (s0 : State) : Out :=
  match s0.ctxAt s0.req.t.ctx with
  | none => declined s0
  | some c => answered ((s0.focusCtx c.id).toCores.shoot fun e => decide (s0.req.n < e.base + e.size) && decide (e.base ≤ s0.req.m))

/-! ## Keys and attestation (R372, R373) -/

/-- The attestation report: the measurement, the enabled core map, the partition layout, the slot assignments and the nonce. -/
def State.attestReport (s : State) (nonce : List Nat) : List Nat :=
  Config.firmwareMeasure ++ s.cores.map Prod.fst ++ (s.parts.map fun p => [p.k, p.m, p.features]).flatten ++
    (s.keySlots.map fun k => k.1 :: k.2.ctxs).flatten ++ nonce

/-- ATTEST: a report for a nonce of 64 bytes, and its signature. -/
def execAttest (s0 : State) : Out :=
  if s0.req.l1.length ≠ 64 then declined s0
  else .next (s0.reply (.attest (s0.attestReport s0.req.l1) (Config.attestSignature (s0.attestReport s0.req.l1))))

/-- LOAD_KEY: slot n, for the contexts of the request, with the key that firmware unwraps. -/
def execLoadKey (s0 : State) : Out :=
  if 1024 ≤ s0.req.n then declined s0
  else match Config.unwrapKey s0.req.l2 with
    | some k => answered { s0 with keySlots := SMap.put s0.keySlots s0.req.n { key := k, loaded := true, ctxs := s0.req.l1 } }
    | none => declined s0

/-- Whether a translation goes through a key slot. -/
def TlbEntry.uses (slot : Nat) (e : TlbEntry) : Bool := decide (e.pte / 2 ^ 54 % 1024 = slot) && decide (0x80000000000 ≤ e.pte / 2 ^ 16 % 2 ^ 38 * 2 ^ 16)

/-- UNLOAD_KEY: every entry whose leaf names slot n is shot down, then the slot is cleared. -/
def execUnloadKey (s0 : State) : Out :=
  match SMap.find s0.keySlots s0.req.n with
  | none => declined s0
  | some k =>
    let s1 := (s0.sync.ctxs.foldl (fun s c => if c.2.live then (s.focusCtx c.1).shoot (TlbEntry.uses s0.req.n) else s) s0).focus s0.tid
    answered { s1 with keySlots := SMap.put s1.keySlots s0.req.n { k with key := 0, loaded := false } }

/-! ## Debug access (R375, R391) -/

/-- The word of a code page written by a debugger, under the key of the page. -/
def State.writeCodeWord (s : State) (va : Nat) (word : W32) : Option State :=
  match s.walk va with
  | .leaf pte lv _ =>
    let pa := leafAddr pte lv va
    if va % 4 = 0 && bitOf pte 4 && (decide (pa < 0x80000000000) || s.keyLoaded (pteSlot pte) s.ctx.id) then
      some (s.writePhys (busOf (pteSlot pte) pa) (leBytes 4 word.toNat))
    else none
  | _ => none

/-- A lantern table with a byte replaced. -/
def RuleTab.setByte (t : RuleTab) (k : Nat) (x : Byte) : RuleTab := { t with entries := t.entries.set k x }

/-- A placed thread of the context, in focus. -/
def State.debugAny (s : State) (v t : Nat) : Option State :=
  if s.ctx.hasVc v && decide (t < 8) then some (s.focus { ctx := s.ctx.id, vc := v, th := t }) else none

/-- The context in focus is stopped for a debugger: halted, and its stop reported (R375, R390). -/
def State.debugHalted (s : State) : Bool := s.ctx.halted && !s.stops.contains s.ctx.part

/-- A thread of a halted context, in focus. -/
def State.debugAt (s : State) (v t : Nat) : Option State := if s.debugHalted then s.debugAny v t else none

/-- The error log that a request names. -/
def logKind : Nat → Option ErrLog
  | 0 => some .slice
  | 1 => some .acc
  | 2 => some .sregs
  | 3 => some .vregs
  | _ => none

/-- The 32 bytes of a log entry (R393). -/
def LogEntry.bytes (e : LogEntry) : List Byte :=
  leBytes 8 e.addr ++ leBytes 4 e.syndrome.toNat ++ leBytes 1 e.ctxid ++ leBytes 1 (b2n e.uncorrected + 2 * b2n e.arrayFailed) ++ leBytes 2 0 ++
    leBytes 8 e.cycle ++ leBytes 8 0

/-- The control register of a thread in focus that a debugger may write: one that software writes (R34). -/
def State.debugCtl (s : State) (n : Nat) (x : W64) : Option State :=
  match ctlEntry n with
  | some (_, .hw) | none => none
  | some (w, _) => some (s.ctlWrite n w x)

/-- The flags of a row: NaN, plus and minus infinity (R200). -/
def AccRow.flags (r : AccRow) : Nat → Option (BitVec 128)
  | 0 => some r.nan
  | 1 => some r.posInf
  | 2 => some r.negInf
  | _ => none
def AccRow.setFlags (r : AccRow) (kind : Nat) (x : BitVec 128) : Option AccRow :=
  match kind with
  | 0 => some { r with nan := x }
  | 1 => some { r with posInf := x }
  | 2 => some { r with negInf := x }
  | _ => none

/-- Entry i of a queue replaced, or a new newest one. -/
def Thread.debugQueue (t : Thread) (q i : Nat) (e : QEntry) : Option Thread :=
  if 8 ≤ q || 16 ≤ i then none
  else if i < (t.getQ q).length then some (t.setQ q ((t.getQ q).set i e))
  else if i = (t.getQ q).length then some (t.setQ q (t.getQ q ++ [e]))
  else none

/-- An entry of a queue. -/
def State.debugEntry (s : State) (v t q i : Nat) : Option QEntry := (s.debugAt v t).bind fun x => (x.thr.getQ q)[i]?

/-- A row of the accumulators of a core of a halted context, changed. -/
def State.debugRow (s : State) (v row : Nat) (f : AccRow → Option AccRow) : Option State :=
  (s.debugAt v 0).bind fun x => if row < 256 then (f (x.vc.row row)).map fun r => x.updVc fun c => c.setRow row r else none

/-- Field k of an entry of the window table (R234): SET, VERSION, BASE, LSIZE, KIND and FMT, then the 13 parameters, then F. -/
def Window.field (w : Window) (k : Nat) : Option Nat :=
  match k with
  | 0 => some (b2n w.isSet)
  | 1 => some w.version.toNat
  | 2 => some w.base
  | 3 => some w.lsize
  | 4 => some w.kind
  | 5 => some w.fmt
  | _ => if k < 19 then some (w.par (k - 6)) else w.freq[k - 19]?
def Window.setField (w : Window) (k x : Nat) : Option Window :=
  match k with
  | 0 => some { w with isSet := bitOf x 0 }
  | 1 => some { w with version := BitVec.ofNat 32 x }
  | 2 => some { w with base := x % 2 ^ 56 }
  | 3 => some { w with lsize := x % 256 }
  | 4 => some { w with kind := x % 256 }
  | 5 => some { w with fmt := x % 256 }
  | _ =>
    if k < 19 then some { w with p := ((List.range 13).map w.par).set (k - 6) (x % 2 ^ 32) }
    else if k - 19 < w.freq.length then some { w with freq := w.freq.set (k - 19) (x % 2 ^ 32) }
    else none

/-- The code of a class of holding (R367). -/
def HClass.code : HClass → Nat
  | .exclusive => 0
  | .localOnly => 1
  | .common => 2
  | .frame => 3
  | .queue => 4
  | .sealed => 5

/-- An entry of the holding table as a debugger reads it: BASE, then LSIZE, class, agent code and in-flight bit above bit 56. -/
def Holding.word (h : Holding) : Nat :=
  h.base + 2 ^ 56 * h.lsize + 2 ^ 62 * h.cls.code + 2 ^ 65 * (h.inflight.getD h.holder) + 2 ^ 83 * b2n h.inflight.isSome

/-- The entry of the holding table that a debugger writes: none clears it. -/
def Ctx.debugHolding (c : Ctx) (n : Nat) (x : Option HoldingReq) : Option Ctx :=
  let rest := { c with holdings := SMap.del c.holdings n }
  match x with
  | none => some rest
  | some h => (rest.newHolding n h).map fun y => { rest with holdings := SMap.put rest.holdings n y }

/-- Weight i of block b of column n of a loaded bank; above the 32 weights its scale byte. -/
def Bank.item (k : Bank) (n b i : Nat) : Option Int :=
  match (k.cols[n]?.getD [])[b]? with
  | some w => if i = 32 then some (w.scale : Int) else w.weights[i]?
  | none => none
/-- The same replaced, by a value of the weight's signed range of WP bits, of the unsigned one for a low column of a split bank, or a byte. -/
def Bank.setItem (k : Bank) (n b i : Nat) (x : Int) : Option Bank :=
  let y : Int := if i = 32 then x % 256 else if k.wsplit && decide (n % 2 = 0) then x % 2 ^ k.wp else toSigned k.wp (wrapNat k.wp x)
  (k.item n b i).map fun _ =>
    { k with cols := k.cols.modify n fun c => c.modify b fun w => if i = 32 then { w with scale := y.toNat } else { w with weights := w.weights.set i y } }

/-- Doubleword k of the task record of a live lane (R304, R327); 4 is whether it has executed JOIN. -/
def LaneRec.word (l : LaneRec) (k : Nat) : Option Nat :=
  if k < 4 then some (fieldAt l.task.bytes (8 * k) 8) else if k = 4 then some (b2n l.joined) else none
def LaneRec.setWord (l : LaneRec) (k : Nat) (x : W64) : Option LaneRec :=
  if k < 4 then some { l with task := taskOf (patchAt l.task.bytes (8 * k) (leBytes 8 x.toNat)) }
  else if k = 4 then some { l with joined := bitOf x.toNat 0 }
  else none

/-- The E position written: the path begins at it where the path holds it, else it is the path, to be fetched. -/
def Thread.setEPos (t : Thread) (p : W64) : Thread :=
  { t with ePath := if t.ePath.contains p then t.ePath.dropWhile (fun x => decide (x ≠ p)) else [p], eNext := 0, waitE := .none }

/-- The effect of a debug request on a context in focus: the state and the value read. -/
def debugEffect (s : State) : DebugReq → Option (State × Option Nat)
  | .readS v t n => (s.debugAt v t).map fun x => (s, some (x.thr.getS n).toNat)
  | .writeS v t n x => (s.debugAt v t).map fun y => (y.updThr fun t => t.setS n x, none)
  | .readV v t n lane => (s.debugAt v t).map fun x => (s, some ((x.thr.getV n).lane lane).toNat)
  | .writeV v t n lane x => (s.debugAt v t).map fun y => (y.updThr fun t => t.setV n ((t.getV n).setIfInBounds lane x), none)
  | .readM v t n => (s.debugAt v t).map fun x => (s, some (x.thr.getM n).toNat)
  | .writeM v t n x => (s.debugAt v t).map fun y => (y.updThr fun t => t.setM n x, none)
  | .writePos v t apc => (s.debugAt v t).map fun y => (y.updThr fun t => { t with apc := apc, eNext := 0, waitA := .none }, none)
  | .writeEPos v t p => (s.debugAt v t).map fun y => (y.updThr fun t => t.setEPos p, none)
  | .readWindow n k => if s.debugHalted && decide (n < 16) then ((s.winEntry n).field k).map fun x => (s, some x) else none
  | .writeWindow n k x =>
      if s.debugHalted && decide (n < 16) then ((s.winEntry n).setField k x).map fun w => (s.setWin n w, none) else none
  | .readHolding n => if s.debugHalted then (SMap.find s.ctx.holdings n).map fun h => (s, some h.word) else none
  | .writeHolding n x => if s.debugHalted then (s.ctx.debugHolding n x).map fun c => ({ s with ctx := c }, none) else none
  | .readBank v k n b i => (s.debugAt v 0).bind fun x => (x.vc.bank k).bind fun w => (w.item n b i).map fun y => (s, some (wrapNat 64 y))
  | .writeBank v k n b i x => (s.debugAt v 0).bind fun y => (y.vc.bank k).bind fun w => (w.setItem n b i x).map fun z =>
      (y.updVc fun c => c.setBank k (some z), none)
  | .readLane v t i k => (s.debugAt v t).bind fun x => (x.thr.lanes[i]?).bind fun l => (l.word k).map fun y => (s, some y)
  | .writeLane v t i k x => (s.debugAt v t).bind fun y => (y.thr.lanes[i]?).bind fun l => (l.setWord k x).map fun z =>
      (y.updThr fun t => { t with lanes := t.lanes.set i z }, none)
  | .readNear v a => (s.debugAt v 0).bind fun x => if a < 0x3C0000 then some (s, some (Memory.read s.mem (x.vc.phys * 0x400000 + a)).toNat) else none
  | .writeNear v a b => (s.debugAt v 0).bind fun x =>
      if a < 0x3C0000 then some (x.writePhys (x.vc.phys * 0x400000 + a) [b], none) else none
  | .readAcc v row col => (s.debugAt v 0).bind fun x =>
      if row < 256 && decide (col < 128) then some (s, some ((x.vc.row row).col col).toNat) else none
  | .writeAcc v row col b => (s.debugAt v 0).bind fun x =>
      if row < 256 && decide (col < 128) then
        some (x.updVc fun c => c.setRow row { c.row row with x := SMap.set 0 (c.row row).x col b }, none)
      else none
  | .readCtl v t n => (s.debugAt v t).bind fun x => (ctlEntry n).map fun _ => (s, some (x.ctlRead n).toNat)
  | .writeCtl v t n x => (s.debugAt v t).bind fun y => (y.debugCtl n x).map fun z => (z, none)
  | .readPos v t estream => (s.debugAt v t).map fun x => (s, some (if estream then x.thr.ePos else x.thr.apc).toNat)
  | .readToken v t k => (s.debugAt v t).map fun x =>
      let j := x.thr.getK k
      (s, some (j.count + 2 ^ 32 * b2n j.err + 2 ^ 48 * j.cause + 2 ^ 64 * j.addr))
  | .writeToken v t k count err cause addr => (s.debugAt v t).map fun y =>
      (y.updThr fun t => t.setK k { count := count, err := err, cause := cause, addr := addr }, none)
  | .readQueue v t q i lane => (s.debugEntry v t q i).map fun e => (s, some (e.lanes.lane lane).toNat)
  | .readQueueMask v t q i => (s.debugEntry v t q i).map fun e => (s, some e.mask.toNat)
  | .writeQueue v t q i lanes mask => (s.debugAt v t).bind fun y =>
      (y.thr.debugQueue q i { lanes := Lanes.make fun k => lanes[k]?.getD 0, mask := mask, ready := true }).map fun z => (y.setThr z, none)
  | .popQueue v t q => (s.debugAt v t).map fun y => (y.updThr fun t => t.setQ q ((t.getQ q).drop 1), none)
  | .readLink v t n => (s.debugAt v t).map fun x => (s, some (linkDescr (x.thr.getL n)))
  | .writeLink v t n x => (s.debugAt v t).map fun y => (y.updThr fun t => t.setL n (linkOfDescr x.toNat), none)
  | .readRow v row => (s.debugAt v 0).bind fun x =>
      let r := x.vc.row row
      if row < 256 then some (s, some (r.e.toNat + 2 ^ 10 * b2n r.pair + 2 ^ 11 * b2n r.anchor)) else none
  | .writeRow v row e pair anchor => (s.debugRow v row fun r => some { r with e := e, pair := pair, anchor := anchor }).map fun y => (y, none)
  | .readRowFlags v row kind => (s.debugAt v 0).bind fun x => if row < 256 then ((x.vc.row row).flags kind).map fun f => (s, some f.toNat) else none
  | .writeRowFlags v row kind x => (s.debugRow v row fun r => r.setFlags kind x).map fun y => (y, none)
  | .readLog v kind i => (s.debugAny v 0).bind fun x => (logKind kind).bind fun k => ((x.core.logOf k)[i]?).map fun e => (s, some (leNat e.bytes))
  | .readTable v k => (s.debugAt v 0).bind fun x => x.vc.table.bind fun t => (t.entries[k]?).map fun b => (s, some b.toNat)
  | .writeTable v k b => (s.debugAt v 0).bind fun x => x.vc.table.map fun t => (x.updVc fun c => { c with table := some (t.setByte k b) }, none)
  | .singleStep v t on => (s.debugAny v t).map fun y => (y.updThr fun t => { t with singleStep := on }, none)
  | .watchpoint n base lsize rd wr =>
      if n < 4 && decide (3 ≤ lsize) && decide (lsize ≤ 40) && decide (base % 2 ^ lsize = 0) then
        some (s.updCtx fun c =>
          { c with watch := c.watch.setIfInBounds n (if rd || wr then some { base := base, lsize := lsize, rd := rd, wr := wr } else none) }, none)
      else none
  | .writeCode va word => (s.writeCodeWord va word).map fun x => (x, none)

/-- DEBUG_ACCESS: the request reaches only its context's state. One that a module node sent is dropped, and the host is told (R375). -/
def execDebugAccess (s0 : State) : Out :=
  match (s0.ctxAt s0.req.t.ctx).filter fun _ => !s0.req.flag with
  | none => declined s0
  | some c =>
    match debugEffect (s0.focusCtx c.id) s0.req.dbg with
    | some (s1, some x) => .next (s1.reply (.value x))
    | some (s1, none) => answered s1
    | none => declined s0

/-! ## Partitions (R353) -/

/-- The partition of a request, which keeps its belfry's state where it does not change. -/
def newPart (old : List Part) (r : PartReq) : Part :=
  match old.find? fun p => decide (p.k = r.k) && decide (p.m = r.m) && decide (p.features = r.features) with
  | some p => p
  | none => { k := r.k, m := r.m, features := r.features, stopped := none }

/-- A layout that R353 allows: partitions of 1, 2, 4 or 8 dies that share no die, with features of R87. -/
def layoutOk (rs : List PartReq) : Bool :=
  rs.all (fun r => decide (r.k ≤ 3) && decide ((r.m + 1) * 2 ^ r.k ≤ 8) && decide (r.features < 1024)) &&
  (List.range 8).all fun d => decide ((rs.filter fun r => decide (d / 2 ^ r.k = r.m)).length ≤ 1)

/-- PARTITION_CONFIG: a new layout, where no context lives on an affected die. -/
def execPartitionConfig (s0 : State) : Out :=
  let s := s0.sync
  let parts := s0.req.parts.map (newPart s.parts)
  let kept := fun (c : Ctx) => (s.parts[c.part]?).bind fun p => parts.findIdx? fun q => decide (q = p)
  if !layoutOk s0.req.parts || s.ctxs.any (fun c => c.2.live && (kept c.2).isNone) then declined s0
  else
    let moved := s.stops.filterMap fun n => (s.parts[n]?).bind fun p => parts.findIdx? fun q => decide (q = p)
    let s1 := { s with parts := parts, stops := moved, ctxs := s.ctxs.map fun (c : Nat × Ctx) => (c.1, { c.2 with part := (kept c.2).getD 0 }) }
    answered (s1.load s0.tid)

end Sys2Proof.Machine
end

