-- ==== Sys2Proof/Machine/Recovery.lean ====
section
/-! DEFINITION. Pre-emption, the context save and its restore (R385 to R388), parked threads (R381), kills (R394) and the belfry (R389,
R390). -/

namespace Sys2Proof.Machine

/-! ## PREEMPT (R385) -/

/-- A pre-emption pending in the context in focus: its cores are told (R22), and a running MTILE or RSTEP stops (R233, R350). -/
def State.preemptWith (s : State) (deadlines : List Nat) : State :=
  s.toCores.stopJobs.updCtx fun c => { c with preempt := .pending deadlines }

/-- PREEMPT: the context's threads are to stop; a further request joins a pending one. -/
def execPreempt (s0 : State) : Out :=
  match s0.ctxAt s0.req.t.ctx with
  | none => declined s0
  | some c =>
    if c.killed then declined s0
    else match c.preempt with
      | .none => answered ((s0.focusCtx c.id).preemptWith [s0.clock + s0.req.n])
      | .pending ls => answered ((s0.focusCtx c.id).preemptWith (ls ++ [s0.clock + s0.req.n]))
      | .saved => declined s0

/-! ## When the save starts -/

/-- A thread that has stopped for a pre-emption: free, at a PPT, parked, or at a step boundary of MTILE or RSTEP. -/
def Thread.atRest (t : Thread) : Bool :=
  match t.status with
  | .running => decide (t.waitA = .mtile) || decide (t.waitA = .rstep)
  | _ => true

/-- No copy of a thread is in flight. -/
def Thread.tokensIdle (t : Thread) : Bool := t.k.toList.all fun k => decide (k.count = 0)

/-- A virtual core whose image can be taken (R385). -/
def VCore.canSave (v : VCore) : Bool :=
  v.outstanding.isEmpty && (v.threads.all fun t => t.2.atRest && t.2.tokensIdle) && v.parks.all (fun p => p.thr.tokensIdle) &&
  v.copyms.all fun c => !c.members.isEmpty

/-- The save of a context in the maps can start. -/
def Ctx.canSave (c : Ctx) : Bool :=
  c.live && !c.killed && !c.halted && (match c.preempt with | .pending _ => true | _ => false) && c.mcmds.isEmpty && c.freeMsgs.isEmpty &&
  c.vcores.all fun v => v.2.canSave

/-! ## The save regions (R387) -/

/-- The region of a virtual core. -/
def Ctx.region (c : Ctx) (n : Nat) : Nat := c.savebase + n * 0x500000

/-- Bytes brought to a length with zeros. -/
def padTo (n : Nat) (bs : List Byte) : List Byte := bs.take n ++ List.replicate (n - bs.length) 0

/-- The pages of the near range that a save writes. -/
def VCore.livePages (v : VCore) : List Nat := (List.range 960).filter fun p => !v.dead.contains p

def tokenBytes (k : Token) : List Byte := leBytes 4 k.count ++ leBytes 2 (b2n k.err) ++ leBytes 2 k.cause ++ leBytes 8 k.addr

def lanesBytes (x : Lanes) : List Byte := (x.toList.map fun w => leBytes 4 w.toNat).flatten

/-- A thread image. -/
def threadImage (t : Thread) : List Byte :=
  (t.s.toList.map fun x => leBytes 8 x.toNat).flatten ++ (t.m.toList.map fun x => leBytes 4 x.toNat).flatten ++
  (t.k.toList.map tokenBytes).flatten ++ (t.l.toList.map fun l => leBytes 8 (linkDescr l)).flatten ++
  padTo 96 (([t.apc, t.ePos, BitVec.ofNat 64 (b2n t.handler + 2 * b2n t.donePending), t.cause, t.epc, t.faddr, t.fdetail, t.einst, t.aepc,
    t.hsave].map fun x => leBytes 8 x.toNat).flatten ++ leBytes 4 t.fpflags.toNat ++ leBytes 4 t.fpen.toNat ++ leBytes 4 t.rmode.toNat) ++
  padTo 1024 (t.lanes.map fun l => l.task.bytes).flatten ++
  padTo 64 ((t.q.toList.map fun q => leBytes 2 q.length).flatten ++ leBytes 2 t.replay.length ++
    (t.q.toList.map fun q => leBytes 2 (((List.range 16).zip q).map fun e => if e.2.ready then 0 else 2 ^ e.1).sum).flatten) ++
  List.replicate 1984 0 ++ (t.v.toList.map lanesBytes).flatten

/-! ### Parked stores (R387, log 44) -/

/-- The lanes of a parked store's accesses: 0 for one that is of no vector. -/
def Parked.laneNums (p : Parked) : List Nat := p.accs.map fun a => a.lane.getD 0
def Parked.base (p : Parked) : Nat := (p.accs.head?.map PAcc.va).getD 0
def Parked.size (p : Parked) : Nat := (p.accs.head?.map fun a => a.bytes.length).getD 0

/-- The stride between the lanes of its accesses, as the first two give it. -/
def Parked.stride (p : Parked) : Int :=
  match p.accs, p.laneNums with
  | a :: b :: _, i :: j :: _ => ((b.va : Int) - a.va) / ((j : Int) - i)
  | _, _ => 0

/-- How a record names the addresses: 0 by a base and a stride, 1 by an offset for each access, 2 by the base alone, where offsets do not fit in
the 224 bytes. -/
def Parked.form (p : Parked) : Nat :=
  let i0 := p.laneNums.headD 0
  if (p.accs.zip p.laneNums).all fun x => decide ((x.1.va : Int) = p.base + p.stride * ((x.2 : Int) - i0)) then 0
  else if decide (p.accs.length * (4 + p.size) ≤ 200) &&
      p.accs.all fun a => decide (-2 ^ 31 ≤ (a.va : Int) - p.base) && decide ((a.va : Int) - p.base < 2 ^ 31) then 1
  else 2

/-- The record of a parked store: base, mask, size, form, number of accesses, stride, offsets, and the data. -/
def Parked.record (p : Parked) : List Byte :=
  padTo 224 (leBytes 8 p.base ++ leBytes 4 ((p.accs.filterMap PAcc.lane).map fun i => 2 ^ i).sum ++ leBytes 1 p.size ++ leBytes 1 p.form ++
    leBytes 2 p.accs.length ++ leBytes 8 (wrapNat 64 p.stride) ++
    (if p.form = 1 then (p.accs.map fun a => leBytes 4 (wrapNat 32 ((a.va : Int) - p.base))).flatten else []) ++
    (p.accs.map PAcc.bytes).flatten)

/-- A parked store with what its record holds. -/
def Parked.withRecord (p : Parked) (b : List Byte) : Parked :=
  let mask := fieldAt b 8 4
  let lanes := (List.range 32).filter (bitOf mask)
  let size := fieldAt b 12 1
  let form := fieldAt b 13 1
  let n := fieldAt b 14 2
  let data := b.drop (24 + if form = 1 then 4 * n else 0)
  { p with accs := (List.range n).map fun i =>
      let off : Int := match form with
        | 0 => toSigned 64 (fieldAt b 16 8) * (((lanes[i]?.getD 0 : Nat) : Int) - (lanes.headD 0 : Nat))
        | 1 => toSigned 32 (fieldAt b (24 + 4 * i) 4)
        | _ => (((p.accs[i]?.map PAcc.va).getD (fieldAt b 0 8) : Nat) : Int) - (fieldAt b 0 8 : Nat)
      { va := wrapNat 64 ((fieldAt b 0 8 : Nat) + off)
        bytes := (data.drop (size * i)).take size
        lane := if mask = 0 then none else lanes[i]?
        missing := (p.accs[i]?.map PAcc.missing).getD true
        view := (p.accs[i]?.map PAcc.view).getD none } }

/-- The stream state of a thread: its queue entries and its parked stores. -/
def streamImage (t : Thread) : List Byte :=
  (t.q.toList.map fun q => padTo (16 * 132) (q.map fun e => lanesBytes e.lanes ++ leBytes 4 e.mask.toNat).flatten).flatten ++
  padTo (16 * 224) (t.replay.map Parked.record).flatten

/-- An entry of the window table. -/
def windowImage (w : Window) : List Byte :=
  padTo 64 (leBytes 8 w.base ++ leBytes 1 w.lsize ++ leBytes 1 w.kind ++ leBytes 1 w.fmt ++ leBytes 1 0 ++ (w.p.map (leBytes 4)).flatten) ++
  leBytes 4 (b2n w.isSet) ++ leBytes 4 w.version.toNat ++ List.replicate 56 0 ++ padTo 2048 (w.freq.map (leBytes 4)).flatten

def kindCode : RuleKind → Nat
  | .full => 0
  | .total => 1

/-- The pieces of a region but for its header and near pages, each at its offset. -/
def VCore.pieces (v : VCore) (c : Ctx) : List (Nat × List Byte) :=
  [(0x40, leBytes 128 ((v.livePages.map fun p => 2 ^ p).sum)),
   (0xC0, padTo 64 ((v.mkeys.toList.map fun k => leBytes 8 k.toNat).flatten ++
     (match v.table with | some t => leBytes 1 (kindCode t.kind) ++ leBytes 1 t.hood ++ leBytes 1 t.bits ++ leBytes 1 1 | none => leBytes 4 0))),
   (0x100, padTo (96 * 16) (v.frees.map fun f => leBytes 8 f.key ++ leBytes 4 f.sender ++ leBytes 4 f.order).flatten),
   (0x700, padTo (4 * 32) (v.copyms.map fun x => leBytes 8 ((x.members.map fun m => 2 ^ (m % 24)).sum) ++ leBytes 8 x.mailbox ++ leBytes 8 x.scope ++
     leBytes 8 x.order).flatten),
   (0x1000, ((List.range 8).map fun t => threadImage (SMap.get (Thread.fresh t) v.threads t)).flatten ++
     padTo (4 * 12288) (v.parks.map fun p => threadImage p.thr).flatten),
   (0x25000, (c.windows.toList.map windowImage).flatten),
   (0x2E000, padTo 65536 (padTo 32768 (v.onChip.map fun r => r.task.bytes).flatten ++
     (v.stations.map fun s => padTo 1024 (s.recs.map fun r => r.task.bytes).flatten).flatten)),
   (0x3E000, padTo 65536 (match v.table with | some t => t.entries | none => [])),
   (0x4E000, ((List.range 256).map fun r => (v.row r).raw 128).flatten),
   (0x4D2000, ((List.range 8).map fun t => streamImage (SMap.get (Thread.fresh t) v.threads t)).flatten)]

/-- The header of a region. -/
def VCore.header (v : VCore) (c : Ctx) (seq : Nat) : List Byte :=
  leBytes 4 1 ++ leBytes 2 v.id ++ leBytes 1 c.id ++
  leBytes 1 ((v.threads.map fun t => if t.2.status = .free then 0 else 2 ^ t.1).sum) ++ leBytes 8 seq ++
  leBytes 1 (2 ^ v.parks.length - 1) ++ leBytes 3 0 ++ leBytes 4 v.livePages.length ++ List.replicate 40 0

/-! ## CONTEXT_SAVE -/

/-- The rows that the last liveness record of a stopped thread names (R387). -/
def Thread.keepsRow (t : Thread) (r : Nat) : Bool :=
  decide (t.status ≠ .free) && decide (t.liveRows.1 ≤ r) && decide (r < t.liveRows.1 + t.liveRows.2)

/-- The rows that a save writes with their contents: those that the last record of a stopped thread names, the threads of parked firings among
them. -/
def VCore.rowLive (v : VCore) (r : Nat) : Bool := (v.threads.any fun t => t.2.keepsRow r) || v.parks.any fun p => p.thr.keepsRow r

/-- A thread as the save takes it: an MTILE or RSTEP stands at its own address. -/
def Thread.rest (t : Thread) : Thread := { t with waitA := .none, waitE := .none }

/-- A virtual core as the save takes it: the rows that are not live cleared, no bank, no running job, no translation. -/
def VCore.rest (v : VCore) : VCore :=
  { (v.mapRows 0 256 fun i r => if v.rowLive i then r else r.wipe) with
    bank0 := none
    bank1 := none
    tile := none
    rule := none
    groupLock := none
    itlb := []
    dtlb := []
    threads := v.threads.map fun t => (t.1, t.2.rest) }

/-- Whether every page of a region can be reached. -/
def State.regionReached (s : State) (n : Nat) : Bool := (List.range 80).all fun g => (s.hwAddr (s.ctx.region n + 65536 * g)).toBool

/-- A region that has no translation, a key that is not loaded, or a word of a saved page that cannot be corrected, which enters its slice's log: the
virtual core whose save does not finish, the cause with its detail, and the state. -/
def State.saveFails (s : State) (v : VCore) : Option (Cause × Nat × State) :=
  if !s.regionReached v.id then some (.saveAbandoned, v.id, s)
  else match s.badWords.find? fun w => decide (w / 0x400000 = v.phys) && v.livePages.contains (w % 0x400000 / 4096) with
    | some w => some (.sramUncorrectable, s.logIndex .slice v.phys, s.logError .slice v.phys w s.ctx.id true)
    | none => none

/-- The contents of a region written, without its header. -/
def State.writeRegion (s : State) (v : VCore) : State :=
  let base := s.ctx.region v.id
  let s1 := (v.pieces s.ctx).foldl (fun s p => s.placeBytes 82 (base + p.1) p.2) s
  v.livePages.foldl (fun s p =>
    s.placeBytes 2 (base + 0x112000 + 4096 * p) (Memory.readN s.mem (v.phys * 0x400000 + 4096 * p) 4096)) s1

/-- The save of the context in focus: every region, then every header, then the report; the cores are freed. -/
def State.saveCtx (s : State) : State :=
  let seq := s.ctx.saveSeq + 1
  let vs := s.ctx.vcores.map fun v => v.2.rest
  let s1 := vs.foldl State.writeRegion s
  let s2 := vs.foldl (fun s v => s.placeBytes 2 (s.ctx.region v.id) (v.header s.ctx seq)) s1
  let s3 := (s.ctx.vcores.foldl (fun s v => s.countAt v.2.phys 1 (5 * 1024) 0) s2).updCtx fun c => { c with saved := vs, vcores := [], preempt := .saved, saveSeq := seq }
  s3.report (reportOf .preempt 1 s.ctx.id 0xFFFF 0 seq s.now)

/-- The context of the request, in focus with its stores performed, where its save can start. -/
def State.saveReady (s : State) : Option State :=
  match s.ctxAt s.req.t.ctx with
  | none => none
  | some c =>
    let s1 := (s.focusCtx c.id).flushCtx.sync
    if s1.ctx.canSave then some s1 else none

/-- CONTEXT_SAVE: every thread has stopped and drained; the context is saved, or the save is abandoned and the context killed. -/
def execContextSave (s0 : State) : Out :=
  match s0.saveReady with
  | none => .next s0
  | some s =>
    match s.ctx.vcores.findSome? fun v => s.saveFails v.2 with
    | some (c, d, s1) => .next (s1.kill s.ctx.id (reportOf c 2 s.ctx.id 0xFFFF 0 d s.now))
    | none => .next (s.saveCtx.sync.load s.tid)

/-! ## Watchdogs (R386) -/

/-- A limit of a pending pre-emption has expired. -/
def State.expired (s : State) (c : Ctx) : Bool := match c.preempt with | .pending ds => ds.any fun d => decide (d ≤ s.clock) | _ => false

/-- WATCHDOG_STOP_EXPIRY: a request's limit expires before the save can start. -/
def execWatchdogStopExpiry (s0 : State) : Out :=
  match s0.ctxAt s0.req.t.ctx with
  | none => .next s0
  | some c =>
    if !s0.expired c || s0.saveReady.isSome || c.killed then .next s0
    else .next (s0.kill c.id (reportOf .watchdog 2 c.id 0xFFFF 0 1 s0.now))

/-- WATCHDOG_SAVE_EXPIRY: a request's limit expires while the save of virtual core n is not finished; no header becomes VALID. -/
def execWatchdogSaveExpiry (s0 : State) : Out :=
  match s0.saveReady with
  | none => .next s0
  | some s => if s.expired s.ctx && s.ctx.hasVc s0.req.n then .next (s.kill s.ctx.id (reportOf .saveAbandoned 2 s.ctx.id s0.req.n 0 s0.req.n s.now)) else .next s0

/-! ## CONTEXT_RESTORE (R388) -/

/-- SAVESEQ of a region that can be read and whose header is VALID. -/
def State.regionSeq (s : State) (n : Nat) : Option Nat :=
  match s.hwRead (s.ctx.region n) 64 with
  | some bs => if fieldAt bs 0 4 = 1 && decide (fieldAt bs 4 2 = n) && s.regionReached n then some (fieldAt bs 8 8) else none
  | none => none

/-- Every region is VALID with one SAVESEQ. -/
def State.regionsOk (s : State) : Bool :=
  match s.regionSeq 0 with
  | some q => (List.range s.ctx.nmax).all fun n => decide (s.regionSeq n = some q)
  | none => false

/-- The base that a leaf of the page size needs for the view of offset `off` of virtual core n to reach physical core `phys`: none where no aligned
page gives it (log 57). -/
def viewBase (n phys off size : Nat) : Option Nat :=
  let target := phys * 0x400000 + off
  let within := (0x10000000000 + n * 0x400000 + off) % size
  if within ≤ target && decide ((target - within) % size = 0) then some (target - within) else none

/-- A slice-view leaf rewritten for another physical core (R362). -/
def State.rewriteLeaf (s : State) (n phys g : Nat) : State :=
  match s.walk (0x10000000000 + n * 0x400000 + 65536 * g) with
  | .leaf pte lv pa =>
    match viewBase n phys (65536 * g) (pageSize lv) with
    | some b => { s with mem := Memory.writeN s.mem pa (leBytes 8 (pte - pte / 2 ^ 16 % 2 ^ 38 * 2 ^ 16 + b)) }
    | none => s
  | _ => s

/-- A slice-view leaf that still reaches another core than the one it names made invalid. -/
def State.confirmLeaf (s : State) (n phys g : Nat) : State :=
  let va := 0x10000000000 + n * 0x400000 + 65536 * g
  match s.walk va with
  | .leaf pte lv pa => if leafAddr pte lv va = phys * 0x400000 + 65536 * g then s else { s with mem := Memory.writeN s.mem pa (leBytes 8 (pte - 1)) }
  | _ => s

/-- A change for every page of the views of virtual cores on their physical cores. -/
def State.onViews (s : State) (f : State → Nat → Nat → Nat → State) (vs : List (Nat × Nat)) : State :=
  vs.foldl (fun s x => (List.range 64).foldl (fun s g => f s x.1 x.2 g) s) s

/-- The slice views of virtual cores rewritten for their physical cores. -/
def State.rewriteViews (s : State) (vs : List (Nat × Nat)) : State :=
  (s.onViews State.rewriteLeaf vs).onViews State.confirmLeaf vs

/-- `n` bytes of the region of virtual core `v`, from an offset on. -/
def State.regionBytes (s : State) (v off n : Nat) : List Byte :=
  (List.range n).map fun i => match s.hwAddr (s.ctx.region v + off + i) with | .ok b => s.busByte b | .error _ => 0

/-- The pages that the page map of a region names. -/
def mappedPages (b : List Byte) : List Nat := (List.range 960).filter (bitOf (leNat b))

/-- A core's slice loaded from its region: the pages that were not saved are zero. -/
def State.loadSlice (s : State) (v : VCore) (phys : Nat) : State :=
  (mappedPages (s.regionBytes v.id 0x40 128)).foldl (fun s p =>
    { s with mem := Memory.writeN s.mem (phys * 0x400000 + 4096 * p) (s.regionBytes v.id (0x112000 + 4096 * p) 4096) }) (s.zeroSlice phys)

/-! ## What a region gives a core (R387, R388, log 44) -/

/-- A doubleword of an image. -/
def wordAt (b : List Byte) (off : Nat) : W64 := BitVec.ofNat 64 (fieldAt b off 8)

def tokenOf (b : List Byte) : Token := { count := fieldAt b 0 4, err := bitOf (fieldAt b 4 2) 0, cause := fieldAt b 6 2, addr := fieldAt b 8 8 }

def lanesAt (b : List Byte) (off : Nat) : Lanes := Lanes.make fun k => BitVec.ofNat 32 (fieldAt b (off + 4 * k) 4)

/-- A thread with the E position of its image: where it stands there, its path stays as it is. -/
def Thread.atEPos (t : Thread) (p : W64) : Thread := if t.ePos = p then t else t.setEPos p

/-- A firing with what its image holds. -/
def Thread.withImage (t : Thread) (b : List Byte) : Thread :=
  Thread.atEPos { t with
    s := Vector.ofFn fun i : Fin 64 => wordAt b (8 * i.val)
    m := Vector.ofFn fun i : Fin 8 => BitVec.ofNat 32 (fieldAt b (0x200 + 4 * i.val) 4)
    k := Vector.ofFn fun i : Fin 8 => tokenOf (b.drop (0x220 + 16 * i.val))
    l := Vector.ofFn fun i : Fin 32 => linkOfDescr (fieldAt b (0x2A0 + 8 * i.val) 8)
    apc := wordAt b 0x3A0
    handler := bitOf (fieldAt b 0x3B0 8) 0
    donePending := bitOf (fieldAt b 0x3B0 8) 1
    cause := wordAt b 0x3B8
    epc := wordAt b 0x3C0
    faddr := wordAt b 0x3C8
    fdetail := wordAt b 0x3D0
    einst := wordAt b 0x3D8
    aepc := wordAt b 0x3E0
    hsave := wordAt b 0x3E8
    fpflags := BitVec.ofNat 64 (fieldAt b 0x3F0 4)
    fpen := BitVec.ofNat 64 (fieldAt b 0x3F4 4)
    rmode := BitVec.ofNat 64 (fieldAt b 0x3F8 4)
    lanes := ((List.range t.lanes.length).zip t.lanes).map fun x => { x.2 with task := taskOf ((b.drop (0x400 + 32 * x.1)).take 32) }
    v := Vector.ofFn fun i : Fin 64 => lanesAt b (0x1000 + 128 * i.val) } (wordAt b 0x3A8)

/-- The entries of queue q that the image `b` and the stream state `st` hold. -/
def queueAt (b st : List Byte) (q : Nat) : List QEntry :=
  (List.range (min 16 (fieldAt b (0x800 + 2 * q) 2))).map fun j =>
    { lanes := lanesAt st (2112 * q + 132 * j)
      mask := BitVec.ofNat 32 (fieldAt st (2112 * q + 132 * j + 128) 4)
      ready := !bitOf (fieldAt b (0x812 + 2 * q) 2) j }

/-- A firing with what its stream state holds: as many parked stores as its image counts. -/
def Thread.withStream (t : Thread) (b st : List Byte) : Thread :=
  { t with
    q := Vector.ofFn fun i : Fin 8 => queueAt b st i.val
    replay := (List.range (min 16 (fieldAt b 0x810 2))).map fun i =>
      (t.replay[i]?.getD { order := 0, accs := [], failed := none }).withRecord ((st.drop (16896 + 224 * i)).take 224) }

/-- The row that a RAW row of 128 columns holds (R222). -/
def rowOfRaw (b : List Byte) : AccRow where
  x := (List.range 128).foldl (fun m j => SMap.set 0 m j (BitVec.ofNat 192 (fieldAt b (64 + 24 * j) 24))) []
  nan := BitVec.ofNat 128 (fieldAt b 16 16)
  posInf := BitVec.ofNat 128 (fieldAt b 32 16)
  negInf := BitVec.ofNat 128 (fieldAt b 48 16)
  e := BitVec.ofNat 10 (fieldAt b 0 2)
  pair := bitOf (fieldAt b 2 1) 0
  anchor := bitOf (fieldAt b 2 1) 1

/-- A window entry with what its image holds. -/
def Window.withImage (w : Window) (b : List Byte) : Window :=
  let version := BitVec.ofNat 32 (fieldAt b 68 4)
  if bitOf (fieldAt b 64 4) 0 then
    { windowOf b none none version with freq := (List.range w.freq.length).map fun k => fieldAt b (128 + 4 * k) 4 }
  else { w with isSet := false, version := version }

/-- Records with the tasks that an area holds, 32 bytes each: those on chip, in their order. -/
def retask : List DRec → List Byte → List DRec
  | [], _ => []
  | r :: rest, bs => if r.slot.isSome then r :: retask rest bs else { r with task := taskOf (bs.take 32) } :: retask rest (bs.drop 32)

/-- A number of which a field holds the low 32 bits. -/
def keepLow (old field : Nat) : Nat := if old % 2 ^ 32 = field then old else field

/-- The lantern table that a region holds, where its loaded flag is set. -/
def tableOf (f entries : List Byte) : Option RuleTab :=
  let kind : RuleKind := if fieldAt f 0 1 = 0 then .full else .total
  if fieldAt f 3 1 = 0 then none
  else some { kind := kind, hood := fieldAt f 1 1, bits := fieldAt f 2 1, entries := entries.take (tableSize kind (fieldAt f 1 1) (fieldAt f 2 1)) }

/-- The pending frees that a region holds, and its COPYMs: unused entries are zero. -/
def freesOf (old : List PendingFree) (b : List Byte) : List PendingFree :=
  ((List.range 96).map fun i =>
    let f := b.drop (16 * i)
    ({ key := fieldAt f 0 8, sender := fieldAt f 8 4, order := keepLow ((old[i]?.map PendingFree.order).getD 0) (fieldAt f 12 4) } : PendingFree)).takeWhile
      fun f => decide (f.key ≠ 0)
def copymsOf (self : Nat) (b : List Byte) : List OutCopym :=
  ((List.range 4).map fun i =>
    let f := b.drop (32 * i)
    ({ order := fieldAt f 24 8, members := ((List.range 24).filter (bitOf (fieldAt f 0 8))).map fun m => 24 * (self / 24) + m,
       mailbox := fieldAt f 8 8, scope := fieldAt f 16 8 } : OutCopym)).takeWhile fun x => decide (x.mailbox ≠ 0)

/-- The thread of an image slot, whose bit in THREADS says whether it holds a firing. -/
def Thread.withSlot (t : Thread) (used : Bool) (im st : List Byte) : Thread :=
  if !used then (if t.status = .free then t else t.freed)
  else (if t.status = .free then { t with status := .running } else t).withImage im |>.withStream im st

/-- A virtual core with what its region holds: `b off n` gives n bytes of the region. -/
def VCore.withRegion (v : VCore) (b : Nat → Nat → List Byte) : VCore :=
  { v with
    mkeys := Vector.ofFn fun i : Fin 4 => wordAt (b 0xC0 32) (8 * i.val)
    table := tableOf (b 0xE0 4) (b 0x3E000 65536)
    frees := freesOf v.frees (b 0x100 1536)
    copyms := copymsOf v.id (b 0x700 128)
    deque := retask v.deque (b 0x2E000 (32 * v.onChip.length))
    stations := ((List.range v.stations.length).zip v.stations).map fun x =>
      { x.2 with recs := retask x.2.recs (b (0x36000 + 1024 * x.1) 1024) }
    acc := (List.range 256).foldl (fun a r => SMap.set AccRow.clear a r (rowOfRaw (b (0x4E000 + 3136 * r) 3136))) []
    dead := (List.range 960).filter fun p => !(mappedPages (b 0x40 128)).contains p
    threads := v.threads.map fun t =>
      (t.1, t.2.withSlot (bitOf (fieldAt (b 0 64) 7 1) t.1) (b (0x1000 + 12288 * t.1) 12288) (b (0x4D2000 + 20480 * t.1) 20480))
    parks := (((List.range v.parks.length).zip v.parks).filter fun x => bitOf (fieldAt (b 0 64) 16 1) x.1).map fun x =>
      { x.2 with thr := x.2.thr.withImage (b (0x1000 + 12288 * (8 + x.1)) 12288) } }

/-- A thread after the restore: one that stopped at a PPT continues after it. -/
def Thread.reload (t : Thread) : Thread := if t.status = .stopped then { t with status := .running } else t

/-- A virtual core as its region gives it, on a physical core. -/
def VCore.reload (v : VCore) (b : Nat → Nat → List Byte) (phys : Nat) : VCore :=
  let w := v.withRegion b
  { w with phys := phys, threads := w.threads.map fun t => (t.1, t.2.reload) }

/-- The window table that the region of virtual core 0 holds. -/
def Ctx.withWindows (c : Ctx) (b : Nat → Nat → List Byte) : Ctx :=
  { c with windows := Vector.ofFn fun i : Fin 16 => c.windows[i].withImage (b (0x25000 + 2176 * i.val) 2176) }

/-- Every deque gathered again (R325). -/
def State.gatherAll (s : State) : State := s.ctx.vcores.foldl (fun s v => s.changeDeque v.1 id) s

/-- CONTEXT_RESTORE: the saved context placed on the physical cores of the request. -/
def execContextRestore (s0 : State) : Out :=
  match s0.ctxAt s0.req.t.ctx with
  | none => declined s0
  | some c =>
    if c.killed || decide (c.preempt ≠ .saved) then declined s0
    else
      let s := (List.range c.nmax).foldl (fun s n => s.markRange (c.region n) 0x500000) (s0.focusCtx c.id)
      if !s.regionsOk then .next (s.kill c.id (reportOf .containment 2 c.id 0xFFFF 0 c.id s.now))
      else if s0.req.l1.length ≠ c.nmax || !s.coresFit c.part s0.req.l1 then declined s0
      else
        let vs := c.saved.zip s0.req.l1
        let s1 := s.rewriteViews (vs.map fun x => (x.1.id, x.2))
        let s2 := vs.foldl (fun s x => (s.loadSlice x.1 x.2).countAt x.2 1 0 (5 * 1024)) s1
        let s3 := { s2 with
          ctx := { s2.ctx.withWindows (s1.regionBytes 0) with
            saved := []
            preempt := .none
            vcores := vs.map fun (x : VCore × Nat) => (x.1.id, x.1.reload (s1.regionBytes x.1.id) x.2) }
          l2tlb := s2.l2tlb.filter fun e => decide (e.2.ctx ≠ c.id) }
        let s4 := ({ s3 with ctxs := SMap.put s3.ctxs c.id s3.ctx }).load { ctx := c.id, vc := 0, th := 0 }
        answered s4.gatherAll.release

/-! ## Parked threads (R381) -/

/-- A parked thread continued at the EPC and AEPC of its report. -/
def Thread.unpark (t : Thread) : Thread :=
  match t.status with
  | .parked r =>
    { t with status := .running, apc := BitVec.ofNat 64 (if r.stream = 1 then r.aepc else r.epc), waitA := .none, waitE := .none,
             watchPass := if r.cause = .watchpoint then t.watchPass ++ [r.fdetail + 4 * b2n (decide (r.stream = 1))] else t.watchPass }
  | _ => t

/-- A parked thread that is to continue while a pre-emption is pending has stopped where it is: it continues after the restore (R385). -/
def Thread.unparkStopped (t : Thread) : Thread := { t.unpark with status := .stopped }

def Thread.isParked (t : Thread) : Bool := match t.status with | .parked _ => true | _ => false

/-- A thread of a saved virtual core. -/
def VCore.unparkAt (v : VCore) (vc th : Nat) : VCore :=
  if v.id = vc then { v with threads := v.threads.map fun t => if t.1 = th then (t.1, t.2.unpark) else t } else v

/-- THREAD_RESUME: before or after a restore. -/
def execThreadResume (s0 : State) : Out :=
  match s0.ctxAt s0.req.t.ctx with
  | none => declined s0
  | some c =>
    if c.killed then declined s0
    else if c.preempt = .saved then
      if c.saved.any fun v => decide (v.id = s0.req.t.vc) && v.threads.any fun t => decide (t.1 = s0.req.t.th) && t.2.isParked then
        answered ((s0.focusCtx c.id).updCtx fun c => { c with saved := c.saved.map fun v => v.unparkAt s0.req.t.vc s0.req.t.th })
      else declined s0
    else
      let s := s0.focus s0.req.t
      if s.ctx.hasVc s.vc.id && s.thr.isParked then
        answered (s.updThr fun t => if s.ctx.preempt = .none then t.unpark else t.unparkStopped)
      else declined s0

/-- CONTEXT_KILL (R394). -/
def execContextKill (s0 : State) : Out :=
  match s0.ctxAt s0.req.t.ctx with
  | none => declined s0
  | some c => if c.killed then declined s0 else answered (s0.kill c.id (reportOf .contextKilled 2 c.id 0xFFFF 0 0 s0.now))

/-! ## The belfry (R389, R390) -/

/-- The state that a step of an engine leaves, or the same state where it stops on an address that does not exist. -/
def outState (s : State) (o : Out) : State := match o with | .next s1 => s1 | _ => s

/-- Every copy of a context completed, as far as its translations allow (R390). -/
def State.finishCopies (s : State) (c : Ctx) : State :=
  c.copies.foldl (fun s j =>
    match j.2.members with
    | none => outState s (s.runCopy c.id j.1)
    | some ms => ms.foldl (fun s v => outState s (s.runMember c.id j.1 v)) s) s

/-- The report of a thread that a STOP stops (R376: of no stream). -/
def State.haltReport (s : State) (c : Cause) : State :=
  if s.thr.status = .running then
    s.report { (s.trapReport false s.thr.apc ⟨c, 0, 0⟩ 1) with stream := 2 }
  else s

/-- A context of a stopped partition: its cores are told (R22), its copies completed, its stores performed, its MTILEs and RSTEPs stopped between
steps, its threads reported and frozen. -/
def State.haltCtx (s : State) (c : Cause) (x : Ctx) : State :=
  let s1 := ((s.finishCopies x).focusCtx x.id).toCores.flushCtx
  let s2 := s1.ctxTids.foldl (fun s t => (s.focus t).haltReport c) s1
  s2.stopJobs.updCtx fun y => { y with halted := true }

/-- The live contexts of a partition, killed ones apart. -/
def State.partCtxs (s : State) (n : Nat) : List Ctx :=
  (s.sync.ctxs.filter fun c => c.2.live && !c.2.killed && decide (c.2.part = n)).map Prod.snd

/-- The halt record of a core (R389). -/
def PCore.stop (c : PCore) : PCore := { c with halt := some { cycle := c.cycle, sent := c.sent, recv := c.recv } }

/-- The cores of a partition changed. -/
def State.onPartCores (s : State) (p : Part) (f : PCore → PCore) : State :=
  { s with cores := s.cores.map fun c => if p.hasDie (dieOf c.1) then (c.1, f c.2) else c }

/-- A STOP of a partition. -/
def State.stopPart (s : State) (n : Nat) (c : Cause) : Option State :=
  match s.parts[n]? with
  | some p =>
    if p.stopped.isSome then none
    else
      let s1 := ((s.partCtxs n).foldl (fun s x => s.haltCtx c x) s).focus s.tid
      some ({ s1 with parts := s1.parts.set n { p with stopped := some c }, stops := s1.stops ++ [n] }.onPartCores p PCore.stop)
  | none => none

/-- No copy of a partition's contexts is in flight. -/
def State.copiesDone (s : State) (n : Nat) : Bool := (s.partCtxs n).all fun c => c.copies.isEmpty

/-- The report that a partition has stopped, once every copy into it has completed (R390). -/
def State.reportStop (s : State) (n : Nat) : State :=
  if s.copiesDone n then { s with stops := s.stops.filter fun k => decide (k ≠ n) }.reply .done else s

/-- A STOP with a cause: the partition stops; one whose report is owed is reported when its copies have completed. -/
def stopWith (c : Cause) (s0 : State) : Out :=
  let n := s0.req.n
  if s0.stops.contains n then .next (s0.reportStop n)
  else match s0.stopPart n c with
    | some s => .next (s.reportStop n)
    | none => declined s0

/-- GANG_STOP of partition n. -/
def execGangStop (s0 : State) : Out := stopWith .gangStop s0

/-- DEBUG_HALT of partition n. -/
def execDebugHalt (s0 : State) : Out := stopWith .debugHalt s0

/-- BELFRY_RESUME of partition n, whose stop has been reported: its contexts go on, and what was held is delivered. -/
def execBelfryResume (s0 : State) : Out :=
  match s0.parts[s0.req.n]? with
  | none => declined s0
  | some p =>
    if (p.stopped ≠ some .gangStop && decide (p.stopped ≠ some .debugHalt)) || s0.stops.contains s0.req.n then declined s0
    else
      let s := s0.sync
      let s1 := { s with
        parts := s.parts.set s0.req.n { p with stopped := none }
        ctxs := s.ctxs.map fun (c : Nat × Ctx) => if c.2.part = s0.req.n then (c.1, { c.2 with halted := false }) else c }
      answered (s1.load s0.tid).release

end Sys2Proof.Machine
end

