-- ==== Sys2Proof/Machine/Hardware.lean ====
section
/-! DEFINITION. Bring-up (R33), the supply and the temperature (R31, R32), links (R26, R28), storage protection (R392, R393), uncorrectable
errors (R396) and accesses of host nodes (R27, R30). -/

namespace Sys2Proof.Machine

/-! ## Bring-up and clocks -/

/-- The enabled cores: those of the module that are not fused off (R2). -/
def enabledCores (fused : List Nat) : List Nat := (List.range 2304).filter fun c => !fused.contains c

/-- BRING_UP: the next step of R33. The firmware is started where its signature is good; the self-test marks the banks of the request; the enabled
core map is published and ctl.enabled set, and what was held is acted on. -/
def execBringUp (s0 : State) : Out :=
  match s0.phase with
  | .reset => .next (if Config.firmwareSigned then { s0 with phase := .started } else s0)
  | .started =>
    .next { s0 with phase := .tested, failedBanks := (s0.req.l1.zip s0.req.l2).filter fun x => decide (x.1 < 2304) && decide (x.2 < 16) }
  | .tested =>
    let cs := enabledCores s0.fused
    .next ({ s0 with phase := .up, cores := cs.map fun c => (c, PCore.fresh), enabled := BitVec.ofNat 64 cs.length }).release
  | .up => .next s0

/-- SUPPLY_DROOP: die n's clock is stretched (R31). -/
def execSupplyDroop (s0 : State) : Out :=
  if s0.req.n < 8 && !s0.stretched.contains s0.req.n then .next { s0 with stretched := s0.stretched ++ [s0.req.n] } else .next s0

/-- SUPPLY_RECOVERY: the stretch of die n ends. -/
def execSupplyRecovery (s0 : State) : Out := .next { s0 with stretched := s0.stretched.filter fun d => decide (d ≠ s0.req.n) }

/-- THERMAL_TRIP: die n crosses its trip point; its partition stops, and each of its contexts is killed (R32). -/
def execThermalTrip (s0 : State) : Out :=
  let d := s0.req.n
  if 8 ≤ d || s0.tripped.contains d then .next s0
  else
    let s := { s0 with tripped := s0.tripped ++ [d] }
    match s.partOf d with
    | none => .next s
    | some n =>
      let s1 := { s with parts := s.parts.modify n fun p => { p with stopped := some .thermalTrip } }
      .next ((s.partCtxs n).foldl (fun s c => s.kill c.id (reportOf .thermalTrip 2 c.id 0xFFFF 0 d s.now)) s1)

/-! ## Links -/

/-- The span port that a far address's traffic leaves through. -/
def State.spanOf (s : State) (pa : Nat) : Nat := Config.spanPort s.liveSpans (Config.farNode (paOf pa))

/-- A thread's stores on a failed span link: each is to be reported (R26, R141). -/
def Thread.linkLost (onLink : Nat → Bool) (port : Nat) (t : Thread) : Thread :=
  let lost := t.stores.filter fun p => isFar p.pa && onLink p.pa
  { t with
    stores := t.stores.filter fun p => !(isFar p.pa && onLink p.pa)
    storeErr := t.storeErr ++ lost.map fun p => p.late .spanLinkDown port }

/-- A page of a range of a context's addresses that its tables map to far memory behind a port: a view's by its backing blocks. -/
def State.farPage (s : State) (ws : List Window) (port va : Nat) : Bool :=
  let on := fun a => match s.walk a with
    | .leaf pte lv _ => isFar (leafAddr pte lv a) && decide (s.spanOf (leafAddr pte lv a) = port)
    | _ => false
  match findWindow ws va with
  | some w => decide (w.kind = 6) && (List.range ((65536 / (w.backing va).2) * (mxKind (w.par 2)).2.2.2 / 65536 + 2)).any fun k =>
      on ((w.backing (va / 65536 * 65536)).1 + 65536 * k)
  | none => on va
def State.farRange (s : State) (ws : List Window) (port : Nat) (r : Nat × Nat) : Bool :=
  decide (r.2 ≠ 0) && (List.range ((r.1 + r.2 - 1) / 65536 + 1 - r.1 / 65536)).any fun k =>
    s.farPage ws port (if k = 0 then r.1 else (r.1 / 65536 + k) * 65536)

/-- A copy that has begun and reaches a far page through the failed port fails: a page of its source, its destination or its completion word. -/
def State.copyLost (s : State) (port : Nat) (j : CopyJob) : CopyJob :=
  if j.pos ≠ 0 && (s.farRange j.windows port j.src.range || (j.members.isNone && s.farRange [] port j.dst.range) ||
      s.farRange [] port (j.word, if j.word = 0 then 0 else 8)) then
    { j with stop := some ⟨.spanLinkDown, 0, port⟩, suspended := false }
  else j

/-- The operations of a context on a failed span link. -/
def State.ctxLinkLost (s : State) (port : Nat) : State :=
  let f := Thread.linkLost (fun pa => decide (s.spanOf pa = port)) port
  let s1 := s.updCtx fun c => { c.mapVcs (VCore.mapThreads · f) with copies := c.copies.map fun j => (j.1, s.copyLost port j.2) }
  s1.onThreads f

/-- SPAN_LINK_DOWN: port n leaves the hash, and the operations on it fail (R26); the nodes of the request cannot be reached any more (R27). -/
def execSpanLinkDown (s0 : State) : Out :=
  if 24 ≤ s0.req.n || s0.spanDown.contains s0.req.n then .next s0
  else
    let s1 := (s0.sync.ctxs.foldl (fun s c => if c.2.live then ((s.focusCtx c.1).ctxLinkLost s0.req.n) else s) s0).focus s0.tid
    .next { s1 with spanDown := s1.spanDown ++ [s0.req.n], farLost := s1.farLost ++ s0.req.l1.filter fun n => !s1.farLost.contains n }

/-- POOL_LINK_DOWN: CXL port n fails; accesses interleaved on it fault until a partition reset (R28). -/
def execPoolLinkDown (s0 : State) : Out :=
  if 16 ≤ s0.req.n || s0.cxlDown.contains s0.req.n then .next s0 else .next { s0 with cxlDown := s0.cxlDown ++ [s0.req.n] }

/-- PARTITION_RESET of partition n: its contexts are gone, its belfry is released, and pool addresses are interleaved over the CXL ports
that live (R28). -/
def execPartitionReset (s0 : State) : Out :=
  match s0.parts[s0.req.n]? with
  | none => declined s0
  | some p =>
    let gone := (s0.sync.ctxs.filter fun c => c.2.live && decide (c.2.part = s0.req.n)).map Prod.fst
    let s1 := gone.foldl State.destroy s0
    answered
      { s1 with
        parts := s1.parts.set s0.req.n { p with stopped := none }
        stops := s1.stops.filter fun k => decide (k ≠ s0.req.n)
        tripped := s1.tripped.filter fun d => !p.hasDie d
        poolPorts := (List.range 16).filter fun x => !s1.cxlDown.contains x }

/-! ## Errors (R392, R393, R396) -/

/-- A word that can no longer be corrected, and one with a single bad symbol. -/
def State.spoil (s : State) (pa : Nat) : State :=
  let w := pa / 16 * 16
  if s.badWords.contains w then s else { s with badWords := s.badWords ++ [w], softWords := s.softWords.filter fun x => decide (x ≠ w) }
def State.soften (s : State) (pa : Nat) : State :=
  let w := pa / 16 * 16
  if s.hasFailed (w / 0x400000) then s.spoil w
  else if s.badWords.contains w || s.softWords.contains w then s
  else { s with softWords := s.softWords ++ [w] }

/-- A thread of a context that runs or waits, in focus. -/
def State.errThread (s : State) (t : Tid) : Option State :=
  let s1 := s.focus t
  if s1.ctx.live && !s1.ctx.killed && s1.ctx.hasVc s1.vc.id && decide (s1.thr.status ≠ .free) then some s1 else none

/-- An uncorrectable error of a core found by its thread in focus: logged, then taken under its disposition (R395, R396). -/
def State.raiseError (s : State) (k : ErrLog) (c : Cause) : State :=
  (s.logError k s.vc.phys 0 s.ctx.id true).takeTrap false ⟨c, 0, s.logIndex k s.vc.phys⟩

/-- The sequencer record of a running MTILE whose step met an error: STATE becomes 2 (R233). -/
def State.spoilTile (s : State) : State :=
  match s.thr.waitA, s.vc.tile with
  | .mtile, some j => (match s.writeSeq 60 (leBytes 1 2) j.addr with | .ok s1 => s1 | .error _ => s)
  | _, _ => s

/-- The oldest command of a thread in an array order that touches a row gets an error (R212). -/
def failCommand (t : Tid) (row : Nat) (e : LateErr) : List ArrayCmd → Option (List ArrayCmd)
  | [] => none
  | c :: rest =>
    if c.vcore = t.vc && decide (c.thread = t.th) && c.err.isNone && decide (c.first ≤ row) && decide (row < c.first + c.count) then
      some ({ c with err := some e } :: rest)
    else (failCommand t row e rest).map fun r => c :: r

/-- An accumulator error of virtual core `core` that the thread in focus meets: deferred in its command that touches the row, else raised at the
thread. -/
def State.accError (s : State) (core row col : Nat) : State :=
  match s.vcAt core with
  | none => s
  | some v =>
    let e : LateErr := ⟨.accUncorrectable, 0, s.logIndex .acc v.phys⟩
    let s1 := s.logError .acc v.phys (row * 2 ^ 16 + col) s.ctx.id true
    match failCommand s.tid row e v.outstanding with
    | some cs => s1.onVc core fun v => { v with outstanding := cs }
    | none => s1.spoilTile.takeTrap false ⟨.accUncorrectable, 0, e.fdetail⟩

/-- The log of a register file. -/
def regLog (vector : Bool) : ErrLog := if vector then .vregs else .sregs

/-- An accumulator word with an error that every read corrects. -/
def State.softenAcc (s : State) (x : Nat × Nat × Nat) : State := if s.softAccs.contains x then s else { s with softAccs := s.softAccs ++ [x] }

/-- A hardware error as it takes effect, whether it is real or injected (R393). -/
def State.hwError (s : State) (e : HwError) : State :=
  match e with
  | .sram pa => s.spoil pa
  | .corrected core addr => s.soften (core * 0x400000 + addr % 0x400000)
  | .correctedAcc core row col => s.softenAcc (core, row, col)
  | .correctedReg t vector =>
    (match s.errThread t with | some s1 => s1.logError (regLog vector) s1.vc.phys 0 s1.ctx.id false | none => s)
  | .acc t core row col => (match s.errThread t with | some s1 => s1.accError core row col | none => s)
  | .regfile t vector => (match s.errThread t with | some s1 => s1.raiseError (regLog vector) .regfileUncorrectable | none => s)
  | .machineCheck t => (match s.errThread t with | some s1 => s1.raiseError .slice .machineCheck | none => s)
  | .firmware ctx code =>
    (match s.ctxAt ctx with
      | some c => if c.killed then s else s.kill ctx (reportOf .firmwareError 2 ctx 0xFFFF 0 code s.now)
      | none => s)

/-- UNCORRECTABLE_ERROR (R396). -/
def execUncorrectableError (s0 : State) : Out := .next (s0.hwError s0.req.err)

/-- Whether an error lies in the state of a context and in its cores' slices (R375). -/
def Ctx.reaches (c : Ctx) (e : HwError) : Bool :=
  let own := fun p => c.vcores.any fun v => decide (v.2.phys = p)
  match e with
  | .sram pa => own (pa / 0x400000)
  | .corrected core _ => own core
  | .correctedAcc core _ _ => own core
  | .acc t _ _ _ => decide (t.ctx = c.id)
  | .regfile t _ => decide (t.ctx = c.id)
  | .machineCheck t => decide (t.ctx = c.id)
  | .correctedReg t _ => decide (t.ctx = c.id)
  | .firmware ctx _ => decide (ctx = c.id)

/-- ERROR_INJECTION: the request names a context and reaches only its state; the injected error is as a real one (R375, R393). -/
def execErrorInjection (s0 : State) : Out :=
  match s0.sync.ctxAt s0.req.t.ctx with
  | none => declined s0
  | some c => if c.reaches s0.req.err then answered (s0.hwError s0.req.err) else declined s0

/-- Words logged by a scrub, each with context 0xFF. -/
def State.scrubLog (s : State) (core : Nat) (unc : Bool) (ws : List Nat) : State :=
  ws.foldl (fun s w => s.logError .slice core w 0xFF unc) s

/-- SCRUB of core n: each correction of a word of its slice or of its accumulators is logged and made; firmware may declare storage array m failed
(R392). -/
def execScrub (s0 : State) : Out :=
  let n := s0.req.n
  if (SMap.find s0.cores n).isNone then .next s0
  else
    let soft := s0.softWords.filter fun w => decide (w / 0x400000 = n)
    let s1 := s0.scrubLog n false soft
    let accs := s1.softAccs.filter fun x => decide (x.1 = n)
    let s1 := accs.foldl (fun s x => s.logError .acc n (x.2.1 * 2 ^ 16 + x.2.2) 0xFF false) s1
    let s2 := { s1 with
      softWords := s1.softWords.filter fun w => decide (w / 0x400000 ≠ n)
      softAccs := s1.softAccs.filter fun x => decide (x.1 ≠ n) }
    let s3 := s2.scrubLog n true (s0.badWords.filter fun w => decide (w / 0x400000 = n))
    if s0.req.flag && decide (s0.req.m < 18) && !s3.failedArrays.contains (n, s0.req.m) then
      .next { s3 with failedArrays := s3.failedArrays ++ [(n, s0.req.m)] }
    else .next s3

/-! ## Accesses of host nodes (R27, R30) -/

/-- The bytes of an access. -/
def accRange : HostAcc → Nat × Nat
  | .read pa n => (pa, n)
  | .write pa bs => (pa, bs.length)
  | .atomicAdd pa _ => (pa, 8)

/-- A slice of a stopped partition, where what arrives from outside is held (R390). -/
def State.heldAt (s : State) (pa : Nat) : Bool :=
  decide (pa < 0x240000000) && s.parts.any fun p => p.stopped.isSome && p.hasDie (dieOf (pa / 0x400000))

/-- Bytes of the module written from outside at a bus address: dead pages that they reach live again (R384). -/
def State.writeOutside (s : State) (b : Nat) (bs : List Byte) : State :=
  let s1 := s.sync.writePhys b bs
  ({ s1 with ctxs := if b < 0x240000000 then s1.ctxs.map fun (c : Nat × Ctx) => (c.1, c.2.mapVcs fun v => v.undead b bs.length) else s1.ctxs }).load s.tid

/-- HOST_NODE_ACCESS: an access of a host node or another module, served on the module's memory: on the pool under the key slot that the request
names (log 52). -/
def execHostNodeAccess (s0 : State) : Out :=
  let (pa, n) := accRange s0.req.acc
  let b := busOf (s0.req.k % 1024) pa
  if !physExists pa || !physExists (pa + n - 1) then .fault (.physicalHole pa)
  else if isFar pa || isFar (pa + n - 1) || (s0.linkFails pa).isSome then declined s0
  else match s0.req.acc with
    | .read _ n => .next ((s0.servedAt false b).reply (.bytes (s0.busRead b n)))
    | .write _ bs => if s0.heldAt pa then .next (s0.hold .hostNodeAccess) else answered ((s0.writeOutside b bs).servedAt true b)
    | .atomicAdd _ x =>
      if pa % 8 ≠ 0 then declined s0
      else if s0.heldAt pa then .next (s0.hold .hostNodeAccess)
      else
        let old := leNat (s0.busRead b 8)
        .next (((s0.writeOutside b (leBytes 8 ((old + x.toNat) % 2 ^ 64))).servedAt false b).reply (.value old))

end Sys2Proof.Machine
end

