-- ==== Sys2Proof/Machine/Dispatch.lean ====
section
/-!
DEFINITION. The dispatch: one arm per constructor of Instr, each a direct call of its meaning.
The first arms are the instructions of the A and E streams; the last are the steps that the host, the engines and the
system make (spec/95), each with its data in State.req.
-/

namespace Sys2Proof.Machine

/-- What an instruction does in a state. -/
def exec (i : Instr) (s : State) : Host.Outcome State Fault Refusal :=
  match i with
  | .ialuAdd r => Sys2Proof.Machine.execIaluAdd r s
  | .ialuSub r => Sys2Proof.Machine.execIaluSub r s
  | .ialuAnd r => Sys2Proof.Machine.execIaluAnd r s
  | .ialuOr r => Sys2Proof.Machine.execIaluOr r s
  | .ialuXor r => Sys2Proof.Machine.execIaluXor r s
  | .ialuAndn r => Sys2Proof.Machine.execIaluAndn r s
  | .ialuShl r => Sys2Proof.Machine.execIaluShl r s
  | .ialuShr r => Sys2Proof.Machine.execIaluShr r s
  | .ialuSar r => Sys2Proof.Machine.execIaluSar r s
  | .ialuRotl r => Sys2Proof.Machine.execIaluRotl r s
  | .ialuMin r => Sys2Proof.Machine.execIaluMin r s
  | .ialuMax r => Sys2Proof.Machine.execIaluMax r s
  | .ialuMinn r => Sys2Proof.Machine.execIaluMinn r s
  | .ialuMaxn r => Sys2Proof.Machine.execIaluMaxn r s
  | .ialuAddsat r => Sys2Proof.Machine.execIaluAddsat r s
  | .ialuSubsat r => Sys2Proof.Machine.execIaluSubsat r s
  | .ialuiAdd imm => Sys2Proof.Machine.execIaluiAdd imm s
  | .ialuiSub imm => Sys2Proof.Machine.execIaluiSub imm s
  | .ialuiAnd imm => Sys2Proof.Machine.execIaluiAnd imm s
  | .ialuiOr imm => Sys2Proof.Machine.execIaluiOr imm s
  | .ialuiXor imm => Sys2Proof.Machine.execIaluiXor imm s
  | .ialuiAndn imm => Sys2Proof.Machine.execIaluiAndn imm s
  | .ialuiShl imm => Sys2Proof.Machine.execIaluiShl imm s
  | .ialuiShr imm => Sys2Proof.Machine.execIaluiShr imm s
  | .ialuiSar imm => Sys2Proof.Machine.execIaluiSar imm s
  | .ialuiRotl imm => Sys2Proof.Machine.execIaluiRotl imm s
  | .ialuiMin imm => Sys2Proof.Machine.execIaluiMin imm s
  | .ialuiMax imm => Sys2Proof.Machine.execIaluiMax imm s
  | .ialuiMinn imm => Sys2Proof.Machine.execIaluiMinn imm s
  | .ialuiMaxn imm => Sys2Proof.Machine.execIaluiMaxn imm s
  | .ialuiAddsat imm => Sys2Proof.Machine.execIaluiAddsat imm s
  | .ialuiSubsat imm => Sys2Proof.Machine.execIaluiSubsat imm s
  | .imulMul r => Sys2Proof.Machine.execImulMul r s
  | .imulMulhs r => Sys2Proof.Machine.execImulMulhs r s
  | .imulMulhn r => Sys2Proof.Machine.execImulMulhn r s
  | .imulMadd r => Sys2Proof.Machine.execImulMadd r s
  | .imulMsub r => Sys2Proof.Machine.execImulMsub r s
  | .imulDivs r => Sys2Proof.Machine.execImulDivs r s
  | .imulDivn r => Sys2Proof.Machine.execImulDivn r s
  | .imulRems r => Sys2Proof.Machine.execImulRems r s
  | .imulRemn r => Sys2Proof.Machine.execImulRemn r s
  | .icmp fn r => Sys2Proof.Machine.execIcmp fn r s
  | .icmpi fn imm => Sys2Proof.Machine.execIcmpi fn imm s
  | .bitsClz r => Sys2Proof.Machine.execBitsClz r s
  | .bitsCtz r => Sys2Proof.Machine.execBitsCtz r s
  | .bitsPopc r => Sys2Proof.Machine.execBitsPopc r s
  | .bitsBrev r => Sys2Proof.Machine.execBitsBrev r s
  | .bitsBswap r => Sys2Proof.Machine.execBitsBswap r s
  | .bitsSext r => Sys2Proof.Machine.execBitsSext r s
  | .bitsZext r => Sys2Proof.Machine.execBitsZext r s
  | .bitsBfx r => Sys2Proof.Machine.execBitsBfx r s
  | .bitsBfi r => Sys2Proof.Machine.execBitsBfi r s
  | .sel r => Sys2Proof.Machine.execSel r s
  | .liLi imm => Sys2Proof.Machine.execLiLi imm s
  | .liLih imm => Sys2Proof.Machine.execLiLih imm s
  | .liAddpc imm => Sys2Proof.Machine.execLiAddpc imm s
  | .li64 l => Sys2Proof.Machine.execLi64 l s
  | .laneLive r => Sys2Proof.Machine.execLaneLive r s
  | .laneLframe r => Sys2Proof.Machine.execLaneLframe r s
  | .laneLkey r => Sys2Proof.Machine.execLaneLkey r s
  | .laneLmask r => Sys2Proof.Machine.execLaneLmask r s
  | .laneVcore r => Sys2Proof.Machine.execLaneVcore r s
  | .laneThread r => Sys2Proof.Machine.execLaneThread r s
  | .br fn j => Sys2Proof.Machine.execBr fn j s
  | .jmpJmp j => Sys2Proof.Machine.execJmpJmp j s
  | .jmpCall j => Sys2Proof.Machine.execJmpCall j s
  | .jmpJmpr j => Sys2Proof.Machine.execJmpJmpr j s
  | .jmpCallr j => Sys2Proof.Machine.execJmpCallr j s
  | .jmpCalll j => Sys2Proof.Machine.execJmpCalll j s
  | .jmpRet j => Sys2Proof.Machine.execJmpRet j s
  | .ld fn m => Sys2Proof.Machine.execLd fn m s
  | .st fn m => Sys2Proof.Machine.execSt fn m s
  | .vlq fn m => Sys2Proof.Machine.execVlq fn m s
  | .vsq fn m => Sys2Proof.Machine.execVsq fn m s
  | .gathq fn m => Sys2Proof.Machine.execGathq fn m s
  | .scatq fn m => Sys2Proof.Machine.execScatq fn m s
  | .atomqAdd m => Sys2Proof.Machine.execAtomqAdd m s
  | .atomqAnd m => Sys2Proof.Machine.execAtomqAnd m s
  | .atomqOr m => Sys2Proof.Machine.execAtomqOr m s
  | .atomqXor m => Sys2Proof.Machine.execAtomqXor m s
  | .atomqMin m => Sys2Proof.Machine.execAtomqMin m s
  | .atomqMax m => Sys2Proof.Machine.execAtomqMax m s
  | .atomqMinn m => Sys2Proof.Machine.execAtomqMinn m s
  | .atomqMaxn m => Sys2Proof.Machine.execAtomqMaxn m s
  | .qopQpushs r => Sys2Proof.Machine.execQopQpushs r s
  | .qopQpops r => Sys2Proof.Machine.execQopQpops r s
  | .qopQcnt r => Sys2Proof.Machine.execQopQcnt r s
  | .qopXsync r => Sys2Proof.Machine.execQopXsync r s
  | .ctlCtlrd r => Sys2Proof.Machine.execCtlCtlrd r s
  | .ctlCtlwr r => Sys2Proof.Machine.execCtlCtlwr r s
  | .ctlCtlset r => Sys2Proof.Machine.execCtlCtlset r s
  | .ctlCtlclr r => Sys2Proof.Machine.execCtlCtlclr r s
  | .bind fn r => Sys2Proof.Machine.execBind fn r s
  | .bindImm fn x => Sys2Proof.Machine.execBindImm fn x s
  | .binde fn r => Sys2Proof.Machine.execBinde fn r s
  | .linkUnbind r => Sys2Proof.Machine.execLinkUnbind r s
  | .linkUnbindall r => Sys2Proof.Machine.execLinkUnbindall r s
  | .linkLinkrd r => Sys2Proof.Machine.execLinkLinkrd r s
  | .linkLinkstat r => Sys2Proof.Machine.execLinkLinkstat r s
  | .atomAdd r => Sys2Proof.Machine.execAtomAdd r s
  | .atomAnd r => Sys2Proof.Machine.execAtomAnd r s
  | .atomOr r => Sys2Proof.Machine.execAtomOr r s
  | .atomXor r => Sys2Proof.Machine.execAtomXor r s
  | .atomMin r => Sys2Proof.Machine.execAtomMin r s
  | .atomMax r => Sys2Proof.Machine.execAtomMax r s
  | .atomMinn r => Sys2Proof.Machine.execAtomMinn r s
  | .atomMaxn r => Sys2Proof.Machine.execAtomMaxn r s
  | .atomSwap r => Sys2Proof.Machine.execAtomSwap r s
  | .cas r => Sys2Proof.Machine.execCas r s
  | .fenceAcq r => Sys2Proof.Machine.execFenceAcq r s
  | .fenceRel r => Sys2Proof.Machine.execFenceRel r s
  | .fenceFull r => Sys2Proof.Machine.execFenceFull r s
  | .waitw fn r => Sys2Proof.Machine.execWaitw fn r s
  | .holdHand r => Sys2Proof.Machine.execHoldHand r s
  | .holdTake r => Sys2Proof.Machine.execHoldTake r s
  | .holdHoldq r => Sys2Proof.Machine.execHoldHoldq r s
  | .holdSeal r => Sys2Proof.Machine.execHoldSeal r s
  | .waitkWait r => Sys2Proof.Machine.execWaitkWait r s
  | .waitkTest r => Sys2Proof.Machine.execWaitkTest r s
  | .waitkClearerr r => Sys2Proof.Machine.execWaitkClearerr r s
  | .freeb r => Sys2Proof.Machine.execFreeb r s
  | .trapTrap r => Sys2Proof.Machine.execTrapTrap r s
  | .trapBrk r => Sys2Proof.Machine.execTrapBrk r s
  | .ppt imm => Sys2Proof.Machine.execPpt imm s
  | .gwGwset r => Sys2Proof.Machine.execGwGwset r s
  | .gwGwclr r => Sys2Proof.Machine.execGwGwclr r s
  | .gwGwver r => Sys2Proof.Machine.execGwGwver r s
  | .taskTail r => Sys2Proof.Machine.execTaskTail r s
  | .taskJoin r => Sys2Proof.Machine.execTaskJoin r s
  | .spawn fn x => Sys2Proof.Machine.execSpawn fn x s
  | .spawnq x => Sys2Proof.Machine.execSpawnq x s
  | .copy fn x => Sys2Proof.Machine.execCopy fn x s
  | .copym fn x => Sys2Proof.Machine.execCopym fn x s
  | .mxMclr r => Sys2Proof.Machine.execMxMclr r s
  | .mxMstat r => Sys2Proof.Machine.execMxMstat r s
  | .mloadw fn x => Sys2Proof.Machine.execMloadw fn x s
  | .mstream fn x => Sys2Proof.Machine.execMstream fn x s
  | .mread fn x => Sys2Proof.Machine.execMread fn x s
  | .maddraw x => Sys2Proof.Machine.execMaddraw x s
  | .mtile fn x => Sys2Proof.Machine.execMtile fn x s
  | .mcmd x => Sys2Proof.Machine.execMcmd x s
  | .rload fn x => Sys2Proof.Machine.execRload fn x s
  | .rstepSync x => Sys2Proof.Machine.execRstepSync x s
  | .rstepCheq x => Sys2Proof.Machine.execRstepCheq x s
  | .hpref fn m => Sys2Proof.Machine.execHpref fn m s
  | .hprio fn imm => Sys2Proof.Machine.execHprio fn imm s
  | .hgather fn r => Sys2Proof.Machine.execHgather fn r s
  | .hintNop h => Sys2Proof.Machine.execHintNop h s
  | .ldp fn m => Sys2Proof.Machine.execLdp fn m s
  | .mma8 fn r => Sys2Proof.Machine.execMma8 fn r s
  | .bindx fn r => Sys2Proof.Machine.execBindx fn r s
  | .vlde fn r => Sys2Proof.Machine.execVlde fn r s
  | .vste fn r => Sys2Proof.Machine.execVste fn r s
  | .vdotq fn r => Sys2Proof.Machine.execVdotq fn r s
  | .vbind fn r => Sys2Proof.Machine.execVbind fn r s
  | .vbinde fn r => Sys2Proof.Machine.execVbinde fn r s
  | .vlinkUnbind r => Sys2Proof.Machine.execVlinkUnbind r s
  | .vlinkUnbindall r => Sys2Proof.Machine.execVlinkUnbindall r s
  | .vlinkLinkrd r => Sys2Proof.Machine.execVlinkLinkrd r s
  | .vlinkLinkstat r => Sys2Proof.Machine.execVlinkLinkstat r s
  | .vialuAdd r => Sys2Proof.Machine.execVialuAdd r s
  | .vialuSub r => Sys2Proof.Machine.execVialuSub r s
  | .vialuAnd r => Sys2Proof.Machine.execVialuAnd r s
  | .vialuOr r => Sys2Proof.Machine.execVialuOr r s
  | .vialuXor r => Sys2Proof.Machine.execVialuXor r s
  | .vialuAndn r => Sys2Proof.Machine.execVialuAndn r s
  | .vialuShl r => Sys2Proof.Machine.execVialuShl r s
  | .vialuShr r => Sys2Proof.Machine.execVialuShr r s
  | .vialuSar r => Sys2Proof.Machine.execVialuSar r s
  | .vialuMin r => Sys2Proof.Machine.execVialuMin r s
  | .vialuMax r => Sys2Proof.Machine.execVialuMax r s
  | .vialuMinn r => Sys2Proof.Machine.execVialuMinn r s
  | .vialuMaxn r => Sys2Proof.Machine.execVialuMaxn r s
  | .vialuAddsat r => Sys2Proof.Machine.execVialuAddsat r s
  | .vialuSubsat r => Sys2Proof.Machine.execVialuSubsat r s
  | .vialuImm fn x => Sys2Proof.Machine.execVialuImm fn x s
  | .vimulMul r => Sys2Proof.Machine.execVimulMul r s
  | .vimulMulhs r => Sys2Proof.Machine.execVimulMulhs r s
  | .vimulMulhn r => Sys2Proof.Machine.execVimulMulhn r s
  | .vimulMadd r => Sys2Proof.Machine.execVimulMadd r s
  | .vimulDot4 r => Sys2Proof.Machine.execVimulDot4 r s
  | .vimulDot2 r => Sys2Proof.Machine.execVimulDot2 r s
  | .vicmp fn r => Sys2Proof.Machine.execVicmp fn r s
  | .vfaluAdd r => Sys2Proof.Machine.execVfaluAdd r s
  | .vfaluSub r => Sys2Proof.Machine.execVfaluSub r s
  | .vfaluMul r => Sys2Proof.Machine.execVfaluMul r s
  | .vfaluMin r => Sys2Proof.Machine.execVfaluMin r s
  | .vfaluMax r => Sys2Proof.Machine.execVfaluMax r s
  | .vfaluAbs r => Sys2Proof.Machine.execVfaluAbs r s
  | .vfaluNeg r => Sys2Proof.Machine.execVfaluNeg r s
  | .vfaluCpsgn r => Sys2Proof.Machine.execVfaluCpsgn r s
  | .vfaluImm fn x => Sys2Proof.Machine.execVfaluImm fn x s
  | .vfmaFma r => Sys2Proof.Machine.execVfmaFma r s
  | .vfmaFms r => Sys2Proof.Machine.execVfmaFms r s
  | .vfmaFnma r => Sys2Proof.Machine.execVfmaFnma r s
  | .vfmaFnms r => Sys2Proof.Machine.execVfmaFnms r s
  | .vfmaImm fn x => Sys2Proof.Machine.execVfmaImm fn x s
  | .vfuncDiv r => Sys2Proof.Machine.execVfuncDiv r s
  | .vfuncSqrt r => Sys2Proof.Machine.execVfuncSqrt r s
  | .vfuncRcp r => Sys2Proof.Machine.execVfuncRcp r s
  | .vfuncRsqrt r => Sys2Proof.Machine.execVfuncRsqrt r s
  | .vfuncExp2 r => Sys2Proof.Machine.execVfuncExp2 r s
  | .vfuncLog2 r => Sys2Proof.Machine.execVfuncLog2 r s
  | .vfcmp fn r => Sys2Proof.Machine.execVfcmp fn r s
  | .vcvt fn r => Sys2Proof.Machine.execVcvt fn r s
  | .vmxMxq r => Sys2Proof.Machine.execVmxMxq r s
  | .vmxPlane r => Sys2Proof.Machine.execVmxPlane r s
  | .vmxUnplane r => Sys2Proof.Machine.execVmxUnplane r s
  | .vmxMxdq r => Sys2Proof.Machine.execVmxMxdq r s
  | .vmaskMand r => Sys2Proof.Machine.execVmaskMand r s
  | .vmaskMor r => Sys2Proof.Machine.execVmaskMor r s
  | .vmaskMxor r => Sys2Proof.Machine.execVmaskMxor r s
  | .vmaskMandn r => Sys2Proof.Machine.execVmaskMandn r s
  | .vmaskMnot r => Sys2Proof.Machine.execVmaskMnot r s
  | .vmaskMpopc r => Sys2Proof.Machine.execVmaskMpopc r s
  | .vmaskMfirst r => Sys2Proof.Machine.execVmaskMfirst r s
  | .vmaskMset r => Sys2Proof.Machine.execVmaskMset r s
  | .vpermShuf r => Sys2Proof.Machine.execVpermShuf r s
  | .vpermSlideup r => Sys2Proof.Machine.execVpermSlideup r s
  | .vpermSlidedn r => Sys2Proof.Machine.execVpermSlidedn r s
  | .vpermBcast r => Sys2Proof.Machine.execVpermBcast r s
  | .vpermRev r => Sys2Proof.Machine.execVpermRev r s
  | .vpermZiplo r => Sys2Proof.Machine.execVpermZiplo r s
  | .vpermZiphi r => Sys2Proof.Machine.execVpermZiphi r s
  | .vpermIota r => Sys2Proof.Machine.execVpermIota r s
  | .vredIadd r => Sys2Proof.Machine.execVredIadd r s
  | .vredImin r => Sys2Proof.Machine.execVredImin r s
  | .vredImax r => Sys2Proof.Machine.execVredImax r s
  | .vredIand r => Sys2Proof.Machine.execVredIand r s
  | .vredIor r => Sys2Proof.Machine.execVredIor r s
  | .vredFadd r => Sys2Proof.Machine.execVredFadd r s
  | .vredFmax r => Sys2Proof.Machine.execVredFmax r s
  | .vredFmin r => Sys2Proof.Machine.execVredFmin r s
  | .vmovMov r => Sys2Proof.Machine.execVmovMov r s
  | .vmovSel r => Sys2Proof.Machine.execVmovSel r s
  | .vmovQpush r => Sys2Proof.Machine.execVmovQpush r s
  | .vmovQpop r => Sys2Proof.Machine.execVmovQpop r s
  | .xaccXacc r => Sys2Proof.Machine.execXaccXacc r s
  | .xaccXacci r => Sys2Proof.Machine.execXaccXacci r s
  | .xaccXrnd r => Sys2Proof.Machine.execXaccXrnd r s
  | .nop => Sys2Proof.Machine.execNop s
  | .enop => Sys2Proof.Machine.execEnop s
  | .trapResume => Sys2Proof.Machine.execTrapResume s
  | .taskDone => Sys2Proof.Machine.execTaskDone s
  | .taskYield => Sys2Proof.Machine.execTaskYield s
  | .mxMbegin => Sys2Proof.Machine.execMxMbegin s
  | .mxMend => Sys2Proof.Machine.execMxMend s
  | .mxMwait => Sys2Proof.Machine.execMxMwait s
  | .waitwWake => Sys2Proof.Machine.execWaitwWake s
  | .handoverArrival => Sys2Proof.Machine.execHandoverArrival s
  | .copyComplete => Sys2Proof.Machine.execCopyComplete s
  | .copyFailed => Sys2Proof.Machine.execCopyFailed s
  | .multicastDelivery => Sys2Proof.Machine.execMulticastDelivery s
  | .multicastAllFreed => Sys2Proof.Machine.execMulticastAllFreed s
  | .mtileStep => Sys2Proof.Machine.execMtileStep s
  | .mcmdArrival => Sys2Proof.Machine.execMcmdArrival s
  | .hprioBoostEnd => Sys2Proof.Machine.execHprioBoostEnd s
  | .streamDeadlock => Sys2Proof.Machine.execStreamDeadlock s
  | .parkedStoreReplay => Sys2Proof.Machine.execParkedStoreReplay s
  | .tlbWalk => Sys2Proof.Machine.execTlbWalk s
  | .launchKick => Sys2Proof.Machine.execLaunchKick s
  | .launchPacket => Sys2Proof.Machine.execLaunchPacket s
  | .loadrefPacket => Sys2Proof.Machine.execLoadrefPacket s
  | .unloadPacket => Sys2Proof.Machine.execUnloadPacket s
  | .unloadTakesEffect => Sys2Proof.Machine.execUnloadTakesEffect s
  | .markerPacket => Sys2Proof.Machine.execMarkerPacket s
  | .markerComplete => Sys2Proof.Machine.execMarkerComplete s
  | .serialLaunchStart => Sys2Proof.Machine.execSerialLaunchStart s
  | .objectLoad => Sys2Proof.Machine.execObjectLoad s
  | .stationFire => Sys2Proof.Machine.execStationFire s
  | .gatherLimitExpiry => Sys2Proof.Machine.execGatherLimitExpiry s
  | .parkedFiringResume => Sys2Proof.Machine.execParkedFiringResume s
  | .lookForWork => Sys2Proof.Machine.execLookForWork s
  | .preempt => Sys2Proof.Machine.execPreempt s
  | .contextSave => Sys2Proof.Machine.execContextSave s
  | .watchdogStopExpiry => Sys2Proof.Machine.execWatchdogStopExpiry s
  | .watchdogSaveExpiry => Sys2Proof.Machine.execWatchdogSaveExpiry s
  | .contextRestore => Sys2Proof.Machine.execContextRestore s
  | .threadResume => Sys2Proof.Machine.execThreadResume s
  | .contextKill => Sys2Proof.Machine.execContextKill s
  | .contextCreate => Sys2Proof.Machine.execContextCreate s
  | .contextDestroy => Sys2Proof.Machine.execContextDestroy s
  | .holdingAdd => Sys2Proof.Machine.execHoldingAdd s
  | .hostHandover => Sys2Proof.Machine.execHostHandover s
  | .shootdown => Sys2Proof.Machine.execShootdown s
  | .attest => Sys2Proof.Machine.execAttest s
  | .loadKey => Sys2Proof.Machine.execLoadKey s
  | .unloadKey => Sys2Proof.Machine.execUnloadKey s
  | .gangStop => Sys2Proof.Machine.execGangStop s
  | .debugHalt => Sys2Proof.Machine.execDebugHalt s
  | .belfryResume => Sys2Proof.Machine.execBelfryResume s
  | .debugAccess => Sys2Proof.Machine.execDebugAccess s
  | .errorInjection => Sys2Proof.Machine.execErrorInjection s
  | .partitionConfig => Sys2Proof.Machine.execPartitionConfig s
  | .bringUp => Sys2Proof.Machine.execBringUp s
  | .supplyDroop => Sys2Proof.Machine.execSupplyDroop s
  | .thermalTrip => Sys2Proof.Machine.execThermalTrip s
  | .spanLinkDown => Sys2Proof.Machine.execSpanLinkDown s
  | .poolLinkDown => Sys2Proof.Machine.execPoolLinkDown s
  | .scrub => Sys2Proof.Machine.execScrub s
  | .uncorrectableError => Sys2Proof.Machine.execUncorrectableError s
  | .arrayCommandCompletion => Sys2Proof.Machine.execArrayCommandCompletion s
  | .generationBoundary => Sys2Proof.Machine.execGenerationBoundary s
  | .storePerformed => Sys2Proof.Machine.execStorePerformed s
  | .queueEntryReadable => Sys2Proof.Machine.execQueueEntryReadable s
  | .copyContinues => Sys2Proof.Machine.execCopyContinues s
  | .supplyRecovery => Sys2Proof.Machine.execSupplyRecovery s
  | .partitionReset => Sys2Proof.Machine.execPartitionReset s
  | .hostNodeAccess => Sys2Proof.Machine.execHostNodeAccess s

end Sys2Proof.Machine
end

