-- ==== Sys2Proof/Machine/Sched.lean ====
section
/-! DEFINITION. The next move of the machine: the issue of a stream of a thread (R10, R41), a step of the table that the agenda names, and,
where the agenda is empty, the model's own policy: R332 among the threads of a core, and what the engines have to do (log 40). -/

namespace Sys2Proof.Machine

/-! ## Issue -/

/-- The rows of the table that are no instructions of a stream. -/
def Instr.isEvent (i : Instr) : Bool := (encode i).isEmpty

/-- The instruction that the A-stream of the thread in focus waits at is in the hands of an engine: a running MTILE or RSTEP, or one that has stopped
while its context does not go on (R233, R350). -/
def State.inJob (s : State) : Bool :=
  (decide (s.thr.waitA = .mtile) && ((s.vc.tile.any fun j => decide (j.thread = s.thr.id)) || !s.ctx.goesOn)) ||
  (decide (s.thr.waitA = .rstep) && ((s.vc.rule.any fun j => decide (j.thread = s.thr.id)) || !s.ctx.goesOn))

/-- A stop of a fetch at the A position. -/
def State.fetchStopA (s : State) (e : Stop) : Out := finishTo s (.error e)

/-- The A position passes an instruction of the E-stream. -/
def State.passA (s : State) (len : Nat) : Out := .next (s.updThr fun t => t.pass len ((s.codeBytes t.apc).getD []))

/-- What a fetch at the A position finds is executed, or joins the path of the E-stream. -/
def State.execA (s : State) : Fetched → Out
  | .pad => .next (s.updThr Thread.passPad)
  | .instr i len e => if e then s.passA len else exec i s
  | .bad t len e => if e then s.passA len else .next (s.trapA t)
  | .stop e => s.fetchStopA e

/-- What stands at a position of the E-stream's path that a RESUME has restarted is fetched (R41): its bytes are kept; a fetch fault is taken once the
E-stream has executed what is older. -/
def State.fetchPath (s : State) (pos : W64) : Out :=
  let oldest := decide (s.thr.ePath.head? = some pos)
  match s.fetchAt pos with
  | .stop (.wait w) => .next (s.updThr fun t => { t with waitA := w })
  | .stop (.trap i) => .next (if oldest then s.trapPath pos i else s.updThr fun t => { t with waitA := .other })
  | .stop (.trapIn s1 i) => .next (if oldest then s1.trapPath pos i else s.updThr fun t => { t with waitA := .other })
  | .stop (.fault f) => .fault f
  | _ => .next (s.updThr fun t => { t with eWords := SMap.put t.eWords pos.toNat ((s.codeBytes pos).getD []), waitA := .none })

/-- The A-stream's own instruction: one that has been issued and only waits goes on; else what stands at the A position is fetched. -/
def State.issueOwn (s : State) : Out :=
  if s.thr.waitA.settled then (match s.instrAt s.thr.apc with | some (i, _) => exec i s | none => .next s)
  else s.execA (s.fetchAt s.thr.apc)

/-- The A-stream of the thread in focus: after a RESUME the E-stream's path is fetched first (R41, R380). -/
def State.issueA (s : State) : Out :=
  if s.inJob then .next s
  else match s.thr.unfetched with
    | some pos => s.fetchPath pos
    | none => s.issueOwn

/-- The oldest instruction of the path passed by the E-stream without an issue. -/
def Thread.skipE (t : Thread) : Thread := { t with ePath := t.ePath.drop 1, waitE := .none }

/-- What stands at the E position is executed; what is no instruction of the E-stream any more is passed, and counts as no issue. -/
def State.execE (s : State) (pos : W64) : Fetched → Out
  | .instr i _ true => exec i s
  | .bad t _ true => .next (s.takeTrap true t)
  | .stop (.wait w) => .next (s.updThr fun t => { t with waitE := w })
  | .stop (.trap t) => .next (s.trapPath pos t)
  | .stop (.trapIn s1 t) => .next (s1.trapPath pos t)
  | .stop (.fault f) => .fault f
  | _ => .next (s.updThr Thread.skipE)

/-- An instruction of the path: as it was fetched when the A-stream passed it (R41). -/
def State.runE (s : State) (pos : W64) : Out :=
  s.execE pos (match SMap.find s.thr.eWords pos.toNat with | some bs => fetchedOf pos bs | none => s.fetchAt pos)

/-- The E-stream ahead of a waiting A-stream instruction (R10): only an instruction of the E-stream that follows directly issues. -/
def State.aheadE (s : State) (pos : W64) : Out :=
  match s.fetchAt pos with
  | .pad => .next (s.updThr fun t => { t with eNext := padNext pos })
  | .instr i _ true => exec i (s.updThr fun t => { t with eNext := pos })
  | .bad t _ true => .next ((s.updThr fun t => { t with eNext := pos }).takeTrap true t)
  | .stop (.wait w) => .next (s.updThr fun t => { t with waitE := w })
  | _ => .next s

/-- The E-stream of the thread in focus: the oldest instruction of its path. -/
def State.issueE (s : State) : Out :=
  match s.thr.ePath with
  | pos :: _ => s.runE pos
  | [] => match s.aheadPos with
    | some pos => s.aheadE pos
    | none => .next s

/-! ## Moves -/

/-- A move of an agent. A thread that does not run issues nothing. -/
def State.make (s : State) (m : Move) : Out :=
  match m with
  | .event i r => if Instr.isEvent i then exec i { s with req := r } else .next s
  | .run t estream =>
    let s1 := s.focus t
    if s1.ctx.runs && s1.ctx.hasVc s1.vc.id && decide (s1.thr.status = .running) then (if estream then s1.issueE else s1.issueA) else .next s

/-! ## The model's policy: issue (R332) -/

/-- Where a thread of the module stands. -/
def State.places (s : State) : List (Tid × Thread) :=
  (s.ctxs.filter fun c => c.2.runs).map (fun c =>
    (c.2.vcores.map fun v => v.2.threads.map fun t => (({ ctx := c.1, vc := v.1, th := t.1 } : Tid), t.2)).flatten) |>.flatten

/-- The waits that the engines end, and no attempt. -/
def Wait.byEngine : Wait → Bool
  | .word => true
  | .tlb _ _ => true
  | _ => false

/-- The wait of a stream of a thread. -/
def Thread.waitOf (t : Thread) (estream : Bool) : Wait := if estream then t.waitE else t.waitA

/-- A stream of the thread in focus may be attempted: its thread runs, and no engine has what it waits for. -/
def State.tries (s : State) (estream : Bool) : Bool :=
  decide (s.thr.status = .running) && !(s.thr.waitOf estream).byEngine && (if estream then s.eReady else !s.inJob)

/-- The thread in focus after an attempt of a stream; none where the machine stops. -/
def State.attempt (s : State) (estream : Bool) : Option Thread :=
  match (if estream then s.issueE else s.issueA) with
  | .next s1 => some s1.thr
  | _ => none

/-- The waits in which an instruction has been issued and is going on. -/
def Wait.started (w : Wait) : Bool := w.settled || decide (w = .rstep) || decide (w = .mtile)

/-- An attempt has issued an instruction: it leaves no wait, or one in which the instruction goes on. -/
def Thread.issued (t u : Thread) (estream : Bool) : Bool :=
  decide (u ≠ t) && (decide (u.waitOf estream = .none) || ((u.waitOf estream).started && decide (u.waitOf estream ≠ t.waitOf estream)))

/-- A stream of the thread in focus has a ready instruction: one that an attempt issues, also where it has waited so far (R10, R332). -/
def State.ready (s : State) (estream : Bool) : Bool :=
  s.tries estream && (match s.attempt estream with | some u => s.thr.issued u estream | none => true)
def State.readyA (s : State) : Bool := s.ready false
def State.readyE (s : State) : Bool := s.ready true

/-- A stream of the thread in focus has no ready instruction, and an attempt of it notes what it waits for. -/
def State.polls (s : State) (estream : Bool) : Bool :=
  s.tries estream && (match s.attempt estream with | some u => decide (u ≠ s.thr) && !s.thr.issued u estream | none => false)
def State.pollA (s : State) : Bool := s.polls false
def State.pollE (s : State) : Bool := s.polls true

/-- The issue priority of R332. -/
def issuePrio (prio h aged agesh : Nat) : Nat := min 7 (prio + h + aged / 2 ^ agesh)

/-- What a stream's choice looks at: the thread, its priority, and when the stream last issued for it. -/
structure Candidate where
  tid : Tid
  prio : Nat
  last : Nat
  deriving DecidableEq, Repr

/-- The higher priority, and among equals the stream that issued least recently. -/
def Candidate.better (a b : Candidate) : Bool := decide (b.prio < a.prio) || (decide (a.prio = b.prio) && decide (a.last ≤ b.last))

def bestOf : List Candidate → Option Candidate
  | [] => none
  | c :: rest => match bestOf rest with
    | some d => if c.better d then some c else some d
    | none => some c

/-- The candidates of a stream on the core in focus: the threads that meet a condition when they are in focus. -/
def State.candidates (s : State) (estream : Bool) (p : State → Bool) : List Candidate :=
  (s.vc.threads.filter fun t => p (s.focus { s.tid with th := t.1 })).map fun t =>
    { tid := { s.tid with th := t.1 }
      prio := issuePrio (s.prioOf t.2.launch) (if estream then 0 else b2n (decide (2 ≤ t.2.hprio))) (if estream then t.2.agedE else t.2.agedA)
        s.ctx.agesh.toNat
      last := if estream then t.2.lastE else t.2.lastA }

def State.pickIssue (s : State) (estream : Bool) (p : State → Bool) : Option Move :=
  (bestOf (s.candidates estream p)).map fun c => .run c.tid estream

/-! ## The model's policy: the engines -/

/-- A request that names a thread and a number. -/
def reqOf (t : Tid) (n : Nat) : Req := { Req.zero with t := t, n := n, flag := true }

/-- What the engines may do for a thread. -/
def threadMoves (t : Tid) (x : Thread) : List Move :=
  (match x.waitA with | .tlb va k => [Move.event .tlbWalk { reqOf t va with kind := k }] | _ => []) ++
  (match x.waitE with | .tlb va k => [Move.event .tlbWalk { reqOf t va with kind := k }] | _ => []) ++
  (if x.stores.isEmpty then [] else [Move.event .storePerformed (reqOf t 0)]) ++
  ((List.range x.replay.length).map fun n => Move.event .parkedStoreReplay (reqOf t n)) ++
  ((List.range 8).filter (fun q => (x.getQ q).any fun e => !e.ready)).map (fun q => Move.event .queueEntryReadable (reqOf t q)) ++
  (match x.waitA with
    | .word => [Move.event .waitwWake (reqOf t 0)]
    | .mtile => [Move.event .mtileStep (reqOf t 0)]
    | .rstep => [Move.event .generationBoundary (reqOf t 0)]
    | .pop _ | .push _ | .popFirst _ | .held _ _ | .estream => [Move.event .streamDeadlock (reqOf t 0)]
    | _ => []) ++
  (if x.hprio = 1 then [Move.event .hprioBoostEnd (reqOf t 0)] else [])

/-- What the engines may do for a virtual core. -/
def coreMoves (c : Ctx) (v : VCore) : List Move :=
  let t : Tid := { ctx := c.id, vc := v.id, th := 0 }
  let free := threadNums.find? fun n => decide ((SMap.get (Thread.fresh n) v.threads n).status = .free)
  (if v.outstanding.isEmpty then [] else [Move.event .arrayCommandCompletion (reqOf t 0)]) ++
  (match free with
    | some n =>
      ((List.range v.stations.length).filter fun i => !((v.stations[i]?.map Station.recs).getD []).isEmpty).map
        (fun i => Move.event .stationFire (reqOf { t with th := n } i)) ++
      ((List.range v.parks.length).map fun i => Move.event .parkedFiringResume (reqOf { t with th := n } i)) ++
      (if c.queued.any fun e => !e.2.isEmpty then [Move.event .lookForWork (reqOf t v.id)] else []) ++
      (c.vcores.filter fun w => !w.2.deque.isEmpty).map (fun w => Move.event .lookForWork (reqOf t w.1))
    | none => []) ++
  v.copyms.map (fun x => Move.event .multicastAllFreed (reqOf t x.order)) ++
  (v.threads.map fun x => threadMoves { t with th := x.1 } x.2).flatten

/-- What the engines may do for a context. -/
def ctxMoves (c : Ctx) : List Move :=
  let t : Tid := { ctx := c.id, vc := 0, th := 0 }
  (c.vcores.map fun v => coreMoves c v.2).flatten ++
  ((List.range c.handovers.length).map fun n => Move.event .handoverArrival (reqOf t n)) ++
  ((List.range c.mcmds.length).map fun n => Move.event .mcmdArrival (reqOf t n)) ++
  (c.copies.map fun j =>
    (if j.2.stop.isSome && !j.2.suspended then [Move.event .copyFailed (reqOf t j.1)] else []) ++
    (match j.2.members with
      | some ms => ms.map fun v => Move.event .multicastDelivery (reqOf { t with vc := v } j.1)
      | none => [Move.event .copyComplete (reqOf t j.1)])).flatten ++
  (match c.preempt with | .pending _ => [Move.event .contextSave (reqOf t 0), Move.event .watchdogStopExpiry (reqOf t 0)] | _ => [])

/-- What the launch unit may do for a queue. -/
def queueMoves (q : Nat) (x : LQueue) : List Move :=
  ([Instr.launchPacket, .loadrefPacket, .unloadPacket, .markerPacket] ++
    (if x.waits.isEmpty then [] else [Instr.unloadTakesEffect, .markerComplete, .serialLaunchStart])).map fun i =>
    Move.event i { Req.zero with m := q }

/-- The blocks that firmware is to map, each kicked again with a slot that it may have (R309). -/
def State.mapMoves (s : State) : List Move :=
  match (List.range 128).find? fun q => decide (!s.pendingBlocks.isEmpty) && s.slotIdle q with
  | some q => s.pendingBlocks.map fun b => Move.event .launchKick { Req.zero with t := { ctx := b.1, vc := 0, th := 0 }, k := b.2, m := q }
  | none => []

/-- The stops whose reports are owed, each tried again (R390). -/
def State.stopMoves (s : State) : List Move :=
  s.stops.map fun n =>
    .event (if (s.parts[n]?).any fun p => decide (p.stopped = some .debugHalt) then .debugHalt else .gangStop) { Req.zero with n := n }

/-- Everything that the engines may do. -/
def State.engineMoves (s : State) : List Move :=
  ((s.ctxs.filter fun c => c.2.live).map fun c => ctxMoves c.2).flatten ++ (s.queues.map fun q => queueMoves q.1 q.2).flatten ++ s.mapMoves ++
    s.stopMoves

/-- A list from its place n on, and then its beginning. -/
def rotate {α : Type} (n : Nat) (xs : List α) : List α := xs.drop (n % xs.length) ++ xs.take (n % xs.length)

/-- A move that changes something but the focus. -/
def State.effective (s : State) (m : Move) : Bool :=
  match s.make m with
  | .next s1 => decide ({ s1.focus s.tid with req := s.req } ≠ s)
  | _ => true

/-- The first effective move of an engine, each in its turn. -/
def State.pickEngine (s : State) : Option Move := (rotate s.clock s.engineMoves).find? s.effective

/-! ## The model's policy: whose turn it is -/

/-- The core after the one in focus that has a thread, each in its turn. -/
def State.nextCore (s : State) : State :=
  let cs := ((s.places.map fun p => ({ p.1 with th := 0 } : Tid)).eraseDups).filter fun t => decide (t ≠ { s.tid with th := 0 })
  match (cs.find? fun t => decide (s.ctx.id < t.ctx) || (decide (s.ctx.id = t.ctx) && decide (s.vc.id < t.vc))).or cs.head? with
  | some t => s.focus t
  | none => s

/-- The turns of a core: each stream's issue (R332), an engine, and the attempts of streams that have nothing ready. -/
def State.turn (s : State) (k : Nat) : Option Move :=
  match k % 5 with
  | 0 => s.pickIssue false State.readyA
  | 1 => s.pickIssue true State.readyE
  | 2 => s.pickEngine
  | 3 => s.pickIssue false State.pollA
  | _ => s.pickIssue true State.pollE

/-- The move of the core in focus: the turns are tried in order from the clock's on. -/
def State.moveHere (s : State) : Option Move := (List.range 5).findSome? fun i => s.turn (s.clock + i)

/-- The move that the policy chooses, and the state that makes it; none where nothing is to be done. Every sixth turn is the next core's. -/
def State.policy (s0 : State) : State × Option Move :=
  let s := s0.sync
  let s1 := if s.clock % 6 = 5 then s.nextCore else s
  match s1.moveHere with
  | some m => (s1, some m)
  | none => let s2 := s1.nextCore; (s2, s2.moveHere)

/-- The next move: BRING_UP after a reset; from its first step on, the agenda's first, else the next step of the bring-up (R33), else the policy's. -/
def State.choose (s : State) : State × Option Move :=
  match s.phase, s.agenda with
  | .reset, _ => (s, some (.event .bringUp s.req))
  | _, m :: rest => ({ s with agenda := rest }, some m)
  | .up, [] => s.policy
  | _, [] => (s, some (.event .bringUp s.req))

/-! ## Time -/

/-- One cycle of a thread: a stream with a ready instruction ages (R332). -/
def Thread.age (t : Thread) (readyA readyE : Bool) : Thread :=
  { t with agedA := if readyA then t.agedA + 1 else t.agedA, agedE := if readyE then t.agedE + 1 else t.agedE }

/-- The running threads with what is ready of their streams. -/
def State.readiness (s : State) : List (Tid × Bool × Bool) :=
  (s.sync.places.filter fun p => decide (p.2.status = .running)).map fun p => (p.1, (s.focus p.1).readyA, (s.focus p.1).readyE)

/-- A thread, named, after a cycle. -/
def aged (rs : List (Tid × Bool × Bool)) (c v n : Nat) (t : Thread) : Thread :=
  match rs.find? fun x => decide (x.1 = { ctx := c, vc := v, th := n }) with
  | some x => t.age x.2.1 x.2.2
  | none => t
def VCore.aged (rs : List (Tid × Bool × Bool)) (c : Nat) (v : VCore) : VCore :=
  { v with threads := v.threads.map fun t => (t.1, Machine.aged rs c v.id t.1 t.2) }
def Ctx.aged (rs : List (Tid × Bool × Bool)) (c : Ctx) : Ctx := c.mapVcs (VCore.aged rs c.id)

/-- One cycle: ctl.cycle of every core whose clock runs advances (R31, R34). DESIGN CHOICE (log 7): R3 does not say how many cycles occur on a die
while its clock is stretched, and the model counts none of them in ctl.cycle although the die's threads go on issuing. -/
def State.tick (s : State) : State :=
  let rs := s.readiness
  { s with
    cores := s.cores.map fun (c : Nat × PCore) => if s.stretched.contains (dieOf c.1) then c else (c.1, { c.2 with cycle := c.2.cycle + 1 })
    clock := s.clock + 1
    thr := Machine.aged rs s.ctx.id s.vc.id s.thr.id s.thr
    vc := s.vc.aged rs s.ctx.id
    ctx := s.ctx.aged rs
    ctxs := s.ctxs.map fun (c : Nat × Ctx) => (c.1, c.2.aged rs) }

/-- The cycle that an outcome ends. -/
def tickOut (o : Out) : Out :=
  match o with
  | .next s => .next s.tick
  | o => o

/-- A step: the chosen move and the cycle that it takes. -/
def State.advance (s : State) : Out :=
  match s.choose with
  | (s1, some m) => tickOut (s1.make m)
  | (s1, none) => .next s1.tick

/-! ## A program placed from outside (log 42) -/

/-- Where placed code stands: its virtual page, the page of the slice of physical core `phys`, and the root of the page tables that map it. -/
def placeVa : Nat := 0x20000000000
def placePa (phys : Nat) : Nat := phys * 0x400000 + 0x300000
def placeRoot : Nat := 0x100000000000

/-- The leaf of the code page: V, LEAF, R, X and A (R358). -/
def placePte (phys : Nat) : Nat := placePa phys + 0x117

/-- The five table entries that map the code page (R358, R359), and the bytes of the code. -/
def placeMem (phys : Nat) (m : Memory) (bs : List Byte) : Memory :=
  let entry := fun (m : Memory) (x : Nat × Nat) => Memory.writeN m x.1 (leBytes 8 x.2)
  let tables := [(placeRoot, placeRoot + 0x1001), (placeRoot + 0x1000 + 8 * walkIndex placeVa 2, placeRoot + 0x2001),
    (placeRoot + 0x2000, placeRoot + 0x3001), (placeRoot + 0x3000, placeRoot + 0x4001), (placeRoot + 0x4000, placePte phys)]
  Memory.writeN (tables.foldl entry m) (placePa phys) bs

/-- The thread in focus, running, at the placed code: at one of the E-stream, the A-stream has passed it. -/
def Thread.placed (t : Thread) (bs : List Byte) (estream : Bool) (len : Nat) : Thread :=
  { t with
    status := .running
    apc := BitVec.ofNat 64 (if estream then placeVa + len else placeVa)
    ePath := if estream then [BitVec.ofNat 64 placeVa] else []
    eNext := 0
    eWords := if estream then [(placeVa, bs)] else []
    waitA := .none
    waitE := .none }

/-- The code page in the instruction TLB of the core in focus. -/
def VCore.placed (v : VCore) (ctx : Nat) : VCore :=
  { v with itlb := { ctx := ctx, base := placeVa, size := 65536, pte := placePte v.phys } :: v.itlb }

/-- The context in focus, live and free to run. -/
def Ctx.placed (c : Ctx) : Ctx :=
  { c with live := true, killed := false, halted := false, preempt := .none, root := placeRoot, nmax := max 1 c.nmax }

/-- The machine up, with an instruction placed where the thread in focus fetches, and its stream to issue next. -/
def State.placed (s : State) (bs : List Byte) : State :=
  let e := stBit bs
  let thr := s.thr.placed bs e (lengthOf (lenOf (leNat (bs.take 4))))
  let vc := { s.vc.placed s.ctx.id with threads := SMap.put s.vc.threads s.thr.id thr }
  let ctx := { s.ctx.placed with vcores := SMap.put s.ctx.vcores s.vc.id vc }
  { s with
    phase := .up
    mem := placeMem s.vc.phys s.mem bs
    thr := thr
    vc := vc
    ctx := ctx
    ctxs := SMap.put s.ctxs s.ctx.id ctx
    agenda := .run s.tid e :: s.agenda }

end Sys2Proof.Machine
end

