-- ==== Sys2Proof/Machine/Step.lean ====
section
/-! DEFINITION. One step of the machine, and the state in which its next step runs a given instruction. -/

namespace Sys2Proof.Machine

/-- One step: the next move of some agent, and the cycle that it takes. -/
def step (s : State) : Host.Outcome State Fault Refusal := s.advance

/-- The state with the instruction of the first `nbits` bits of `w` placed where the next step fetches (log 42). -/
def State.withFetchWord (s : State) (nbits w : Nat) : State := s.placed (leBytes 16 (w % 2 ^ nbits))

end Sys2Proof.Machine
end

