-- ==== Sys2Proof/Safety.lean ====
section
/-! DEFINITION. What counts as a safe run: the machine goes on, no virtual core's work is lost to containment, and the state keeps its form. -/

namespace Sys2Proof.Safety

open Sys2Proof.Machine

/-- The form that every state of the machine keeps: memory in canonical form. -/
abbrev State.Ok (s : State) : Prop := Memory.wf s.mem

/-- A step that goes on: the machine neither faults nor refuses. -/
def GoesOn (s : State) : Prop := ∃ t, Machine.step s = .next t

/-- A step after which no context has been killed that was not killed before (R394). -/
def NoContainment (s t : State) : Prop :=
  ∀ c x, SMap.find t.sync.ctxs c = some x → x.killed = true → ∃ y, SMap.find s.sync.ctxs c = some y ∧ y.killed = true

/-- A run of n steps that goes on throughout, none of them a containment. -/
inductive Run : Nat → State → State → Prop where
  | done (s : State) : Run 0 s s
  | more {n : Nat} {s t u : State} : Machine.step s = .next t → NoContainment s t → Run n t u → Run (n + 1) s u

end Sys2Proof.Safety
end

