-- ==== Sys2Proof/Certificates/Slice0/Obligations.lean ====
section
/-! DEFINITION. The statements for the provers. Each docstring names the rules of spec/ that it formalises. -/

section Statements

open Sys2Proof Sys2Proof.Machine

/-! ## Words that the statements use -/

namespace Sys2Proof.Claims

/-- `s` after an A-stream instruction of `len` bytes whose effect made `s'` of it. -/
def doneA (s : State) (len : Nat) (s' : State) : State := s'.retireTo (s.after len)

/-- The A-stream of the thread is in no wait of an instruction that has cleared its checks (R10): only from such a wait an instruction does
not start over, and what would make another one trap leaves it waiting. -/
def Fresh (s : State) : Prop := s.thr.waitA.settled = false

/-- The first words of an 8-byte instruction of the E-stream of a major (R37, R42), and of VLDE or VSTE, which access memory (R97). -/
def IsMajorE (m x : Nat) : Prop := x % 4 = 0 ∧ x.testBit 2 = true ∧ x / 8 % 128 = m
def IsAccessE (x : Nat) : Prop := IsMajorE 96 x ∨ IsMajorE 97 x

/-- An older instruction of the E-stream, on the path that the A-stream has passed, has words that meet a condition. -/
def OlderE (s : State) (p : Nat → Prop) : Prop := ∃ a ∈ s.thr.ePath, p (s.einstAt a)

/-- `s` as a stepped thread leaves it when its instruction completes: parking, it gives up its MTILE and RSTEP (R391, R181). -/
def stepped (s : State) : State := if s.thr.singleStep = true ∧ s.thr.status = .running then s.dropJobs else s

/-- `s` after an E-stream instruction of `len` bytes whose effect made `s'` of it. -/
def doneE (s : State) (len : Nat) (s' : State) : State := (s'.updThr fun t => t.retireE len s.now).stepPark true

/-- An A-stream instruction writes `x` to register `d` as R129 says: it completes with the write and its settle; where `d` is the
destination of a level link it traps with BOUND_WRITE, and where the settle overflows with LINK_OVERFLOW. -/
def WritesAt (i : Instr) (len d : Nat) (x : W64) (s : State) : Prop :=
  (∀ t, s.thr.checkDest d = .ok () → s.thr.writeS d x = .ok t → exec i s = .next (doneA s len (s.setThr t))) ∧
  (∀ n, d ≠ 0 → s.thr.levelDest false d = some n → exec i s = .next (s.trapA ⟨.boundWrite, 0, n⟩)) ∧
  (∀ e, s.thr.checkDest d = .ok () → s.thr.writeS d x = .error (.trap e) → exec i s = .next (s.trapA e))
def WritesS (i : Instr) (len d : Nat) (x : State → W64) : Prop := ∀ s : State, WritesAt i len d (x s) s

/-- The operations of IALU and IALUI on words of w bits (R130). -/
def alu {w : Nat} (fn : Nat) (a b : BitVec w) : BitVec w :=
  match fn with
  | 0 => a + b
  | 1 => a - b
  | 2 => a &&& b
  | 3 => a ||| b
  | 4 => a ^^^ b
  | 5 => a &&& ~~~b
  | 6 => a <<< (b.toNat % w)
  | 7 => a >>> (b.toNat % w)
  | 8 => a.sshiftRight (b.toNat % w)
  | 9 => a.rotateLeft (b.toNat % w)
  | 10 => if a.sle b then a else b
  | 11 => if a.sle b then b else a
  | 12 => if a.ule b then a else b
  | 13 => if a.ule b then b else a
  | 14 => BitVec.ofInt w (max (-2 ^ (w - 1)) (min (2 ^ (w - 1) - 1) (a.toInt + b.toInt)))
  | _ => BitVec.ofInt w (max (-2 ^ (w - 1)) (min (2 ^ (w - 1) - 1) (a.toInt - b.toInt)))

/-- The operations of IMUL on words of w bits, with the quotients and remainders of R101 (R131). -/
def mul {w : Nat} (fn : Nat) (a b c : BitVec w) : BitVec w :=
  match fn with
  | 0 => a * b
  | 1 => BitVec.ofInt w (a.toInt * b.toInt / 2 ^ w)
  | 2 => BitVec.ofNat w (a.toNat * b.toNat / 2 ^ w)
  | 3 => a * b + c
  | 4 => c - a * b
  | 5 => if b = 0 then BitVec.allOnes w else a.sdiv b
  | 6 => if b = 0 then BitVec.allOnes w else a / b
  | 7 => if b = 0 then a else a.srem b
  | _ => if b = 0 then a else a % b

/-- The conditions of ICMP, ICMPI and BR on words of w bits (R132). -/
def cmp {w : Nat} (fn : Nat) (a b : BitVec w) : Bool :=
  match fn with
  | 0 => decide (a = b)
  | 1 => decide (a ≠ b)
  | 2 => a.slt b
  | 3 => b.sle a
  | 4 => a.ult b
  | _ => b.ule a

/-- A two-operand operation at the width that TY gives, its result sign-extended to the register (R130). -/
def atTy (ty : Nat) (f : {w : Nat} → BitVec w → BitVec w → BitVec w) (x y : W64) : W64 :=
  if ty = 1 then (f (x.setWidth 32) (y.setWidth 32)).signExtend 64 else f x y

/-- The same with three operands (R131). -/
def atTy3 (ty : Nat) (f : {w : Nat} → BitVec w → BitVec w → BitVec w → BitVec w) (x y z : W64) : W64 :=
  if ty = 1 then (f (x.setWidth 32) (y.setWidth 32) (z.setWidth 32)).signExtend 64 else f x y z

/-- IMM32 as an operand (R130): sign-extended. -/
def imm32 (n : Nat) : W64 := (BitVec.ofNat 32 n).signExtend 64

def aluR (fn : Nat) (r : RArgs) (s : State) : W64 := atTy r.ty (alu fn) (s.thr.getS r.a) (s.thr.getS r.b)
def aluI (fn : Nat) (i : IArgs) (s : State) : W64 := atTy (i.b % 8) (alu fn) (s.thr.getS i.a) (imm32 i.imm)
def mulR (fn : Nat) (r : RArgs) (s : State) : W64 := atTy3 r.ty (mul fn) (s.thr.getS r.a) (s.thr.getS r.b) (s.thr.getS r.c)

/-- The decoder refuses an instruction with these fields with RESERVED_FIELD. -/
def Reserved (i : Instr) : Prop := i.fieldFault = some ⟨.reservedField, 0⟩

/-- An entry of the opcode map traps with ILLEGAL_OPCODE, whatever its other fields hold. -/
def Illegal (len st op fn : Nat) : Prop :=
  ∀ w0 w1 e, lenOf w0 = len → stOf w0 = st → opOf w0 = op → fnOf w0 = fn → decode w0 w1 e = .error ⟨.illegalOpcode, 0⟩

/-! ### What stays as it was -/

/-- The registers that a trap fills, and the handler bit, are as before (R378). -/
def ExcSame (t t' : Thread) : Prop :=
  t'.cause = t.cause ∧ t'.epc = t.epc ∧ t'.faddr = t.faddr ∧ t'.fdetail = t.fdetail ∧ t'.einst = t.einst ∧ t'.hsave = t.hsave ∧
    t'.aepc = t.aepc ∧ t'.handler = t.handler

/-- The floating-point control registers are as before (R34). -/
def FpSame (t t' : Thread) : Prop := t'.fpflags = t.fpflags ∧ t'.fpen = t.fpen ∧ t'.rmode = t.rmode

/-- Everything of the thread outside its s-, v- and m-registers and its queues that an instruction could write is as before. -/
def RestSame (t t' : Thread) : Prop :=
  t'.k = t.k ∧ t'.l = t.l ∧ t'.lanes = t.lanes ∧ t'.launch = t.launch ∧ t'.replay = t.replay ∧ t'.stores = t.stores ∧
    t'.deferred = t.deferred ∧ ExcSame t t'

/-- The core, the context and memory are as before: accumulators, weight banks, windows, holdings, every byte. -/
def OutsideSame (s s' : State) : Prop :=
  s'.vc = s.vc ∧ s'.ctx = s.ctx ∧ s'.ctxs = s.ctxs ∧ s'.enabled = s.enabled ∧ ∀ a, s'.mem.read a = s.mem.read a

/-- Only s-registers that `w` names have changed, beside the position; a stepped thread has parked. -/
def FrameS (w : Nat → Prop) (s s' : State) : Prop :=
  (∀ n, ¬w n → s'.thr.getS n = s.thr.getS n) ∧ s'.thr.v = s.thr.v ∧ s'.thr.m = s.thr.m ∧ s'.thr.q = s.thr.q ∧
    FpSame s.thr s'.thr ∧ RestSame s.thr s'.thr ∧ OutsideSame (stepped s) s'

/-- The counters of the physical cores are as before (R25, R34). -/
def CountersSame (s s' : State) : Prop := s'.cores = s.cores

/-- A register that a write of `d` may change: `d`, and the destinations of the bound A-kind links (R161). -/
def Reached (t : Thread) (d n : Nat) : Prop := n = d ∨ ∃ e ∈ t.links false, e.2.d = n

end Sys2Proof.Claims

open Sys2Proof.Claims

/-! ## Scalar arithmetic -/

namespace Sys2Proof.Claims

/-- The forms of IALU, IMUL, ICMP and SEL, BITS, and of the scalar reads of lanes, queues and tokens. -/
def ialuForms (r : RArgs) : List Instr :=
  [.ialuAdd r, .ialuSub r, .ialuAnd r, .ialuOr r, .ialuXor r, .ialuAndn r, .ialuShl r, .ialuShr r, .ialuSar r, .ialuRotl r, .ialuMin r,
   .ialuMax r, .ialuMinn r, .ialuMaxn r, .ialuAddsat r, .ialuSubsat r]
def imulForms (r : RArgs) : List Instr :=
  [.imulMul r, .imulMulhs r, .imulMulhn r, .imulMadd r, .imulMsub r, .imulDivs r, .imulDivn r, .imulRems r, .imulRemn r]
def compareForms (r : RArgs) : List Instr := [.icmp 0 r, .icmp 1 r, .icmp 2 r, .icmp 3 r, .icmp 4 r, .icmp 5 r, .sel r]
def bitsForms (r : RArgs) : List Instr :=
  [.bitsClz r, .bitsCtz r, .bitsPopc r, .bitsBrev r, .bitsBswap r, .bitsSext r, .bitsZext r, .bitsBfx r, .bitsBfi r]
def readForms (r : RArgs) : List Instr :=
  [.laneLive r, .laneLframe r, .laneLkey r, .laneLmask r, .laneVcore r, .laneThread r, .qopQcnt r, .waitkTest r]

/-- The scalar instructions of format R that name one destination register. -/
def IsScalarR (r : RArgs) (i : Instr) : Prop :=
  i ∈ ialuForms r ∨ i ∈ imulForms r ∨ i ∈ compareForms r ∨ i ∈ bitsForms r ∨ i ∈ readForms r

/-- The forms of IALUI, ICMPI and LI. -/
def ialuiForms (i : IArgs) : List Instr :=
  [.ialuiAdd i, .ialuiSub i, .ialuiAnd i, .ialuiOr i, .ialuiXor i, .ialuiAndn i, .ialuiShl i, .ialuiShr i, .ialuiSar i, .ialuiRotl i,
   .ialuiMin i, .ialuiMax i, .ialuiMinn i, .ialuiMaxn i, .ialuiAddsat i, .ialuiSubsat i]
def constForms (i : IArgs) : List Instr :=
  [.icmpi 0 i, .icmpi 1 i, .icmpi 2 i, .icmpi 3 i, .icmpi 4 i, .icmpi 5 i, .liLi i, .liLih i, .liAddpc i]

end Sys2Proof.Claims

/-- R130: every form of IALU and IALUI writes sD := sext(x mod 2^w, w) with its settle, IALUI from the sign-extended IMM32, and TY 2 to 7
are RESERVED_FIELD. -/
def Sys2Proof.Claims.IaluResults : Prop :=
  (∀ r : RArgs,
    WritesS (.ialuAdd r) 8 r.d (aluR 0 r) ∧ WritesS (.ialuSub r) 8 r.d (aluR 1 r) ∧ WritesS (.ialuAnd r) 8 r.d (aluR 2 r) ∧
    WritesS (.ialuOr r) 8 r.d (aluR 3 r) ∧ WritesS (.ialuXor r) 8 r.d (aluR 4 r) ∧ WritesS (.ialuAndn r) 8 r.d (aluR 5 r) ∧
    WritesS (.ialuShl r) 8 r.d (aluR 6 r) ∧ WritesS (.ialuShr r) 8 r.d (aluR 7 r) ∧ WritesS (.ialuSar r) 8 r.d (aluR 8 r) ∧
    WritesS (.ialuRotl r) 8 r.d (aluR 9 r) ∧ WritesS (.ialuMin r) 8 r.d (aluR 10 r) ∧ WritesS (.ialuMax r) 8 r.d (aluR 11 r) ∧
    WritesS (.ialuMinn r) 8 r.d (aluR 12 r) ∧ WritesS (.ialuMaxn r) 8 r.d (aluR 13 r) ∧
    WritesS (.ialuAddsat r) 8 r.d (aluR 14 r) ∧ WritesS (.ialuSubsat r) 8 r.d (aluR 15 r) ∧
    (1 < r.ty → ∀ i ∈ ialuForms r, Reserved i)) ∧
  (∀ i : IArgs,
    WritesS (.ialuiAdd i) 8 i.d (aluI 0 i) ∧ WritesS (.ialuiSub i) 8 i.d (aluI 1 i) ∧ WritesS (.ialuiAnd i) 8 i.d (aluI 2 i) ∧
    WritesS (.ialuiOr i) 8 i.d (aluI 3 i) ∧ WritesS (.ialuiXor i) 8 i.d (aluI 4 i) ∧ WritesS (.ialuiAndn i) 8 i.d (aluI 5 i) ∧
    WritesS (.ialuiShl i) 8 i.d (aluI 6 i) ∧ WritesS (.ialuiShr i) 8 i.d (aluI 7 i) ∧ WritesS (.ialuiSar i) 8 i.d (aluI 8 i) ∧
    WritesS (.ialuiRotl i) 8 i.d (aluI 9 i) ∧ WritesS (.ialuiMin i) 8 i.d (aluI 10 i) ∧ WritesS (.ialuiMax i) 8 i.d (aluI 11 i) ∧
    WritesS (.ialuiMinn i) 8 i.d (aluI 12 i) ∧ WritesS (.ialuiMaxn i) 8 i.d (aluI 13 i) ∧
    WritesS (.ialuiAddsat i) 8 i.d (aluI 14 i) ∧ WritesS (.ialuiSubsat i) 8 i.d (aluI 15 i) ∧
    (1 < i.b % 8 → ∀ x ∈ ialuiForms i, Reserved x))

/-- R101 and R131: the products, quotients and remainders of IMUL at every divisor, its reserved fields and unassigned FN values. -/
def Sys2Proof.Claims.ImulResults : Prop :=
  (∀ r : RArgs,
    WritesS (.imulMul r) 8 r.d (mulR 0 r) ∧ WritesS (.imulMulhs r) 8 r.d (mulR 1 r) ∧ WritesS (.imulMulhn r) 8 r.d (mulR 2 r) ∧
    WritesS (.imulMadd r) 8 r.d (mulR 3 r) ∧ WritesS (.imulMsub r) 8 r.d (mulR 4 r) ∧ WritesS (.imulDivs r) 8 r.d (mulR 5 r) ∧
    WritesS (.imulDivn r) 8 r.d (mulR 6 r) ∧ WritesS (.imulRems r) 8 r.d (mulR 7 r) ∧ WritesS (.imulRemn r) 8 r.d (mulR 8 r) ∧
    (1 < r.ty ∨ r.rm ≠ 0 ∨ r.msk ≠ 0 ∨ r.x16 ≠ 0 → Reserved (.imulMadd r) ∧ Reserved (.imulMsub r)) ∧
    (1 < r.ty ∨ r.rm ≠ 0 ∨ r.msk ≠ 0 ∨ r.x16 ≠ 0 ∨ r.c ≠ 0 → ∀ i ∈ [Instr.imulMul r, .imulMulhs r, .imulMulhn r, .imulDivs r, .imulDivn r,
      .imulRems r, .imulRemn r], Reserved i)) ∧
  (∀ fn, 9 ≤ fn → Illegal 0 0 4 fn)

/-- Every form of IALU, IALUI and IMUL writes its result at every operand: `IaluResults`, `ImulResults`. -/
def Obligations.IntegerArithmetic : Prop := Sys2Proof.Claims.IaluResults ∧ Sys2Proof.Claims.ImulResults

/-- R132, R135, R136: comparisons write 1 or 0, SEL chooses, LI and LI64 load constants and add the instruction's own address; their
unassigned FN values are ILLEGAL_OPCODE and their reserved fields RESERVED_FIELD. -/
def Obligations.CompareSelectConstant : Prop :=
  (∀ fn (r : RArgs), WritesS (.icmp fn r) 8 r.d fun s =>
    if (if r.ty = 1 then cmp fn ((s.thr.getS r.a).setWidth 32) ((s.thr.getS r.b).setWidth 32)
        else cmp fn (s.thr.getS r.a) (s.thr.getS r.b)) then 1 else 0) ∧
  (∀ fn (i : IArgs), WritesS (.icmpi fn i) 8 i.d fun s =>
    if (if i.b % 8 = 1 then cmp fn ((s.thr.getS i.a).setWidth 32) ((imm32 i.imm).setWidth 32)
        else cmp fn (s.thr.getS i.a) (imm32 i.imm)) then 1 else 0) ∧
  (∀ fn, 6 ≤ fn → Illegal 0 0 5 fn ∧ Illegal 0 0 6 fn) ∧
  (∀ r : RArgs, WritesS (.sel r) 8 r.d fun s => if s.thr.getS r.c ≠ 0 then s.thr.getS r.a else s.thr.getS r.b) ∧
  (∀ r : RArgs, r.ty ≠ 0 ∨ r.rm ≠ 0 ∨ r.msk ≠ 0 ∨ r.x16 ≠ 0 → Reserved (.sel r)) ∧
  (∀ fn, 1 ≤ fn → Illegal 0 0 8 fn ∧ Illegal 1 0 9 fn) ∧
  (∀ i : IArgs, WritesS (.liLi i) 8 i.d fun _ => imm32 i.imm) ∧
  (∀ i : IArgs, i.imm < 2 ^ 32 → WritesS (.liLih i) 8 i.d fun s =>
    (BitVec.ofNat 32 i.imm).append ((s.thr.getS i.a).setWidth 32)) ∧
  (∀ i : IArgs, WritesS (.liAddpc i) 8 i.d fun s => s.thr.apc + imm32 i.imm) ∧
  (∀ l : LArgs, l.i.imm < 2 ^ 32 → l.ext < 2 ^ 32 → WritesS (.li64 l) 12 l.i.d fun _ =>
    (BitVec.ofNat 32 l.ext).append (BitVec.ofNat 32 l.i.imm)) ∧
  (∀ i : IArgs, i.b ≠ 0 → Reserved (.liLi i) ∧ Reserved (.liLih i) ∧ Reserved (.liAddpc i)) ∧
  (∀ i : IArgs, i.a ≠ 0 → Reserved (.liLi i) ∧ Reserved (.liAddpc i)) ∧
  (∀ l : LArgs, l.i.a ≠ 0 ∨ l.i.b ≠ 0 → Reserved (.li64 l)) ∧
  (∀ fn, 3 ≤ fn → Illegal 0 0 9 fn)

namespace Sys2Proof.Claims

/-- Bit i of the result is bit f i of the argument. -/
def permute {w : Nat} (f : Nat → Nat) (a : BitVec w) : BitVec w := BitVec.ofFnLE fun i : Fin w => a.getLsbD (f i.val)

/-- The results of BITS (R134), with the POS and LEN of X16 (R133). -/
def bitsOp (fn pos len : Nat) {w : Nat} (a b : BitVec w) : BitVec w :=
  match fn with
  | 0 => BitVec.ofNat w ((List.range w).takeWhile fun i => !a.getLsbD (w - 1 - i)).length
  | 1 => BitVec.ofNat w ((List.range w).takeWhile fun i => !a.getLsbD i).length
  | 2 => BitVec.ofNat w ((List.range w).countP fun i => a.getLsbD i)
  | 3 => permute (fun i => w - 1 - i) a
  | 4 => permute (fun i => 8 * (w / 8 - 1 - i / 8) + i % 8) a
  | 5 => BitVec.ofInt w ((a.setWidth len).toInt)
  | 6 => BitVec.ofNat w (a.toNat % 2 ^ len)
  | 7 => BitVec.ofNat w (a.toNat / 2 ^ pos % 2 ^ len)
  | _ => BitVec.ofFnLE fun i : Fin w => if pos ≤ i.val ∧ i.val < pos + len then b.getLsbD (i.val - pos) else a.getLsbD i.val

def bitsR (fn : Nat) (r : RArgs) (s : State) : W64 :=
  atTy r.ty (bitsOp fn (r.x16 % 64) (r.x16 / 64 % 128)) (s.thr.getS r.a) (s.thr.getS r.b)

/-- POS and LEN of a BITS field form lie within its width (R134). -/
def FieldFits (r : RArgs) : Prop := 0 < r.x16 / 64 % 128 ∧ r.x16 % 64 + r.x16 / 64 % 128 ≤ widthOf r.ty

end Sys2Proof.Claims

/-- R133 and R134: the results of BITS, its reserved fields and unassigned FN values. -/
def Sys2Proof.Claims.BitsResults : Prop :=
  (∀ r : RArgs,
    (WritesS (.bitsClz r) 8 r.d (bitsR 0 r) ∧ WritesS (.bitsCtz r) 8 r.d (bitsR 1 r) ∧ WritesS (.bitsPopc r) 8 r.d (bitsR 2 r) ∧
      WritesS (.bitsBrev r) 8 r.d (bitsR 3 r) ∧ WritesS (.bitsBswap r) 8 r.d (bitsR 4 r)) ∧
    (FieldFits r → WritesS (.bitsSext r) 8 r.d (bitsR 5 r) ∧ WritesS (.bitsZext r) 8 r.d (bitsR 6 r) ∧
      WritesS (.bitsBfx r) 8 r.d (bitsR 7 r) ∧ WritesS (.bitsBfi r) 8 r.d (bitsR 8 r)) ∧
    (¬FieldFits r ∨ 8192 ≤ r.x16 ∧ r.x16 < 65536 → ∀ i ∈ [Instr.bitsSext r, .bitsZext r, .bitsBfx r, .bitsBfi r], Reserved i) ∧
    (r.x16 % 64 ≠ 0 → Reserved (.bitsSext r) ∧ Reserved (.bitsZext r)) ∧
    (r.x16 ≠ 0 → ∀ i ∈ [Instr.bitsClz r, .bitsCtz r, .bitsPopc r, .bitsBrev r, .bitsBswap r], Reserved i) ∧
    (r.b ≠ 0 → ∀ i ∈ [Instr.bitsClz r, .bitsCtz r, .bitsPopc r, .bitsBrev r, .bitsBswap r, .bitsSext r, .bitsZext r, .bitsBfx r],
      Reserved i)) ∧
  (∀ fn, 9 ≤ fn → Illegal 0 0 7 fn)

/-- R137: LANE reads the firing's live lanes, their frames and keys, m0, and the numbers of the core and the thread. That LFRAME adds
ctl.framebase as it stands at the read is the model's choice: log 61. -/
def Sys2Proof.Claims.LaneResults : Prop :=
  (∀ r : RArgs,
    WritesS (.laneLive r) 8 r.d (fun s => BitVec.ofNat 64 s.thr.lanes.length) ∧
    (WritesS (.laneLframe r) 8 r.d fun s =>
      ((s.thr.lanes[r.x16 % 32]?).map fun l => s.ctx.framebase + BitVec.ofNat 64 l.task.frame).getD 0) ∧
    (WritesS (.laneLkey r) 8 r.d fun s => ((s.thr.lanes[r.x16 % 32]?).map fun l => BitVec.ofNat 64 l.task.key).getD 0) ∧
    WritesS (.laneLmask r) 8 r.d (fun s => (s.thr.getM 0).setWidth 64) ∧
    WritesS (.laneVcore r) 8 r.d (fun s => BitVec.ofNat 64 s.vc.id) ∧
    WritesS (.laneThread r) 8 r.d (fun s => BitVec.ofNat 64 s.thr.id) ∧
    (r.a ≠ 0 ∨ r.b ≠ 0 ∨ r.c ≠ 0 ∨ r.ty ≠ 0 ∨ r.rm ≠ 0 ∨ r.msk ≠ 0 ∨ 32 ≤ r.x16 ∧ r.x16 < 65536 →
      ∀ i ∈ [Instr.laneLive r, .laneLframe r, .laneLkey r, .laneLmask r, .laneVcore r, .laneThread r], Reserved i) ∧
    (r.x16 ≠ 0 → ∀ i ∈ [Instr.laneLive r, .laneLmask r, .laneVcore r, .laneThread r], Reserved i)) ∧
  (∀ fn, 6 ≤ fn → Illegal 0 0 10 fn)

/-- Results of BITS, and the reads of LANE: `BitsResults`, `LaneResults`. -/
def Obligations.BitsAndLanes : Prop := Sys2Proof.Claims.BitsResults ∧ Sys2Proof.Claims.LaneResults

/-- R51 (s-registers) and R129: s0 reads zero in every thread, a write of it is no write event and changes nothing, and an instruction
whose destination is s0 completes with its position moved and nothing written. -/
def Sys2Proof.Claims.ScalarZero : Prop :=
  (∀ t : Thread, t.getS 0 = 0) ∧
  (∀ (t : Thread) (x : W64), t.setS 0 x = t ∧ t.writeS 0 x = .ok t ∧ t.checkDest 0 = .ok ()) ∧
  (∀ (r : RArgs) (s : State), r.d = 0 → exec (.ialuAdd r) s = .next (doneA s 8 s) ∧ exec (.imulDivn r) s = .next (doneA s 8 s) ∧
    exec (.laneLkey r) s = .next (doneA s 8 s))

/-- R129, R161: the frame of the scalar instructions. One that passes the BOUND_WRITE check either completes, its position 8 bytes on,
with nothing changed but its destination and the destinations of links, or traps with LINK_OVERFLOW. -/
def Sys2Proof.Claims.ScalarFrame : Prop :=
  ∀ (s s' : State) (d : Nat) (i : Instr), (∃ r : RArgs, d = r.d ∧ IsScalarR r i) ∨
      (∃ x : IArgs, d = x.d ∧ (i ∈ ialuiForms x ∨ i ∈ constForms x)) →
    s.thr.checkDest d = .ok () → exec i s = .next s' →
    (s'.thr.apc = s.thr.apc + 8 ∧ FrameS (Reached s.thr d) s s' ∧ CountersSame s s') ∨ ∃ n, s' = s.trapA ⟨.linkOverflow, 0, n⟩

/-- s0 reads zero and discards writes; a scalar instruction changes its destination and link destinations only: `ScalarZero`,
`ScalarFrame`. -/
def Obligations.ScalarFrames : Prop := Sys2Proof.Claims.ScalarZero ∧ Sys2Proof.Claims.ScalarFrame

/-! ## Links -/

namespace Sys2Proof.Claims

/-- An integer lies outside the signed range of w bits. -/
def Outside (w : Nat) (x : Int) : Prop := x < -2 ^ (w - 1) ∨ 2 ^ (w - 1) ≤ x

/-- The value of a level link as an integer, of the operands' unsigned readings (R158). -/
def levelValue (w op k : Nat) (a b c : BitVec w) : Int :=
  match op with
  | 0 => a.toNat + b.toNat
  | 1 => a.toNat - b.toNat
  | 2 => a.toNat + b.toNat * c.toNat
  | 3 => a.toNat + b.toNat * 2 ^ k
  | 4 => min a.toInt b.toInt
  | 5 => max a.toInt b.toInt
  | 6 => min (max a.toInt b.toInt) c.toInt
  | 7 => if a.toInt < b.toInt then 1 else 0
  | 8 => if a.toNat < b.toNat then 1 else 0
  | 9 => if a.toInt ≤ b.toInt then 1 else 0
  | 10 => if a.toNat = b.toNat then 1 else 0
  | 11 => (a.toNat &&& b.toNat : Nat)
  | 12 => (a.toNat ||| b.toNat : Nat)
  | 13 => (a.toNat ^^^ b.toNat : Nat)
  | 14 => if c.toNat ≠ 0 then a.toNat else b.toNat
  | _ => a.toNat

/-- The exact signed result that CK tests (R158). -/
def levelExact (w op k : Nat) (a b c : BitVec w) : Int :=
  match op with
  | 0 => a.toInt + b.toInt
  | 1 => a.toInt - b.toInt
  | 2 => a.toInt + b.toInt * c.toInt
  | _ => a.toInt + b.toInt * 2 ^ k

/-- What an edge link makes of its destination, and the exact signed result that CK tests (R159). -/
def edgeValue (w op : Nat) (d a : BitVec w) : Int :=
  match op with
  | 0 => d.toNat + a.toNat
  | 1 => d.toNat + 1
  | 2 => min d.toInt a.toInt
  | 3 => max d.toInt a.toInt
  | 4 => d.toNat + a.toNat * a.toNat
  | 5 => a.toNat
  | _ => (d.toNat ||| a.toNat : Nat)
def edgeExact (w op : Nat) (d a : BitVec w) : Int :=
  match op with
  | 0 => d.toInt + a.toInt
  | 1 => d.toInt + 1
  | _ => d.toInt + a.toInt * a.toInt

/-- Link `x` is a source, trigger or gate of link `y`: an arc of the link graph (R161). -/
def Feeds (x y : Nat × Link) : Prop := x.2.d ∈ y.2.reads

/-- The order in which a settle visits links: topological, ties by ascending slot (R161). At every place stands the lowest slot among the
links that no link still to be visited feeds. -/
def VisitOrder (ls order : List (Nat × Link)) : Prop :=
  order.Perm ls ∧ ∀ before x after, order = before ++ x :: after →
    (∀ y ∈ after, ¬Feeds y x) ∧ ∀ z ∈ after, (∀ y ∈ x :: after, y.1 ≠ z.1 → ¬Feeds y z) → x.1 < z.1

/-- The settle of R161 as its pseudocode has it, over links in visiting order, from the registers written so far: the thread, or the
slot of the link that overflows. -/
def settle : List (Nat × Link) → Thread → List Nat → Except Nat Thread
  | [], t, _ => .ok t
  | (n, l) :: rest, t, w =>
    if !l.edge && l.reads.any (fun r => w.contains r) then
      let v := levelFn 64 l.op l.sh (t.getS l.a) (if l.imm then imm32 l.opb else t.getS l.opb) (t.getS l.c)
      if l.ck && v.2 then .error n else settle rest (t.setS l.d v.1) (l.d :: w)
    else if l.edge && w.contains l.a && (l.opb == 0 || t.getS l.opb != 0) then
      let v := edgeFn 64 l.op (t.getS l.d) (t.getS l.a)
      if l.ck && v.2 then .error n else settle rest (t.setS l.d v.1) (l.d :: w)
    else settle rest t w

/-- The settle of the E-kind links (R161, R174) over links in visiting order, from the lanes of each register written so far: a level link with
a written source is evaluated in all 32 lanes, an edge link in those lanes of its trigger that were written and whose gate is not 0. The
error is the slot of the link that overflows and the lanes in which it does. -/
def settleLanes : List (Nat × Link) → Thread → (Nat → W32) → Except (Nat × W32) Thread
  | [], t, _ => .ok t
  | (n, l) :: rest, t, w =>
    let value := fun i =>
      if l.edge then edgeFn 32 l.op ((t.getV l.d).lane i) ((t.getV l.a).lane i)
      else levelFn 32 l.op l.sh ((t.getV l.a).lane i) ((t.getV l.opb).lane i) ((t.getV l.c).lane i)
    let on : W32 :=
      if l.edge then BitVec.ofFnLE fun i : Fin 32 => (w l.a).getLsbD i.val && (l.opb == 0 || (t.getV l.opb).lane i.val != 0)
      else if l.reads.any fun r => w r != 0 then BitVec.allOnes 32 else 0
    let ovf : W32 := BitVec.ofFnLE fun i : Fin 32 => on.getLsbD i.val && (value i.val).2
    if on = 0 then settleLanes rest t w
    else if l.ck ∧ ovf ≠ 0 then .error (n, ovf)
    else settleLanes rest (t.setV l.d (Lanes.make fun i => if on.getLsbD i then (value i).1 else (t.getV l.d).lane i))
      fun r => if r = l.d then w r ||| on else w r

/-- The A-kind links of a thread are such as BIND and BINDE make them: no cycle, no destination twice, no destination s0 (R163, R164,
R170). -/
def LinksOk (t : Thread) : Prop :=
  hasCycle (t.links false) = false ∧ (t.links false).Pairwise (fun x y => x.2.d ≠ y.2.d) ∧ ∀ x ∈ t.links false, x.2.d ≠ 0 ∧ x.2.d < 64

/-- A level link's destination holds its function of its sources (R157, R158). -/
def Holds (t : Thread) (l : Link) : Prop :=
  t.getS l.d = (levelFn 64 l.op l.sh (t.getS l.a) (if l.imm then imm32 l.opb else t.getS l.opb) (t.getS l.c)).1

end Sys2Proof.Claims

/-- R158 and R159: what level and edge links compute, modulo 2^w, and when CK finds an overflow. -/
def Sys2Proof.Claims.LinkFunctions : Prop :=
  (∀ (w op k : Nat) (a b c : BitVec w), 0 < w → op < 16 → (levelFn w op k a b c).1 = BitVec.ofInt w (levelValue w op k a b c)) ∧
  (∀ (w op k : Nat) (a b c : BitVec w), op < 4 → ((levelFn w op k a b c).2 = true ↔ Outside w (levelExact w op k a b c))) ∧
  (∀ (w op : Nat) (d a : BitVec w), 0 < w → op < 7 → (edgeFn w op d a).1 = BitVec.ofInt w (edgeValue w op d a)) ∧
  (∀ (w op : Nat) (d a : BitVec w), op = 0 ∨ op = 1 ∨ op = 4 → ((edgeFn w op d a).2 = true ↔ Outside w (edgeExact w op d a)))

/-- R160, R161, R165: a write of an s-register is followed by the settle of the A-kind links in topological order, ties by ascending
slot; an overflow of a link with CK set is LINK_OVERFLOW with its slot, and nothing is written. -/
def Sys2Proof.Claims.SettleOrder : Prop :=
  ∀ t : Thread, hasCycle (t.links false) = false →
    ∃ order, VisitOrder (t.links false) order ∧ ∀ d x, d ≠ 0 →
      t.writeS d x = match settle order (t.setS d x) [d] with
        | .ok t' => .ok t'
        | .error n => .error (.trap ⟨.linkOverflow, 0, n⟩)

/-- R160, R161, R165, R174, R176: a masked write of a v-register is followed by the settle of the E-kind links, lane by lane, in the same
order; an overflow of a link with CK set is LINK_OVERFLOW with its slot in bits 31:0 and its lanes in bits 63:32. A write of no lane is no
write event. -/
def Sys2Proof.Claims.SettleLanes : Prop :=
  ∀ t : Thread, hasCycle (t.links true) = false →
    ∃ order, VisitOrder (t.links true) order ∧ ∀ d (act : W32) (x : Lanes),
      t.writeV d act x =
        if act = 0 then .ok t
        else match settleLanes order (t.setV d (Lanes.make fun i => if act.getLsbD i then x.lane i else (t.getV d).lane i))
            (fun r => if r = d then act else 0) with
          | .ok t' => .ok t'
          | .error (n, ovf) => .error (.trap ⟨.linkOverflow, 0, n + 2 ^ 32 * ovf.toNat⟩)

/-- What links compute, and the settle that follows a write of a register of either stream: `LinkFunctions`, `SettleOrder`, `SettleLanes`. -/
def Obligations.Settle : Prop := Sys2Proof.Claims.LinkFunctions ∧ Sys2Proof.Claims.SettleOrder ∧ Sys2Proof.Claims.SettleLanes

/-- R157: a level link keeps its destination equal to its function. Where every A-kind level link holds, it still holds after any write
of a register that is no level link's destination, once the write's settle has been made. -/
def Obligations.LevelLinksHold : Prop :=
  ∀ (t t' : Thread) (d : Nat) (x : W64), LinksOk t → (∀ e ∈ t.links false, e.2.edge = false → Holds t e.2) →
    t.checkDest d = .ok () → d < 64 → t.writeS d x = .ok t' →
    t'.l = t.l ∧ ∀ e ∈ t'.links false, e.2.edge = false → Holds t' e.2

namespace Sys2Proof.Claims

/-- The faults of R170 before the first evaluation, in their order. -/
def BindFaults (i : Instr) (s : State) (slot : Nat) (l : Link) (trap : TrapInfo → State) : Prop :=
  (∀ o, s.thr.getL slot = some o → o.ek ≠ l.ek → exec i s = .next (trap ⟨.linkStream, 0, slot⟩)) ∧
  ((∀ o, s.thr.getL slot = some o → o.ek = l.ek) →
    (l.badOperand = true → exec i s = .next (trap ⟨.linkOperand, 0, slot⟩)) ∧
    (l.badOperand = false →
      (∀ n, s.thr.otherDest l.ek slot l.d = some n → exec i s = .next (trap ⟨.boundWrite, 0, n⟩)) ∧
      (s.thr.otherDest l.ek slot l.d = none → hasCycle ((s.thr.setL slot (some l)).links l.ek) = true →
        exec i s = .next (trap ⟨.bindCycle, 0, slot⟩))))

/-- A link passes the checks of R170 up to BIND_CYCLE. -/
def Installs (t : Thread) (slot : Nat) (l : Link) : Prop :=
  (∀ o, t.getL slot = some o → o.ek = l.ek) ∧ l.badOperand = false ∧ t.otherDest l.ek slot l.d = none ∧
    hasCycle ((t.setL slot (some l)).links l.ek) = false

/-- No older E-stream instruction that names a slot has still to complete (R167). -/
def NoSlotWait (s : State) : Prop := ∀ a ∈ s.thr.ePath, isSlotOpE (s.einstAt a) = false

/-- The first value of a level link (R158, R170). -/
def firstValue (t : Thread) (l : Link) : W64 × Bool :=
  levelFn 64 l.op l.sh (t.getS l.a) (if l.imm then imm32 l.opb else t.getS l.opb) (t.getS l.c)

/-- What BIND does with a link (R170): it installs it, evaluates it, and settles. Of a level link only s0 as the destination is a bad operand. -/
def BindsAt (i : Instr) (len slot : Nat) (l : Link) (s : State) : Prop :=
  (l.badOperand = true ↔ l.d = 0) ∧
  BindFaults i s slot l s.trapA ∧
  (Installs s.thr slot l →
    (∀ t, ¬(l.ck = true ∧ (firstValue (s.thr.setL slot (some l)) l).2 = true) →
      (s.thr.setL slot (some l)).writeS l.d (firstValue (s.thr.setL slot (some l)) l).1 = .ok t →
      exec i s = .next (doneA s len (s.setThr t))) ∧
    (∀ e, ¬(l.ck = true ∧ (firstValue (s.thr.setL slot (some l)) l).2 = true) →
      (s.thr.setL slot (some l)).writeS l.d (firstValue (s.thr.setL slot (some l)) l).1 = .error (.trap e) →
      exec i s = .next (s.trapA e)) ∧
    (l.ck = true → (firstValue (s.thr.setL slot (some l)) l).2 = true → exec i s = .next (s.trapA ⟨.linkOverflow, 0, slot⟩)))
def Binds (i : Instr) (len slot : Nat) (l : Link) : Prop := ∀ s : State, NoSlotWait s → BindsAt i len slot l s

end Sys2Proof.Claims

/-- R169 to R171: BIND in both its forms installs the level link, writes its first value and settles; BINDE installs the edge link and
writes nothing. Their faults come in the order of R170, and BINDE's unassigned FN values are ILLEGAL_OPCODE. -/
def Sys2Proof.Claims.BindInstallsLinks : Prop :=
  (∀ fn (r : RArgs), Binds (.bind fn r) 8 (r.x16 % 32)
    { ek := false, edge := false, imm := false, ck := r.x16.testBit 5, op := fn, d := r.d, a := r.a, c := r.c, sh := r.x16 / 64 % 64,
      opb := r.b }) ∧
  (∀ fn (x : XArgs), Binds (.bindImm fn x) 12 (x.r.x16 % 32)
    { ek := false, edge := false, imm := true, ck := x.r.x16.testBit 5, op := fn, d := x.r.d, a := x.r.a, c := x.r.c,
      sh := x.r.x16 / 64 % 64, opb := x.ext }) ∧
  (∀ fn (r : RArgs) (s : State), NoSlotWait s →
    let l : Link := { ek := false, edge := true, imm := false, ck := r.x16.testBit 5, op := fn, d := r.d, a := r.a, c := 0, sh := 0,
                      opb := r.b }
    (l.badOperand = true ↔ r.d = 0 ∨ r.a = 0 ∨ r.a = r.d ∨ (r.b = r.d ∧ r.b ≠ 0)) ∧
    BindFaults (.binde fn r) s (r.x16 % 32) l s.trapA ∧
    (Installs s.thr (r.x16 % 32) l →
      exec (.binde fn r) s = .next (doneA s 8 (s.setThr (s.thr.setL (r.x16 % 32) (some l)))))) ∧
  (∀ fn, 7 ≤ fn → Illegal 0 0 25 fn)

namespace Sys2Proof.Claims

/-- A descriptor's 64 bits, from the highest field to the lowest (R173). -/
def descriptor (l : Link) : W64 :=
  (BitVec.ofNat 64 l.opb <<< 32) ||| (BitVec.ofNat 64 l.sh <<< 26) ||| (BitVec.ofNat 64 l.c <<< 20) ||| (BitVec.ofNat 64 l.a <<< 14) |||
    (BitVec.ofNat 64 l.d <<< 8) ||| (if l.imm then 1 <<< 7 else 0) ||| (if l.ck then 1 <<< 6 else 0) ||| (if l.ek then 1 <<< 5 else 0) |||
    (if l.edge then 1 <<< 4 else 0) ||| BitVec.ofNat 64 l.op

/-- A link's fields fit the bits of its descriptor. -/
def LinkFits (l : Link) : Prop := l.opb < 2 ^ 32 ∧ l.sh < 64 ∧ l.c < 64 ∧ l.a < 64 ∧ l.d < 64 ∧ l.op < 16

/-- The value of LINKRD: a descriptor, 0 for an empty slot. -/
def slotValue (t : Thread) (slot : Nat) : W64 := match t.getL slot with | some l => descriptor l | none => 0

/-- The value of LINKSTAT: the occupied slots, and those with an E-kind link (R172). -/
def statValue (t : Thread) : W64 :=
  BitVec.ofFnLE fun i : Fin 64 =>
    if i.val < 32 then (t.getL i.val).isSome else match t.getL (i.val - 32) with | some l => l.ek | none => false

/-- The slots of a kind emptied. -/
def emptied (t : Thread) (ek : Bool) (n : Nat) : Option Link :=
  match t.getL n with
  | some l => if l.ek = ek then none else some l
  | none => none

end Sys2Proof.Claims

/-- R172, R173: UNBIND empties its slot and UNBINDALL the slots with A-kind links, changing no register; LINKRD reads a descriptor and
LINKSTAT the slots; UNBIND of a slot with an E-kind link is LINK_STREAM; a slot operation waits for older ones of the E-stream (R167). -/
def Obligations.LinkTable : Prop :=
  (∀ (r : RArgs) (s : State), NoSlotWait s → (∀ l, s.thr.getL (r.x16 % 32) = some l → l.ek = false) →
    exec (.linkUnbind r) s = .next (doneA s 8 (s.setThr (s.thr.setL (r.x16 % 32) none)))) ∧
  (∀ (r : RArgs) (s : State) l, NoSlotWait s → s.thr.getL (r.x16 % 32) = some l → l.ek = true →
    exec (.linkUnbind r) s = .next (s.trapA ⟨.linkStream, 0, r.x16 % 32⟩)) ∧
  (∀ (r : RArgs) (s : State), NoSlotWait s → ∃ t : Thread, exec (.linkUnbindall r) s = .next (doneA s 8 (s.setThr t)) ∧
    t = { s.thr with l := t.l } ∧ ∀ n, n < 32 → t.getL n = emptied s.thr false n) ∧
  (∀ (r : RArgs) (s : State) t, NoSlotWait s → (∀ l, s.thr.getL (r.x16 % 32) = some l → LinkFits l) → s.thr.checkDest r.d = .ok () →
    s.thr.writeS r.d (slotValue s.thr (r.x16 % 32)) = .ok t → exec (.linkLinkrd r) s = .next (doneA s 8 (s.setThr t))) ∧
  (∀ (r : RArgs) (s : State) t, NoSlotWait s → s.thr.checkDest r.d = .ok () → s.thr.writeS r.d (statValue s.thr) = .ok t →
    exec (.linkLinkstat r) s = .next (doneA s 8 (s.setThr t))) ∧
  (∀ (r : RArgs) (s : State) e, NoSlotWait s → (∀ l, s.thr.getL (r.x16 % 32) = some l → LinkFits l) → s.thr.checkDest r.d = .ok () →
    s.thr.writeS r.d (slotValue s.thr (r.x16 % 32)) = .error (.trap e) → exec (.linkLinkrd r) s = .next (s.trapA e)) ∧
  (∀ (r : RArgs) (s : State) e, NoSlotWait s → s.thr.checkDest r.d = .ok () →
    s.thr.writeS r.d (statValue s.thr) = .error (.trap e) → exec (.linkLinkstat r) s = .next (s.trapA e)) ∧
  (∀ (r : RArgs) (s : State) n, NoSlotWait s → r.d ≠ 0 → s.thr.levelDest false r.d = some n →
    exec (.linkLinkrd r) s = .next (s.trapA ⟨.boundWrite, 0, n⟩) ∧ exec (.linkLinkstat r) s = .next (s.trapA ⟨.boundWrite, 0, n⟩)) ∧
  (∀ fn, 4 ≤ fn → Illegal 0 0 26 fn) ∧
  (∀ (r : RArgs) (s : State) fn (x : XArgs), ¬NoSlotWait s → Fresh s →
    ∀ i ∈ [Instr.bind fn r, .bindImm fn x, .binde fn r, .linkUnbind r, .linkUnbindall r, .linkLinkrd r, .linkLinkstat r],
      exec i s = .next (s.updThr fun t => { t with waitA := .other }))

namespace Sys2Proof.Claims

/-- The lanes of a value of 64 bits as VLINK writes it (R174). -/
def twoLanes (x : W64) : Lanes := Lanes.make fun i => if i = 0 then x.setWidth 32 else if i = 1 then (x >>> 32).setWidth 32 else 0

/-- A level link's value in every lane (R158, R174). -/
def laneValues (t : Thread) (l : Link) : Lanes :=
  Lanes.make fun i => (levelFn 32 l.op l.sh ((t.getV l.a).lane i) ((t.getV l.opb).lane i) ((t.getV l.c).lane i)).1
/-- The lanes in which it overflows. -/
def laneOverflows (t : Thread) (l : Link) : W32 :=
  BitVec.ofFnLE fun i : Fin 32 =>
    (levelFn 32 l.op l.sh ((t.getV l.a).lane i.val) ((t.getV l.opb).lane i.val) ((t.getV l.c).lane i.val)).2

end Sys2Proof.Claims

/-- R174: VBIND, VBINDE and VLINK do for E-kind links what BIND, BINDE and LINK do for A-kind ones: a level link is evaluated in all 32
lanes at once, v0 is a valid destination, VLINK reads into lanes 0 and 1. -/
def Sys2Proof.Claims.VectorLinks : Prop :=
  (∀ fn (r : RArgs) (s : State),
    let l : Link := { ek := true, edge := false, imm := false, ck := r.x16.testBit 5, op := fn, d := r.d, a := r.a, c := r.c,
                      sh := r.x16 / 64 % 64, opb := r.b }
    let u := s.thr.setL (r.x16 % 32) (some l)
    l.badOperand = false ∧ BindFaults (.vbind fn r) s (r.x16 % 32) l (s.takeTrap true) ∧
    (Installs s.thr (r.x16 % 32) l →
      (∀ t, ¬(l.ck = true ∧ laneOverflows u l ≠ 0) → u.writeV l.d (BitVec.allOnes 32) (laneValues u l) = .ok t →
        exec (.vbind fn r) s = .next (doneE s 8 (s.setThr t))) ∧
      (∀ e, ¬(l.ck = true ∧ laneOverflows u l ≠ 0) → u.writeV l.d (BitVec.allOnes 32) (laneValues u l) = .error (.trap e) →
        exec (.vbind fn r) s = .next (s.takeTrap true e)) ∧
      (l.ck = true → laneOverflows u l ≠ 0 →
        exec (.vbind fn r) s = .next (s.takeTrap true ⟨.linkOverflow, 0, r.x16 % 32 + 2 ^ 32 * (laneOverflows u l).toNat⟩)))) ∧
  (∀ fn (r : RArgs) (s : State),
    let l : Link := { ek := true, edge := true, imm := false, ck := r.x16.testBit 5, op := fn, d := r.d, a := r.a, c := 0, sh := 0,
                      opb := r.b }
    (l.badOperand = true ↔ r.a = r.d ∨ (r.b = r.d ∧ r.b ≠ 0)) ∧ BindFaults (.vbinde fn r) s (r.x16 % 32) l (s.takeTrap true) ∧
    (Installs s.thr (r.x16 % 32) l →
      exec (.vbinde fn r) s = .next (doneE s 8 (s.setThr (s.thr.setL (r.x16 % 32) (some l)))))) ∧
  (∀ (r : RArgs) (s : State), (∀ l, s.thr.getL (r.x16 % 32) = some l → l.ek = true) →
    exec (.vlinkUnbind r) s = .next (doneE s 8 (s.setThr (s.thr.setL (r.x16 % 32) none)))) ∧
  (∀ (r : RArgs) (s : State) l, s.thr.getL (r.x16 % 32) = some l → l.ek = false →
    exec (.vlinkUnbind r) s = .next (s.takeTrap true ⟨.linkStream, 0, r.x16 % 32⟩)) ∧
  (∀ (r : RArgs) (s : State), ∃ t : Thread, exec (.vlinkUnbindall r) s = .next (doneE s 8 (s.setThr t)) ∧
    t = { s.thr with l := t.l } ∧ ∀ n, n < 32 → t.getL n = emptied s.thr true n) ∧
  (∀ (r : RArgs) (s : State) t, (∀ l, s.thr.getL (r.x16 % 32) = some l → LinkFits l) → s.thr.checkDestV r.d = .ok () →
    s.thr.writeV r.d (BitVec.allOnes 32) (twoLanes (slotValue s.thr (r.x16 % 32))) = .ok t →
    exec (.vlinkLinkrd r) s = .next (doneE s 8 (s.setThr t))) ∧
  (∀ (r : RArgs) (s : State) t, s.thr.checkDestV r.d = .ok () →
    s.thr.writeV r.d (BitVec.allOnes 32) (twoLanes (statValue s.thr)) = .ok t →
    exec (.vlinkLinkstat r) s = .next (doneE s 8 (s.setThr t))) ∧
  (∀ (r : RArgs) (s : State) e, (∀ l, s.thr.getL (r.x16 % 32) = some l → LinkFits l) → s.thr.checkDestV r.d = .ok () →
    s.thr.writeV r.d (BitVec.allOnes 32) (twoLanes (slotValue s.thr (r.x16 % 32))) = .error (.trap e) →
    exec (.vlinkLinkrd r) s = .next (s.takeTrap true e)) ∧
  (∀ (r : RArgs) (s : State) e, s.thr.checkDestV r.d = .ok () →
    s.thr.writeV r.d (BitVec.allOnes 32) (twoLanes (statValue s.thr)) = .error (.trap e) →
    exec (.vlinkLinkstat r) s = .next (s.takeTrap true e)) ∧
  (∀ (r : RArgs) (s : State) n, s.thr.levelDest true r.d = some n →
    exec (.vlinkLinkrd r) s = .next (s.takeTrap true ⟨.boundWrite, 0, n⟩) ∧
    exec (.vlinkLinkstat r) s = .next (s.takeTrap true ⟨.boundWrite, 0, n⟩))

/-- BIND, BINDE, VBIND, VBINDE and VLINK, with their faults in order: `BindInstallsLinks`, `VectorLinks`. -/
def Obligations.BindInstallsLinks : Prop := Sys2Proof.Claims.BindInstallsLinks ∧ Sys2Proof.Claims.VectorLinks

/-! ## Control flow -/

namespace Sys2Proof.Claims

/-- A jump of JMP to `target` with link register `d`: BOUND_WRITE, ADDRESS_RANGE, then the link and the jump (R139, R140). -/
def Jumps (i : Instr) (d : Nat) (target : State → W64) : Prop :=
  ∀ s : State,
    (∀ n, d ≠ 0 → s.thr.levelDest false d = some n → exec i s = .next (s.trapA ⟨.boundWrite, 0, n⟩)) ∧
    (s.thr.checkDest d = .ok () → 2 ^ 56 ≤ (target s).toNat → exec i s = .next (s.trapA ⟨.addressRange, (target s).toNat, 0⟩)) ∧
    (∀ t, s.thr.checkDest d = .ok () → (target s).toNat < 2 ^ 56 → s.thr.writeS d (s.thr.apc + 8) = .ok t →
      exec i s = .next ((s.setThr t).retireTo (target s))) ∧
    (∀ e, s.thr.checkDest d = .ok () → (target s).toNat < 2 ^ 56 → s.thr.writeS d (s.thr.apc + 8) = .error (.trap e) →
      exec i s = .next (s.trapA e))

/-- The target of a label: PC + sext(OFF32) × 4 (R46). -/
def labelOf (j : JArgs) (s : State) : W64 := s.thr.apc + imm32 j.off * 4

end Sys2Proof.Claims

/-- R46, R138: BR passes to its label where its condition holds on the 64-bit values, else to PC + 8; only a taken branch checks its
target. -/
def Sys2Proof.Claims.BranchTargets : Prop :=
  (∀ fn (j : JArgs) (s : State), cmp fn (s.thr.getS j.a) (s.thr.getS j.b) = true →
    ((labelOf j s).toNat < 2 ^ 56 → exec (.br fn j) s = .next (s.retireTo (labelOf j s))) ∧
    (2 ^ 56 ≤ (labelOf j s).toNat → exec (.br fn j) s = .next (s.trapA ⟨.addressRange, (labelOf j s).toNat, 0⟩))) ∧
  (∀ fn (j : JArgs) (s : State), cmp fn (s.thr.getS j.a) (s.thr.getS j.b) = false →
    exec (.br fn j) s = .next (s.retireTo (s.thr.apc + 8))) ∧
  (∀ fn, 6 ≤ fn → Illegal 0 0 16 fn) ∧ (∀ fn (j : JArgs), j.d ≠ 0 → Reserved (.br fn j))

/-- R139, R140: the jumps, calls and returns, their link, and the order of their faults; CALLL reads its target as an acquire load. -/
def Sys2Proof.Claims.JumpsAndLinks : Prop :=
  (∀ j : JArgs, Jumps (.jmpJmp j) 0 (labelOf j) ∧ Jumps (.jmpCall j) j.d (labelOf j) ∧ Jumps (.jmpJmpr j) 0 (fun s => s.thr.getS j.a) ∧
    Jumps (.jmpCallr j) j.d (fun s => s.thr.getS j.a) ∧ Jumps (.jmpRet j) 0 (fun s => s.thr.getS j.a)) ∧
  (∀ (j : JArgs) (s : State) n, j.d ≠ 0 → s.thr.levelDest false j.d = some n →
    exec (.jmpCalll j) s = .next (s.trapA ⟨.boundWrite, 0, n⟩)) ∧
  (∀ (j : JArgs) (s : State), s.thr.checkDest j.d = .ok () →
    (∀ e, s.check s.agent (readAcc (s.thr.getS j.a).toNat 8) = .error (.trap e) → exec (.jmpCalll j) s = .next (s.trapA e)) ∧
    (∀ p bs, s.check s.agent (readAcc (s.thr.getS j.a).toNat 8) = .ok p →
      s.readTarget s.agent (readAcc (s.thr.getS j.a).toNat 8) p = .ok bs →
      (2 ^ 56 ≤ (BitVec.ofNat 64 (leNat bs)).toNat →
        exec (.jmpCalll j) s = .next (s.trapA ⟨.addressRange, (BitVec.ofNat 64 (leNat bs)).toNat, 0⟩)) ∧
      (∀ t, (BitVec.ofNat 64 (leNat bs)).toNat < 2 ^ 56 → s.thr.writeS j.d (s.thr.apc + 8) = .ok t →
        exec (.jmpCalll j) s = .next (((s.traffic false [p]).setThr t).retireTo (BitVec.ofNat 64 (leNat bs)))) ∧
      (∀ e, (BitVec.ofNat 64 (leNat bs)).toNat < 2 ^ 56 → s.thr.writeS j.d (s.thr.apc + 8) = .error (.trap e) →
        exec (.jmpCalll j) s = .next (s.trapA e)))) ∧
  (∀ fn, 6 ≤ fn → Illegal 0 0 17 fn) ∧
  (∀ j : JArgs, j.off ≠ 0 → Reserved (.jmpJmpr j) ∧ Reserved (.jmpCallr j) ∧ Reserved (.jmpCalll j) ∧ Reserved (.jmpRet j)) ∧
  (∀ j : JArgs, j.b ≠ 0 → ∀ i ∈ [Instr.jmpJmp j, .jmpCall j, .jmpJmpr j, .jmpCallr j, .jmpCalll j, .jmpRet j], Reserved i)

/-- BR, jumps, calls and returns: `BranchTargets`, `JumpsAndLinks`. Where the spec is silent it states the choices of the model: log 12.
-/
def Obligations.JumpsAndBranches : Prop := Sys2Proof.Claims.BranchTargets ∧ Sys2Proof.Claims.JumpsAndLinks

/-! ## Traps -/

namespace Sys2Proof.Claims

/-- No MTILE or RSTEP of the thread runs, and it does not wait for the lantern (R337): a trap that is taken has no command to stop. -/
def NoJob (s : State) : Prop :=
  (∀ j, s.vc.tile = some j → j.thread ≠ s.thr.id) ∧ (∀ j, s.vc.rule = some j → j.thread ≠ s.thr.id) ∧ s.thr.id ∉ s.vc.lantern

/-- Words 0 and 1 of the instruction that a stream is at (ctl.einst, R34): of one on the E-stream's path as they were fetched (R41). -/
def trapWords (s : State) (estream : Bool) : Nat :=
  if estream then
    match SMap.find s.thr.eWords s.thr.ePos.toNat with
    | some bs => leNat (bs.take 8)
    | none => s.instAt s.thr.ePos
  else s.instAt s.thr.apc

/-- The thread after the A position has passed an instruction of the E-stream, whose bytes are `bs`: it joins the path, unless the E-stream
executed it while it was ahead (R10, R41). -/
def passed (t : Thread) (len : Nat) (bs : List Byte) : Thread :=
  let next := t.apc + BitVec.ofNat 64 len
  if t.eNext ≤ t.apc then
    { t with apc := next, ePath := t.ePath ++ [t.apc], eWords := SMap.put t.eWords t.apc.toNat bs, eNext := 0, waitA := .none }
  else { t with apc := next, eNext := if t.eNext ≤ next then 0 else t.eNext, waitA := .none }

/-- A thread that has entered handler mode (R378), from the state `s` in which the trap finds it: what the trap registers hold, and both
streams at ctl.trapvec. -/
def entered (s : State) (estream : Bool) (i : TrapInfo) : State :=
  let pos := if estream then s.thr.ePos else s.thr.apc
  { s with thr :=
    { s.thr with
      cause := BitVec.ofNat 64 (causeCode i.cause)
      epc := pos
      aepc := if estream then s.thr.apc else 0
      faddr := if causeHasAddr i.cause then BitVec.ofNat 64 i.faddr else 0
      fdetail := BitVec.ofNat 64 i.fdetail
      einst := BitVec.ofNat 64 (trapWords s estream)
      handler := true
      trapPath := if estream then s.thr.ePath else []
      apc := s.ctx.trapvec
      ePath := []
      eNext := 0
      eWords := []
      waitA := .none
      waitE := .none
      watchPass := [] } }

/-- A report of the thread in focus (R381), FADDR as ctl.faddr holds it. -/
def reportAt (s : State) (estream : Bool) (epc : W64) (i : TrapInfo) (disp : Nat) : Report where
  cause := i.cause
  disp := disp
  thread := s.thr.id
  ctxid := s.ctx.id
  vcore := s.vc.id
  stream := if estream then 1 else 0
  epc := epc.toNat
  aepc := if estream then s.thr.apc.toNat else 0
  faddr := if causeHasAddr i.cause then i.faddr else 0
  fdetail := i.fdetail
  inst := trapWords s estream
  cycle := s.now

/-- A thread that is parked with a report (R381). -/
def parkedWith (s : State) (r : Report) : State :=
  { s with
    thr := { s.thr with status := .parked r, waitA := .none, waitE := .none }
    reports := s.reports ++ [r] }

end Sys2Proof.Claims

/-- R181, R233, R350: how a trap finds its thread. Its running MTILE and RSTEP are stopped and their locks released; at a trap of the E-stream
the A-stream stands at its oldest instruction that has not completed, having passed those of the E-stream that stand before it. -/
def Sys2Proof.Claims.TrapFinds : Prop :=
  (∀ s : State, s.atTrap false = s.dropJobs ∧ s.atTrap true = (s.passOver 0x10000).dropJobs) ∧
  (∀ s : State, NoJob s → s.dropJobs = s) ∧
  (∀ s : State, NoJob s.dropJobs ∧ s.dropJobs.thr = s.thr ∧ s.dropJobs.mem = s.mem ∧
    ((∃ j, s.vc.tile = some j ∧ j.thread = s.thr.id) → s.dropJobs.vc.groupLock ≠ some s.vc.id ∧
      ∀ n x, SMap.find s.ctx.vcores n = some x → SMap.find s.dropJobs.ctx.vcores n =
        some (if x.groupLock = some s.vc.id then { x with groupLock := none } else x))) ∧
  (∀ (s : State) n, ∃ t : Thread, s.passOver n = s.setThr t ∧
    t = { s.thr with apc := t.apc, ePath := t.ePath, eNext := t.eNext, eWords := t.eWords, waitA := t.waitA }) ∧
  (∀ (s : State) n pte pa bs, s.codeAt s.thr.apc = some (pte, pa) → s.codeBytes s.thr.apc = some bs → s.thr.apc.toNat % 4 = 0 →
    pte.testBit 4 = true → pte.testBit 3 = false →
    (∀ i len, decodeAt (s.thr.apc.toNat % 32) bs = .instr i len →
      s.passOver (n + 1) = if stBit bs then (s.setThr (passed s.thr len bs)).passOver n else s) ∧
    (decodeAt (s.thr.apc.toNat % 32) bs = .pad → ∃ t : Thread, s.passOver (n + 1) = (s.setThr t).passOver n ∧
      t.apc = BitVec.ofNat 64 (s.thr.apc.toNat / 32 * 32 + 32) ∧ t.ePath = s.thr.ePath ∧ t.eWords = s.thr.eWords))

/-- R10, R376, R378: a cause of disposition H enters handler mode as one step; every register, link, token, queue, mask and window keeps its
value. An A-stream trap waits for the older E-stream instructions. Where ctl.trapvec is 0 or the thread is in handler mode, the context
is contained. An instruction that has cleared its checks and only waits raises nothing. -/
def Sys2Proof.Claims.HandlerEntry : Prop :=
  (∀ (s : State) (e : Bool) (i : TrapInfo), causeDisp i.cause = .h → s.ctx.trapvec ≠ 0 → s.thr.handler = false →
    s.takeTrap e i = entered (s.atTrap e) e i ∧ (s.thr.ePath = [] → Fresh s → s.trapA i = entered s.dropJobs false i)) ∧
  (∀ (s : State) (e : Bool) (i : TrapInfo), causeDisp i.cause = .h → s.ctx.trapvec = 0 ∨ s.thr.handler = true →
    s.takeTrap e i = (s.atTrap e).kill s.ctx.id
      (reportAt (s.atTrap e) e (if e then (s.atTrap e).thr.ePos else s.thr.apc) i 2)) ∧
  (∀ (s : State) (i : TrapInfo), s.thr.ePath = [] → Fresh s → s.trapA i = s.takeTrap false i) ∧
  (∀ (s : State) (i : TrapInfo), s.thr.ePath ≠ [] → Fresh s → s.trapA i = { s with thr := { s.thr with waitA := .other } }) ∧
  (∀ (s : State) (i : TrapInfo), ¬Fresh s → s.trapA i = s) ∧
  (∀ w : Wait, w.settled = true ↔ (∃ q, w = .pop q) ∨ (∃ q, w = .push q) ∨ (∃ q e, w = .held q e) ∨ w = .word ∨ w = .take ∨
    ∃ p, w = .replayRoom p)

/-- R381: a cause of disposition P parks the thread at its stop position and sends a report; no trap register changes. -/
def Sys2Proof.Claims.ParkedReport : Prop :=
  ∀ (s : State) (e : Bool) (i : TrapInfo), causeDisp i.cause = .p →
    s.takeTrap e i = parkedWith (s.atTrap e) (reportAt (s.atTrap e) e (if e then (s.atTrap e).thr.ePos else s.thr.apc) i 1)

/-- A trap enters handler mode, parks its thread, or contains its context: `TrapFinds`, `HandlerEntry`, `ParkedReport`. -/
def Obligations.TrapEntry : Prop := Sys2Proof.Claims.TrapFinds ∧ Sys2Proof.Claims.HandlerEntry ∧ Sys2Proof.Claims.ParkedReport

/-- R394: containment kills one context. Its threads, copies and commands are gone, its holdings, objects, tables and memory remain; no
other context, no key, no window of another context and no byte of memory changes; the host receives the report. -/
def Sys2Proof.Claims.ContainmentKillsOneContext : Prop :=
  ∀ (s : State) (c : Nat) (r : Report) (x : Ctx), SMap.find s.sync.ctxs c = some x →
    let t := s.kill c r
    (∃ y, SMap.find t.ctxs c = some y ∧ y.killed = true ∧ y.vcores = [] ∧ y.launches = [] ∧ y.copies = [] ∧ y.mcmds = [] ∧
      y.holdings = x.holdings ∧ y.objects = x.objects ∧ y.root = x.root ∧ y.windows = x.windows ∧ y.live = x.live) ∧
    (∀ k, k ≠ c → SMap.find t.ctxs k = SMap.find s.sync.ctxs k) ∧
    t.mem = s.mem ∧ t.keySlots = s.keySlots ∧ t.reports = s.reports ++ [{ r with disp := 2 }]

/-- R382: the codes and dispositions of the causes. -/
def Sys2Proof.Claims.CauseTable : Prop :=
  (∀ n, n ≤ 97 → causeCode (causeOfCode n) = n) ∧
  (∀ n, 1 ≤ n → n ≤ 97 → causeDisp (causeOfCode n) =
    if n = 8 then .e
    else if n = 46 ∨ n = 84 ∨ 87 ≤ n then .f
    else if n ∈ [6, 13, 14, 15, 24, 25, 39, 45, 48, 49, 54, 55, 68, 83, 85, 86] then .p
    else .h) ∧
  causeCode .softTrap = 12 ∧ causeCode .misaligned = 28 ∧ causeCode .addressRange = 47 ∧ causeCode .tokenError = 71 ∧
  causeCode .fpInvalid = 78 ∧ causeCode .contextKilled = 97

/-- Containment reaches one context only; the causes and their dispositions: `ContainmentKillsOneContext`, `CauseTable`. -/
def Obligations.Containment : Prop := Sys2Proof.Claims.ContainmentKillsOneContext ∧ Sys2Proof.Claims.CauseTable

/-- The E-stream restarts ahead of the A-stream, at a position that is none of the interrupted path (R380). -/
def Sys2Proof.Claims.RestartsAhead (s : State) : Prop :=
  s.thr.aepc < s.thr.epc ∧ ∀ p ∈ s.thr.trapPath, p ≠ s.thr.epc ∧ p + s.lengthAt p ≠ s.thr.epc

/-- R40, R41, R379, R380: TRAP raises SOFT_TRAP with its code at its own address, BRK parks the thread with the next instruction's address,
RESUME leaves handler mode and restarts the streams, whose path is to be fetched anew, and outside handler mode traps with HANDLER_ONLY; a
position of ctl.epc ahead of the A-stream that cannot be fetched is the A-stream's trap there. Where the spec is silent it states the
choices of the model: log 14. -/
def Obligations.TrapBrkResume : Prop :=
  (∀ (r : RArgs) (s : State), s.thr.ePath = [] → Fresh s → s.ctx.trapvec ≠ 0 → s.thr.handler = false →
    exec (.trapTrap r) s = .next (entered s.dropJobs false ⟨.softTrap, 0, r.x16⟩)) ∧
  (∀ (r : RArgs) (s : State), s.thr.ePath = [] →
    exec (.trapBrk r) s = .next (parkedWith s.dropJobs (reportAt s.dropJobs false (s.thr.apc + 8) ⟨.breakpoint, 0, r.x16⟩ 1))) ∧
  (∀ (s : State), s.thr.handler = false → exec .trapResume s = .next (s.trapA ⟨.handlerOnly, 0, 0⟩)) ∧
  (∀ (s : State), s.thr.handler = true → s.thr.ePath ≠ [] → Fresh s → exec .trapResume s = .next { s with thr := { s.thr with waitA := .other } }) ∧
  (∀ (s s1 : State), s.thr.handler = true → s.thr.ePath = [] → s.drain = .ok s1 → s1.thr.aepc = 0 →
    exec .trapResume s = .next
      ((s1.setThr { s1.thr with handler := false, ePath := [], eNext := 0, eWords := [], trapPath := [] }).retireTo s1.thr.epc)) ∧
  (∀ (s s1 : State) i, s.thr.handler = true → s.thr.ePath = [] → Fresh s → s.drain = .ok s1 → s1.thr.aepc ≠ 0 → RestartsAhead s1 →
    s1.fetchAddr s1.thr.epc = .error (.trap i) → exec .trapResume s = .next ((s1.setThr { s1.thr with
      apc := s1.thr.epc, handler := false, ePath := [], eNext := 0, eWords := [], trapPath := [], waitA := .none }).takeTrap false i)) ∧
  (∀ (s s1 : State), s.thr.handler = true → s.thr.ePath = [] → s.drain = .ok s1 → s1.thr.aepc ≠ 0 →
    (RestartsAhead s1 → ∃ b, s1.fetchAddr s1.thr.epc = .ok b) →
    ∃ u : Thread, exec .trapResume s = .next ((s1.setThr u).retireTo s1.thr.aepc) ∧
      u = { s1.thr with handler := false, ePath := u.ePath, eNext := u.eNext, eWords := [], trapPath := [] } ∧
      (∀ done rest, s1.thr.trapPath = done ++ s1.thr.epc :: rest → (∀ p ∈ done, p ≠ s1.thr.epc ∧ p + s1.lengthAt p ≠ s1.thr.epc) →
        u.ePath = s1.thr.epc :: rest ∧ u.eNext = 0) ∧
      (∀ done p rest, s1.thr.trapPath = done ++ p :: rest → (∀ x ∈ done, x ≠ s1.thr.epc ∧ x + s1.lengthAt x ≠ s1.thr.epc) →
        p ≠ s1.thr.epc → p + s1.lengthAt p = s1.thr.epc → u.ePath = rest ∧ u.eNext = 0) ∧
      ((∀ p ∈ s1.thr.trapPath, p ≠ s1.thr.epc ∧ p + s1.lengthAt p ≠ s1.thr.epc) →
        (s1.thr.aepc < s1.thr.epc → u.ePath = [] ∧ u.eNext = s1.thr.epc) ∧
        (s1.thr.aepc = s1.thr.epc → u.ePath = [] ∧ u.eNext = 0) ∧
        (s1.thr.epc < s1.thr.aepc → u.eNext = 0 ∧ (s1.codeBytes s1.thr.epc = none → u.ePath = [s1.thr.epc]) ∧
          ∀ bs, s1.codeBytes s1.thr.epc = some bs → decodeAt (s1.thr.epc.toNat % 32) bs ≠ .pad → stBit bs = true →
            u.ePath.head? = some s1.thr.epc))) ∧
  (∀ fn, 3 ≤ fn → Illegal 0 0 49 fn)

/-! ## Control registers -/

namespace Sys2Proof.Claims

/-- The functions of CTL: read, write, set, clear (R156). -/
def ctlForm (f : Nat) (r : RArgs) : Instr :=
  match f with
  | 0 => .ctlCtlrd r
  | 1 => .ctlCtlwr r
  | 2 => .ctlCtlset r
  | _ => .ctlCtlclr r
def ctlNew (f : Nat) (old x : W64) : W64 :=
  match f with
  | 1 => x
  | 2 => old ||| x
  | _ => old &&& ~~~x

/-- The registers of R34 with their widths; the writer is HW for the read-only ones, H for those of handler mode. -/
def ctlTable : List (Nat × Nat × Writer) :=
  [(0x000, 7, .h), (0x001, 64, .h), (0x002, 64, .h), (0x003, 64, .h), (0x004, 64, .h), (0x005, 64, .h), (0x006, 64, .h), (0x007, 64, .h),
   (0x010, 5, .t), (0x011, 5, .t), (0x012, 3, .t), (0x020, 64, .hw), (0x021, 12, .hw), (0x022, 3, .hw), (0x023, 6, .hw), (0x024, 12, .hw),
   (0x025, 5, .hw), (0x030, 64, .h), (0x031, 64, .h), (0x032, 32, .h), (0x033, 64, .h), (0x040, 16, .h), (0x041, 5, .h), (0x050, 64, .h),
   (0x051, 64, .h), (0x052, 64, .h), (0x053, 64, .h), (0x060, 64, .hw), (0x061, 64, .hw), (0x062, 64, .hw), (0x063, 64, .hw),
   (0x064, 64, .hw), (0x065, 64, .hw), (0x066, 64, .hw), (0x067, 64, .hw), (0x070, 12, .hw)]

/-- A matrix key register. -/
def IsKey (n : Nat) : Prop := 0x050 ≤ n ∧ n ≤ 0x053
/-- A floating-point control register, which waits for older E-stream instructions (R114). -/
def IsFpCtl (n : Nat) : Prop := 0x010 ≤ n ∧ n ≤ 0x012

/-- An access of a control register is allowed in the thread's mode (R36). -/
def CtlAllowed (s : State) (f n : Nat) (wr : Writer) : Prop :=
  (IsKey n → s.thr.handler = true) ∧ (f ≠ 0 → wr ≠ .hw ∧ (wr = .h → s.thr.handler = true))

end Sys2Proof.Claims

/-- R34, R36, R114, R156: a CTL access is checked in the order of R36, then for BOUND_WRITE; an allowed one writes the old value to sD and,
in CTLWR, CTLSET and CTLCLR, the new value to the register; the floating-point registers wait for older E-stream instructions. -/
def Sys2Proof.Claims.CtlAccess : Prop :=
  ∀ (f : Nat) (r : RArgs) (s : State), f ≤ 3 →
    ((∀ e ∈ ctlTable, e.1 ≠ r.x16) → exec (ctlForm f r) s = .next (s.trapA ⟨.ctlAccess, 0, r.x16⟩)) ∧
    (∀ w wr, (r.x16, w, wr) ∈ ctlTable →
      (IsKey r.x16 → s.thr.handler = false → exec (ctlForm f r) s = .next (s.trapA ⟨.handlerOnly, 0, r.x16⟩)) ∧
      (f ≠ 0 → wr = .hw → exec (ctlForm f r) s = .next (s.trapA ⟨.readonlyReg, 0, r.x16⟩)) ∧
      (f ≠ 0 → wr = .h → s.thr.handler = false → exec (ctlForm f r) s = .next (s.trapA ⟨.handlerOnly, 0, r.x16⟩)) ∧
      (CtlAllowed s f r.x16 wr →
        (∀ n, r.d ≠ 0 → s.thr.levelDest false r.d = some n → exec (ctlForm f r) s = .next (s.trapA ⟨.boundWrite, 0, n⟩)) ∧
        (s.thr.checkDest r.d = .ok () →
          (IsFpCtl r.x16 → s.thr.ePath ≠ [] → Fresh s → exec (ctlForm f r) s = .next { s with thr := { s.thr with waitA := .estream } }) ∧
          ((IsFpCtl r.x16 → s.thr.ePath = []) → ∀ t,
            (let u := if f = 0 then s else s.ctlWrite r.x16 w (ctlNew f (s.ctlRead r.x16) (s.thr.getS r.a))
             u.thr.writeS r.d (s.ctlRead r.x16) = .ok t → exec (ctlForm f r) s = .next (doneA s 8 (u.setThr t)))))))

/-- R34, R36: a write of a control register that software may write keeps the bits of its width and changes nothing else; the indices
of R34 are all there is, with their widths and writers. -/
def Sys2Proof.Claims.CtlWriteRead : Prop :=
  (∀ n w wr, ctlEntry n = some (w, wr) ↔ (n, w, wr) ∈ ctlTable) ∧
  (∀ (s : State) (n w : Nat) (wr : Writer) (x : W64), (n, w, wr) ∈ ctlTable → wr ≠ .hw →
    (s.ctlWrite n w x).ctlRead n = BitVec.ofNat 64 (x.toNat % 2 ^ w) ∧
    (∀ k, k ≠ n → (s.ctlWrite n w x).ctlRead k = s.ctlRead k) ∧
    (∀ k, (s.ctlWrite n w x).thr.getS k = s.thr.getS k) ∧ (s.ctlWrite n w x).mem = s.mem)

/-- Control registers: checks, reads and writes: `CtlAccess`, `CtlWriteRead`. Where the spec is silent it states the choice of the model: log 59. -/
def Obligations.ControlRegisters : Prop := Sys2Proof.Claims.CtlAccess ∧ Sys2Proof.Claims.CtlWriteRead

/-! ## Memory accesses -/

namespace Sys2Proof.Claims

/-- The reserved top of a slice, directly or through the view of a virtual core of the context (R14, R16). -/
def InTail (nmax va size : Nat) : Prop :=
  (va < 0x400000 ∧ 0x3C0000 < va + size) ∨
  (0x10000000000 ≤ va ∧ va < 0x20000000000 ∧ (va - 0x10000000000) / 0x400000 < nmax ∧
    0x3C0000 < (va - 0x10000000000) % 0x400000 + size)

/-- The near guard (R15). -/
def InGuard (va : Nat) : Prop := 0x400000 ≤ va ∧ va < 0x1000000

/-- No set window covers an address. -/
def NoWindow (s : State) (va : Nat) : Prop := ∀ w ∈ s.ctx.windows.toList, w.covers va = false

/-- The 64 KiB granule of an address, a near one's by its name in the slice view of virtual core `v` (R16). -/
def granuleOf (v va : Nat) : Nat := (if va < 0x400000 then 0x10000000000 + v * 0x400000 + va else va) / 65536

/-- A parked access holds a granule: that of its address, and of a view address that of its backing block too (R145, R244). -/
def ParkedOn (v : Nat) (x : PAcc) (g : Nat) : Prop :=
  granuleOf v x.va = g ∨ ∃ w, x.view = some w ∧ granuleOf v (w.backing x.va).1 = g

/-- An access of a thread has no store parked on its granule to wait for, by whatever address either names it (R145). -/
def NotHeldBack (s : State) (ag : Agent) (va : Nat) : Prop :=
  ag.thread = true → ∀ p ∈ s.thr.replay, ∀ x ∈ p.accs, ¬ParkedOn ag.vcore x (granuleOf ag.vcore va)

/-- A write of a thread meets no bytes that a remote command of the thread, issued before it, has still to read (R211). -/
def ReadsDone (s : State) (ag : Agent) (a : Access) (pa : Nat) : Prop :=
  ag.thread = true → a.kind ≠ .read → s.mcmdReads s.nextId pa a.size = false

/-- A physical range reaches the reserved top of a slice (R14). -/
def PaTail (pa size : Nat) : Prop := pa < 0x240000000 ∧ 0x3C0000 < pa % 0x400000 + size

/-- The cause for which a leaf refuses an access by its R, W and CLASS bits (R141 step 6, R276, R360): a leaf of class 3 permits nothing. -/
def permCause (pte : Nat) (a : Access) : Option Cause :=
  let cls := pte / 32 % 8
  let r := cls ≠ 3 ∧ pte.testBit 2 = true
  let w := cls ≠ 3 ∧ pte.testBit 3 = true
  match a.kind with
  | .read => if r then none else some .permRead
  | .write => if w then none else some .permWrite
  | .atomic => if ¬w then some .permWrite else if ¬r then some .permRead else if cls = 1 then some .atomicClass else none
  | .fetch => none

end Sys2Proof.Claims

/-- R14, R15, R141: the order of the checks of an access, each with its cause and address: the address, alignment, the reserved top, the
guard, windows, translation, the leaf's permissions, its key, the holding. A near access that passes them and the watchpoints reaches the
core's own slice at the same offset, any other one the address that its leaf gives; a read of a view the block behind it, whose failures name
the view address. -/
def Sys2Proof.Claims.AccessCheckOrder : Prop :=
  ∀ (s : State) (ag : Agent) (a : Access),
    (2 ^ 56 < a.va + a.size → s.check ag a = .error (.trap ⟨.addressRange, a.va, 0⟩)) ∧
    (a.va + a.size ≤ 2 ^ 56 →
      (a.va % a.align ≠ 0 → s.check ag a = .error (.trap ⟨.misaligned, a.va, a.lane⟩)) ∧
      (a.va % a.align = 0 →
        (InTail s.ctx.nmax a.va a.size → s.check ag a = .error (.trap ⟨.contextTail, a.va, a.lane⟩)) ∧
        (¬InTail s.ctx.nmax a.va a.size →
          (InGuard a.va → s.check ag a = .error (.trap ⟨.nearRange, a.va, a.lane⟩)) ∧
          (∀ w, ¬InGuard a.va → findWindow s.windows a.va = some w → w.kind ≠ 6 → a.kind ≠ .read →
            s.check ag a = .error (.trap ⟨.windowStore, a.va, a.lane⟩)) ∧
          (∀ w, ¬InGuard a.va → findWindow s.windows a.va = some w → w.kind ≠ 6 → a.kind = .read → s.watchHit ag a = none →
            s.check ag a = .ok (.gen w)) ∧
          (¬InGuard a.va → NoWindow s a.va → NotHeldBack s ag a.va → a.va < 0x400000 →
            (∀ c, s.ctx.holdingCause ag a = some c → s.check ag a = .error (.trap ⟨c, a.va, a.lane⟩)) ∧
            (s.ctx.holdingCause ag a = none → ReadsDone s ag a (s.physOf ag.vcore * 0x400000 + a.va) → s.watchHit ag a = none →
              s.check ag a = .ok (.mem (s.physOf ag.vcore * 0x400000 + a.va)))) ∧
          (¬InGuard a.va → NoWindow s a.va → NotHeldBack s ag a.va → 0x400000 ≤ a.va →
            (∀ e, s.translate ag a = .error (.trap e) → s.check ag a = .error (.trap e)) ∧
            (∀ pte pa, s.translate ag a = .ok (pte, pa) →
              (PaTail pa a.size → s.check ag a = .error (.trap ⟨.contextTail, a.va, a.lane⟩)) ∧
              (¬PaTail pa a.size →
                (∀ c, permCause pte a = some c → s.check ag a = .error (.trap ⟨c, a.va, a.lane⟩)) ∧
                (permCause pte a = none →
                  (0x80000000000 ≤ pa → s.keyLoaded (pteSlot pte) s.ctx.id = false →
                    s.check ag a = .error (.trap ⟨.keyInvalid, a.va, pteSlot pte⟩)) ∧
                  (pa < 0x80000000000 ∨ s.keyLoaded (pteSlot pte) s.ctx.id = true →
                    (∀ c, s.ctx.holdingCause ag a = some c → s.check ag a = .error (.trap ⟨c, a.va, a.lane⟩)) ∧
                    (s.ctx.holdingCause ag a = none → ReadsDone s ag a (busOf (pteSlot pte) pa) →
                      (∀ n, s.watchHit ag a = some n → s.check ag a = .error (.trap ⟨.watchpoint, a.va, n⟩)) ∧
                      (s.watchHit ag a = none → s.check ag a = .ok (.mem (busOf (pteSlot pte) pa))))))))) ∧
          (∀ w, ¬InGuard a.va → findWindow s.windows a.va = some w → w.kind = 6 → a.kind = .read → NotHeldBack s ag a.va →
            let b : Access := { a with va := (w.backing a.va).1, size := (mxKind (w.par 2)).2.2.2 }
            placeCheck s.ctx.nmax b = .ok () → NotHeldBack s ag b.va →
            (∀ e, s.checkMem ag b = .error (.trap e) → s.check ag a = .error (.trap { e with fdetail := a.va })) ∧
            (∀ pa, s.checkMem ag b = .ok pa → s.watchHit ag a = none → s.check ag a = .ok (.conv w pa))))))

namespace Sys2Proof.Claims

/-- A byte lies in a lane's frame (R305). -/
def InLaneFrame (fb : Nat) (l : LaneRec) (x : Nat) : Prop := fb + l.task.frame ≤ x ∧ x < fb + l.task.frame + 16 * l.task.fsize
/-- What a lane may write in the arena (R306, R370): its result slot, and its frame where it is not RESTARTABLE. -/
def LaneWrites (fb : Nat) (l : LaneRec) (x : Nat) : Prop :=
  (l.task.result ≠ 0xFFFFFFFF ∧ fb + l.task.result ≤ x ∧ x < fb + l.task.result + 2 ^ l.task.rs) ∨
    (l.task.restart = false ∧ InLaneFrame fb l x)

end Sys2Proof.Claims

/-- R306, R370, R371: whose frames hold an access of the arena. Each byte of a scalar access must be some live lane's to write, or to read;
each byte of a lane's own access that lane's; an engine writes none. -/
def Sys2Proof.Claims.FrameWindows : Prop :=
  ∀ (fb : Nat) (lanes : List LaneRec) (a : Access),
    (a.who = .scalar ∨ (∃ i, a.who = .anyLane i) →
      (frameAllows fb lanes true a = true ↔ ∀ x, a.va ≤ x → x < a.va + a.size → ∃ l ∈ lanes, LaneWrites fb l x) ∧
      (frameAllows fb lanes false a = true ↔ ∀ x, a.va ≤ x → x < a.va + a.size → ∃ l ∈ lanes, InLaneFrame fb l x)) ∧
    (∀ i, a.who = .lane i →
      (frameAllows fb lanes true a = true ↔ ∃ l, lanes[i]? = some l ∧ ∀ x, a.va ≤ x → x < a.va + a.size → LaneWrites fb l x) ∧
      (frameAllows fb lanes false a = true ↔ ∃ l, lanes[i]? = some l ∧ ∀ x, a.va ≤ x → x < a.va + a.size → InLaneFrame fb l x)) ∧
    (a.who = .other → frameAllows fb lanes true a = false)

/-- R273, R275, R276, R368, R371: what the class of a byte's holding permits, and the cause of a refused access; a byte in no holding may be read
outside a deterministic launch and never written. -/
def Sys2Proof.Claims.HoldingClasses : Prop :=
  ∀ (c : Ctx) (ag : Agent) (a : Access), restartConfines ag.lanes a = false →
    (findHolding c.holdings (holdingAddr ag.vcore a.va) = none →
      (a.kind = .read → ag.det = false → c.holdingCause ag a = none) ∧
      (a.kind = .write ∨ a.kind = .atomic → c.holdingCause ag a = some .holdingInvalid)) ∧
    (∀ n h, findHolding c.holdings (holdingAddr ag.vcore a.va) = some (n, h) →
      (h.cls = .exclusive → h.heldBy ag.vcore = true → c.holdingCause ag a = none) ∧
      (h.cls = .exclusive → h.heldBy ag.vcore = false →
        (a.kind = .read → c.holdingCause ag a = if ag.det then some .nondetOp else none) ∧
        (a.kind = .write ∨ a.kind = .atomic → c.holdingCause ag a = some .notHolder)) ∧
      (h.cls = .localOnly → c.holdingCause ag a = if h.heldBy ag.vcore then none else some .localNotHolder) ∧
      (h.cls = .common →
        (a.kind = .write → c.holdingCause ag a = some .commonPlainStore) ∧
        (a.kind = .atomic → c.holdingCause ag a = if ag.det && a.fetching then some .nondetOp else none) ∧
        (a.kind = .read → c.holdingCause ag a = if ag.det then some .nondetOp else none)) ∧
      (h.cls = .queue → (a.kind = .read → c.holdingCause ag a = none) ∧
        (a.kind = .write ∨ a.kind = .atomic → c.holdingCause ag a = some .notHolder)) ∧
      (h.cls = .sealed → (a.kind = .read → c.holdingCause ag a = none) ∧
        (a.kind = .write ∨ a.kind = .atomic → c.holdingCause ag a = some .sealedWrite)) ∧
      (h.cls = .frame → a.kind = .read → ag.det = false → c.holdingCause ag a = none) ∧
      (h.cls = .frame → a.kind = .read → ag.det = true →
        c.holdingCause ag a = if frameAllows c.framebase.toNat ag.lanes false a then none else some .nondetOp) ∧
      (h.cls = .frame → a.kind = .write →
        c.holdingCause ag a = if frameAllows c.framebase.toNat ag.lanes true a then none else some .frameWindow) ∧
      (h.cls = .frame → a.kind = .atomic →
        c.holdingCause ag a =
          if frameAllows c.framebase.toNat ag.lanes true a = false then some .frameWindow
          else if ag.det = true ∧ frameAllows c.framebase.toNat ag.lanes false a = false then some .nondetOp else none))

/-- The order of the checks of an access, whose frames hold one of the arena, and what holding classes permit: `AccessCheckOrder`,
`FrameWindows`, `HoldingClasses`. Where the spec is silent it states the choices of the model: log 13, log 17, log 49, log 53. -/
def Obligations.AccessChecks : Prop :=
  Sys2Proof.Claims.AccessCheckOrder ∧ Sys2Proof.Claims.FrameWindows ∧ Sys2Proof.Claims.HoldingClasses

namespace Sys2Proof.Claims

/-- The newest of a thread's own stores that covers a byte, oldest first in the list. -/
def newest (stores : List PStore) (pa : Nat) : Option PStore :=
  stores.reverse.find? fun p => decide (p.pa ≤ pa) && decide (pa < p.pa + p.bytes.length)

/-- A byte at a bus address as the thread in focus sees it: of a slice its newest own store, else memory; of pool and far memory what would
be read there under the address's key with its stores performed (R142, R372). -/
def seen (s : State) (pa : Nat) : Byte :=
  if pa < 0x80000000000 then
    match newest s.thr.stores pa with
    | some p => p.bytes[pa - p.pa]?.getD 0
    | none => s.mem.read pa
  else (s.thr.stores.foldl (fun u p => u.writePhys p.pa p.bytes) s).busByte pa

/-- A range of bus addresses lies in the slices, or in pool and far memory under one key slot. -/
def Whole (pa n : Nat) : Prop := pa + n ≤ 0x80000000000 ∨ (0x80000000000 ≤ paOf pa ∧ paOf pa + n ≤ 2 ^ 54)

/-- An access reaches memory: its range is whole, and no link or memory word on its way has failed (R26 to R28, R392). -/
def Reaches (s : State) (pa size : Nat) : Prop := Whole pa size ∧ s.accessFails pa size = none

/-- The number that `n` bytes from `pa` on make, as the thread sees them. -/
def seenNum (s : State) (pa n : Nat) : Nat := leNat ((List.range n).map fun i => seen s (pa + i))

/-- The effective address of format M (R45). -/
def ea (m : MArgs) (s : State) : W64 := s.thr.getS m.a + (s.thr.getS m.b <<< m.sc) + (BitVec.ofNat 20 m.off).signExtend 64

/-- The size of an LD and what it makes of the element (R143). -/
def loadSize (fn : Nat) : Nat := if fn ≤ 1 then 1 else if fn ≤ 3 then 2 else if fn ≤ 5 then 4 else 8
def loadExtend (fn : Nat) (x : Nat) : W64 :=
  if fn = 0 then (BitVec.ofNat 8 x).signExtend 64
  else if fn = 2 then (BitVec.ofNat 16 x).signExtend 64
  else if fn = 4 then (BitVec.ofNat 32 x).signExtend 64
  else BitVec.ofNat 64 x

end Sys2Proof.Claims

/-- R142: a load returns, byte by byte, the thread's own latest older store to the byte, else what memory holds. -/
def Obligations.LoadsSeeOwnStores : Prop :=
  ∀ (s : State) (a : Access) (pa : Nat), Reaches s pa a.size →
    ∃ bs, s.readTarget s.agent a (.mem pa) = .ok bs ∧ bs.length = a.size ∧ ∀ i, i < a.size → bs[i]? = some (seen s (pa + i))

/-- R45, R143: LD writes the element at its effective address, extended as FN says; where the access is refused it traps with the first
cause, and where its translation is not yet in the L1 TLB it waits. -/
def Sys2Proof.Claims.LoadResults : Prop :=
  ∀ fn (m : MArgs) (s : State), fn ≤ 6 →
    let a := readAcc (ea m s).toNat (loadSize fn)
    (∀ n, m.d ≠ 0 → s.thr.levelDest false m.d = some n → exec (.ld fn m) s = .next (s.trapA ⟨.boundWrite, 0, n⟩)) ∧
    (s.thr.checkDest m.d = .ok () →
      (∀ e, s.check s.agent a = .error (.trap e) → exec (.ld fn m) s = .next (s.trapA e)) ∧
      (∀ w, Fresh s → s.check s.agent a = .error (.wait w) → exec (.ld fn m) s = .next { s with thr := { s.thr with waitA := w } }) ∧
      (∀ pa t, s.check s.agent a = .ok (.mem pa) → Reaches s pa a.size →
        s.thr.writeS m.d (loadExtend fn (seenNum s pa a.size)) = .ok t →
        exec (.ld fn m) s = .next (doneA s 8 ((s.traffic false [.mem pa]).setThr t))) ∧
      (∀ pa e, s.check s.agent a = .ok (.mem pa) → Reaches s pa a.size →
        s.thr.writeS m.d (loadExtend fn (seenNum s pa a.size)) = .error (.trap e) → exec (.ld fn m) s = .next (s.trapA e)) ∧
      (∀ pa c d, s.check s.agent a = .ok (.mem pa) → s.accessFails pa a.size = some (c, d) → c ≠ .sramUncorrectable →
        exec (.ld fn m) s = .next (s.trapA ⟨c, a.va, d⟩)) ∧
      (∀ w t, s.check s.agent a = .ok (.gen w) →
        s.thr.writeS m.d (loadExtend fn (leNat ((List.range a.size).map fun i => w.byte (a.va + i)))) = .ok t →
        exec (.ld fn m) s = .next (doneA s 8 (s.setThr t))) ∧
      (∀ w pa t bs, s.check s.agent a = .ok (.conv w pa) → s.viewBytes s.agent w pa a.va a.size = .ok bs →
        s.thr.writeS m.d (loadExtend fn (leNat bs)) = .ok t →
        exec (.ld fn m) s = .next (doneA s 8 ((s.traffic false [.mem pa]).setThr t))))

namespace Sys2Proof.Claims

/-- The state that a store leaves before its completion: its bytes wait to be performed, in program order (R142, R252). -/
def storeLeft (s : State) (p : List PStore) : State := { s with thr := { s.thr with stores := s.thr.stores ++ p } }

/-- The state that a parked store leaves (R145). -/
def storeParked (s : State) (p : Parked) : State :=
  { s with thr := { s.thr with replay := s.thr.replay ++ [p] }, nextId := s.nextId + 1 }

/-- What stands before a store: a plain one acts at once; a release first waits for the replay queue, with every earlier store
performed (R142, R144). -/
def Before (s : State) (ord : Nat) (s1 : State) : Prop := (ord = 0 ∧ s1 = s) ∨ (ord = 2 ∧ s.drain = .ok s1)

end Sys2Proof.Claims

/-- R45, R128, R142, R144, R145: ST writes the low 8, 16, 32 or 64 bits of sD to its effective address. A store that passes its checks leaves
the thread; one into a CONVERT view, whose blocks are longer, is ALIAS_PARTIAL; one whose only failure is a missing translation parks, or
waits for a free entry of the replay queue, where it is not checked again; any other failure is a precise trap. -/
def Sys2Proof.Claims.StoreResults : Prop :=
  (∀ fn (m : MArgs) (s : State) (p : Parked), fn ≤ 3 → m.ord = 0 → s.thr.waitA = .replayRoom p →
    exec (.st fn m) s = .next (if s.thr.replay.length < 16 then doneA s 8 (storeParked s p) else s)) ∧
  ∀ fn (m : MArgs) (s s1 : State), fn ≤ 3 → Before s m.ord s1 → (∀ p, s.thr.waitA ≠ .replayRoom p) →
    let a := writeAcc (ea m s).toNat (2 ^ fn)
    let bs := leBytes (2 ^ fn) ((s.thr.getS m.d).toNat % 2 ^ (8 * 2 ^ fn))
    (∀ pa, s1.check s1.agent a = .ok (.mem pa) →
      exec (.st fn m) s = .next (doneA s 8 ((storeLeft s1 [⟨a.va, pa, bs, none⟩]).traffic true [.mem pa]))) ∧
    (∀ w, a.va + a.size ≤ 2 ^ 56 → a.va % a.align = 0 → ¬InTail s1.ctx.nmax a.va a.size → ¬InGuard a.va → findWindow s1.windows a.va = some w →
      w.kind = 6 → 0 < winSize w.fmt → exec (.st fn m) s = .next (s.trapA ⟨.aliasPartial, a.va, 0⟩)) ∧
    (∀ e, s1.check s1.agent a = .error (.trap e) → e.cause = .pageFaultWrite → NoWindow s1 a.va →
      let p : Parked := { order := s1.nextId, accs := [{ va := a.va, bytes := bs, lane := none, missing := true, view := none }], failed := none }
      (∀ n, s1.watchHit s1.agent a = some n → exec (.st fn m) s = .next (s.trapA ⟨.watchpoint, a.va, n⟩)) ∧
      (s1.watchHit s1.agent a = none → s1.thr.replay.length < 16 → exec (.st fn m) s = .next (doneA s 8 (storeParked s1 p))) ∧
      (s1.watchHit s1.agent a = none → 16 ≤ s1.thr.replay.length →
        exec (.st fn m) s = .next { s with thr := { s.thr with waitA := .replayRoom p } })) ∧
    (∀ e, s1.check s1.agent a = .error (.trap e) → e.cause ≠ .pageFaultWrite ∨ ¬NoWindow s1 a.va →
      exec (.st fn m) s = .next (s.trapA e)) ∧
    (∀ w, Fresh s → s1.check s1.agent a = .error (.wait w) → exec (.st fn m) s = .next { s with thr := { s.thr with waitA := w } })

/-- Results of LD and ST: `LoadResults`, `StoreResults`. Where the spec is silent it states the choices of the model: log 12, log 13, log
16. -/
def Obligations.LoadsAndStores : Prop := Sys2Proof.Claims.LoadResults ∧ Sys2Proof.Claims.StoreResults

namespace Sys2Proof.Claims

/-- Everything that a program can name but memory is as before: registers, queues, links, control registers, the core, the context. -/
def RegistersSame (s s' : State) : Prop :=
  s'.thr.s = s.thr.s ∧ s'.thr.v = s.thr.v ∧ s'.thr.m = s.thr.m ∧ s'.thr.q = s.thr.q ∧ s'.thr.k = s.thr.k ∧ s'.thr.l = s.thr.l ∧
    s'.thr.lanes = s.thr.lanes ∧ FpSame s.thr s'.thr ∧ ExcSame s.thr s'.thr ∧ s'.vc = (stepped s).vc ∧ s'.ctx = (stepped s).ctx

end Sys2Proof.Claims

/-- R143, R144: the frame of plain loads and stores. A load that completes changes its destination and link destinations only, and every
byte of memory reads as before. A store that completes changes no register; the thread sees its bytes at the address that the check of
the effective address gives, and every other byte, in memory and as the thread sees it, as before. (A word of pool or far memory that
two keys share has one plaintext under each: of such memory the clause speaks of the bytes under the key of the store, R372.) -/
def Obligations.LoadStoreFrame : Prop :=
  (∀ fn (m : MArgs) (s s' : State) (pa : Nat), fn ≤ 6 →
    s.thr.checkDest m.d = .ok () → s.check s.agent (readAcc (ea m s).toNat (loadSize fn)) = .ok (.mem pa) →
    Reaches s pa (loadSize fn) →
    exec (.ld fn m) s = .next s' →
    (s'.thr.apc = s.thr.apc + 8 ∧ FrameS (Reached s.thr m.d) s s') ∨ ∃ n, s' = s.trapA ⟨.linkOverflow, 0, n⟩) ∧
  (∀ fn (m : MArgs) (s : State) (pa : Nat), fn ≤ 3 → m.ord = 0 → (∀ p, s.thr.waitA ≠ .replayRoom p) →
    s.check s.agent (writeAcc (ea m s).toNat (2 ^ fn)) = .ok (.mem pa) → Whole pa (2 ^ fn) →
    ∃ s', exec (.st fn m) s = .next s' ∧ RegistersSame s s' ∧ (∀ x, s'.mem.read x = s.mem.read x) ∧
      (∀ x, paOf x < paOf pa ∨ paOf pa + 2 ^ fn ≤ paOf x →
        x < 0x80000000000 ∨ (0x80000000000 ≤ paOf x ∧ (pa < 0x80000000000 ∨ s.keyAt (slotOfBus x) = s.keyAt (slotOfBus pa))) →
        seen s' x = seen s x) ∧
      (∀ k, k < 2 ^ fn → seen s' (pa + k) = ((s.thr.getS m.d) >>> (8 * k)).setWidth 8))

/-! ## Queues -/

namespace Sys2Proof.Claims

/-- The state in which the A-stream's next instruction waits. -/
def waiting (s : State) (w : Wait) : State := { s with thr := { s.thr with waitA := w } }

/-- Queue `q` holds these entries. -/
def withQ (s : State) (q : Nat) (es : List QEntry) : State := { s with thr := s.thr.setQ q es }

/-- The address of lane i of VLQ and VSQ: unit stride where B names s0, else the stride register shifted by SC (R147, R148). -/
def lineAddr (m : MArgs) (s : State) (size i : Nat) : Nat :=
  (s.thr.getS m.a + (BitVec.ofNat 20 m.off).signExtend 64 +
    BitVec.ofNat 64 i * (if m.b = 0 then BitVec.ofNat 64 size else s.thr.getS m.b <<< m.sc)).toNat

/-- The address of lane i through an index lane (R149, R150). -/
def pickAddr (m : MArgs) (s : State) (x : Lanes) (i : Nat) : Nat :=
  (s.thr.getS m.a + ((x.lane i).signExtend 64 <<< m.sc) + (BitVec.ofNat 20 m.off).signExtend 64).toNat

/-- The element size of VLQ and GATHQ, and the lane that an element makes (R147). -/
def queueSize (fn : Nat) : Nat := if fn ≤ 1 then 1 else if fn ≤ 3 then 2 else 4
def queueExtend (fn x : Nat) : W32 :=
  if fn = 0 then (BitVec.ofNat 8 x).signExtend 32 else if fn = 2 then (BitVec.ofNat 16 x).signExtend 32 else BitVec.ofNat 32 x

/-- The lanes whose bit is set in a mask, ascending. -/
def lanesOf (mask : W32) : List Nat := (List.range 32).filter fun i => mask.getLsbD i

/-- The accesses of the active lanes of a store, with their bytes (R148, R150). -/
def laneWrites (mask : W32) (size : Nat) (addr : Nat → Nat) (d : Lanes) : List (Access × List Byte) :=
  (lanesOf mask).map fun i =>
    ({ writeAcc (addr i) size (.lane i) with cover := (lanesOf mask).map fun k => (addr k, size) },
      leBytes size ((d.lane i).toNat % 2 ^ (8 * size)))

/-- A parked vector store holds each access with its bytes and its lane, which of them had no translation, and the view of one whose view it
passed (R145, R244). -/
def ParksAs (order : Nat) (xs : List (Access × List Byte)) (slots : List Slot) (p : Parked) : Prop :=
  p.order = order ∧ p.failed = none ∧ p.accs.map PAcc.va = xs.map (fun x => x.1.va) ∧ p.accs.map PAcc.bytes = xs.map Prod.snd ∧
    (p.accs.map PAcc.lane = xs.map fun x => match x.1.who with | .lane i => some i | _ => none) ∧
    p.accs.map PAcc.missing = slots.map (fun x => decide (x = .missing)) ∧
    p.accs.map PAcc.view = slots.map fun x => match x with | .ready (.conv w _) => some w | _ => none

/-- A vector store of these accesses, after whatever its order demands, with the popped queues as `pops` leaves them: every active lane
passes its checks and the lanes leave the thread in ascending order; or no lane fails a check that can be made and one has no
translation, and the whole store parks, or waits for a free entry and is then not checked again; or it traps with the first stop of the
lowest lane (R145, R151). -/
def VectorStores (i : Instr) (s s1 : State) (xs : List (Access × List Byte)) (pops : Thread → Thread) : Prop :=
  (∀ p, s1.thr.waitA = .replayRoom p →
    (s1.thr.replay.length < 16 → exec i s = .next (doneA s 8 ((storeParked s1 p).updThr pops))) ∧
    (16 ≤ s1.thr.replay.length → exec i s = .next (waiting s (.replayRoom p)))) ∧
  ((∀ p, s1.thr.waitA ≠ .replayRoom p) →
    (∀ slots, s1.checkStores s1.agent (xs.map Prod.fst) = .ok slots → .missing ∉ slots →
      let ps := storesOf xs xs slots
      exec i s = .next (doneA s 8 (((storeLeft s1 ps).traffic true (ps.map fun p => .mem p.pa)).updThr pops))) ∧
    (∀ slots, s1.checkStores s1.agent (xs.map Prod.fst) = .ok slots → .missing ∈ slots →
      ∃ p : Parked, ParksAs s1.nextId xs slots p ∧
        (s1.thr.replay.length < 16 → exec i s = .next (doneA s 8 ((storeParked s1 p).updThr pops))) ∧
        (16 ≤ s1.thr.replay.length → exec i s = .next (waiting s (.replayRoom p)))) ∧
    (∀ e, s1.checkStores s1.agent (xs.map Prod.fst) = .error (.trap e) → exec i s = .next (s.trapA e)))

/-- A store covers a byte of memory. -/
def Covers (p : PStore) (pa : Nat) : Prop := p.pa ≤ pa ∧ pa < p.pa + p.bytes.length

/-- The byte that a group of accesses leaves at an address of a view block: that of the last access which covers it, 0 where none does. -/
def lastByte (all : List (Access × List Byte)) (va : Nat) : Byte :=
  match all.reverse.find? fun x => decide (x.1.va ≤ va) && decide (va < x.1.va + x.2.length) with
  | some x => x.2[va - x.1.va]?.getD 0
  | none => 0

end Sys2Proof.Claims

/-- R128, R142, R148, R150, R151, R244: the bytes that a vector store leaves. Outside views each active lane makes one store, of the low bits of
its lane at its own address; the thread then sees at a byte of a slice what the highest lane that covers it wrote, and elsewhere what it
saw before. Of a view, the lanes of one block make one store between them, in the place of the last of them: the encoded block, whole, at its
backing address; so where two views share a block the highest lane decides. -/
def Sys2Proof.Claims.LaneBytes : Prop :=
  (∀ (all xs : List (Access × List Byte)) (pas : List Nat), pas.length = xs.length →
    storesOf all xs (pas.map fun pa => .ready (.mem pa)) =
      (xs.zip pas).map fun y => { va := y.1.1.va, pa := y.2, bytes := y.1.2, view := none }) ∧
  (∀ (mask : W32) (size : Nat) (addr : Nat → Nat) (d : Lanes) (k i : Nat), (lanesOf mask)[k]? = some i →
    ∃ a, (laneWrites mask size addr d)[k]? = some (a, (List.range size).map fun j => ((d.lane i) >>> (8 * j)).setWidth 8) ∧
      a.va = addr i ∧ a.size = size ∧ a.kind = .write ∧ a.who = .lane i) ∧
  (∀ (s : State) (ps : List PStore) (x : Nat), x < 0x80000000000 →
    (∀ before p after, ps = before ++ p :: after → Covers p x → (∀ y ∈ after, ¬Covers y x) →
      seen (storeLeft s ps) x = p.bytes[x - p.pa]?.getD 0) ∧
    ((∀ p ∈ ps, ¬Covers p x) → seen (storeLeft s ps) x = seen s x)) ∧
  (∀ (all xs : List (Access × List Byte)) (x : Access × List Byte) (w : Window) (ts : List Slot) (pa : Nat),
    let vb := 32 * winSize w.fmt
    let k := (x.1.va - w.base) / vb
    let b := w.par 0 + 2 ^ 32 * w.par 1 + k * (mxKind (w.par 2)).2.2.2
    ((∃ y ∈ xs, w.covers y.1.va = true ∧ (y.1.va - w.base) / vb = k) →
      storesOf all (x :: xs) (.ready (.conv w pa) :: ts) = storesOf all xs ts) ∧
    ((∀ y ∈ xs, w.covers y.1.va = true → (y.1.va - w.base) / vb ≠ k) →
      storesOf all (x :: xs) (.ready (.conv w pa) :: ts) =
        { va := b, pa := pa, bytes := w.encodeBlock ((List.range vb).map fun j => lastByte all (w.base + k * vb + j)), view := some x.1.va } ::
          storesOf all xs ts))

/-- R10, R146, R147, R149, R151: VLQ pushes 32 loaded lanes with a full mask, GATHQ the lanes that its popped index entry names, zero in the
others, with that entry's mask; every active lane passes its checks before one is read; an empty index queue holds the instruction, and so
does a full destination, with the entry that has been read, which is pushed when there is room. -/
def Sys2Proof.Claims.QueueLoads : Prop :=
  (∀ fn (m : MArgs) (s : State) q e, s.thr.waitA = .held q e →
    ((s.thr.getQ q).length < 16 → exec (.vlq fn m) s = .next (doneA s 8 (withQ s q (s.thr.getQ q ++ [e])))) ∧
    (16 ≤ (s.thr.getQ q).length → exec (.vlq fn m) s = .next s)) ∧
  (∀ fn (m : MArgs) (s : State), fn ≤ 4 → (∀ q e, s.thr.waitA ≠ .held q e) →
    let as := (List.range 32).map fun i => readAcc (lineAddr m s (queueSize fn) i) (queueSize fn) (.anyLane i)
    (∀ e, s.checkAll s.agent as = .error (.trap e) → exec (.vlq fn m) s = .next (s.trapA e)) ∧
    (∀ ts xs, s.checkAll s.agent as = .ok ts → s.readAll s.agent as ts = .ok xs →
      ∃ e : QEntry, e.mask = BitVec.allOnes 32 ∧ e.ready = false ∧ (∀ i, i < 32 → e.lanes.lane i = queueExtend fn (xs[i]?.getD 0)) ∧
        (16 ≤ (s.thr.getQ m.d).length → exec (.vlq fn m) s = .next (waiting (s.traffic false ts) (.held m.d e))) ∧
        ((s.thr.getQ m.d).length < 16 →
          exec (.vlq fn m) s = .next (doneA s 8 ((withQ s m.d (s.thr.getQ m.d ++ [e])).traffic false ts))))) ∧
  (∀ fn (m : MArgs) (s : State), fn ≤ 4 →
    (s.thr.getQ m.b = [] → Fresh s → exec (.gathq fn m) s = .next (waiting s (.popFirst m.b))) ∧
    (∀ x rest, s.thr.getQ m.b = x :: rest →
      (x.ready = false → Fresh s → exec (.gathq fn m) s = .next (waiting s (.popFirst m.b))) ∧
      (∀ e, x.ready = true → m.b ≠ m.d → s.thr.waitA = .held m.d e →
        ((s.thr.getQ m.d).length < 16 →
          exec (.gathq fn m) s = .next (doneA s 8 (withQ (withQ s m.b rest) m.d (s.thr.getQ m.d ++ [e])))) ∧
        (16 ≤ (s.thr.getQ m.d).length → exec (.gathq fn m) s = .next s)) ∧
      (x.ready = true → m.b ≠ m.d → (∀ q e, s.thr.waitA ≠ .held q e) →
        let as := (lanesOf x.mask).map fun i => readAcc (pickAddr m s x.lanes i) (queueSize fn) (.lane i)
        (∀ e, s.checkAll s.agent as = .error (.trap e) → exec (.gathq fn m) s = .next (s.trapA e)) ∧
        (∀ (ts : List Target) (xs : List Nat), s.checkAll s.agent as = .ok ts → s.readAll s.agent as ts = .ok xs →
          ∃ e : QEntry, e.mask = x.mask ∧ e.ready = false ∧
            (∀ k i : Nat, (lanesOf x.mask)[k]? = some i → e.lanes.lane i = queueExtend fn (xs[k]?.getD 0)) ∧
            (∀ i, i < 32 → x.mask.getLsbD i = false → e.lanes.lane i = 0) ∧
            (16 ≤ (s.thr.getQ m.d).length → exec (.gathq fn m) s = .next (waiting (s.traffic false ts) (.held m.d e))) ∧
            ((s.thr.getQ m.d).length < 16 → exec (.gathq fn m) s =
              .next (doneA s 8 ((withQ (withQ s m.b rest) m.d (s.thr.getQ m.d ++ [e])).traffic false ts)))))))

/-- R146, R148, R150, R151: VSQ stores the active lanes of one popped entry, SCATQ those of a popped index entry and a popped data entry;
nothing is popped unless the store leaves the thread or parks. -/
def Sys2Proof.Claims.QueueStores : Prop :=
  (∀ (m : MArgs) (s s1 : State), Before s m.ord s1 →
    (s.thr.getQ m.d = [] → Fresh s → exec (.vsq 0 m) s = .next (waiting s (.popFirst m.d))) ∧
    (∀ e rest, s.thr.getQ m.d = e :: rest →
      (e.ready = false → Fresh s → exec (.vsq 0 m) s = .next (waiting s (.popFirst m.d))) ∧
      (e.ready = true → m.d < 8 →
        VectorStores (.vsq 0 m) s s1 (laneWrites e.mask (2 ^ m.sz) (lineAddr m s (2 ^ m.sz)) e.lanes) fun t => t.setQ m.d rest))) ∧
  (∀ (m : MArgs) (s s1 : State), Before s m.ord s1 → m.b ≠ m.d →
    (s.thr.getQ m.b = [] → Fresh s → exec (.scatq 0 m) s = .next (waiting s (.popFirst m.b))) ∧
    (∀ x rest, s.thr.getQ m.b = x :: rest → x.ready = true →
      (s.thr.getQ m.d = [] → Fresh s → exec (.scatq 0 m) s = .next (waiting s (.popFirst m.d))) ∧
      (∀ d rest', s.thr.getQ m.d = d :: rest' → d.ready = true → m.b < 8 → m.d < 8 →
        VectorStores (.scatq 0 m) s s1 (laneWrites (x.mask &&& d.mask) (2 ^ m.sz) (pickAddr m s x.lanes) d.lanes)
          fun t => (t.setQ m.b rest).setQ m.d rest')))

/-- R10, R146, R152, R154: QPUSHS pushes a full entry of its register, QPOPS pops one into its register with the settle of that write, QCNT
counts the entries, XSYNC waits for the older E-stream instructions. Where the settle could overflow, QPOPS waits as an instruction that
can still fault. -/
def Sys2Proof.Claims.QueueOperations : Prop :=
  (∀ (t : Thread) d x, t.mayOverflow d = false → ∃ t', t.writeS d x = .ok t') ∧
  (∀ (r : RArgs) (s : State),
    (16 ≤ (s.thr.getQ r.d).length → exec (.qopQpushs r) s = .next (waiting s (.push r.d))) ∧
    ((s.thr.getQ r.d).length < 16 → ∃ e : QEntry, e.mask = BitVec.allOnes 32 ∧ e.ready = true ∧
      (∀ i, i < 32 → e.lanes.lane i =
        if r.ty = 0 ∧ i % 2 = 1 then (s.thr.getS r.a >>> 32).setWidth 32 else (s.thr.getS r.a).setWidth 32) ∧
      exec (.qopQpushs r) s = .next (doneA s 8 (withQ s r.d (s.thr.getQ r.d ++ [e]))))) ∧
  (∀ (r : RArgs) (s : State),
    (∀ n, r.d ≠ 0 → s.thr.levelDest false r.d = some n → exec (.qopQpops r) s = .next (s.trapA ⟨.boundWrite, 0, n⟩)) ∧
    (s.thr.checkDest r.d = .ok () →
      (s.thr.getQ r.a = [] ∨ (∃ e rest, s.thr.getQ r.a = e :: rest ∧ e.ready = false) →
        (s.thr.mayOverflow r.d = false → exec (.qopQpops r) s = .next (waiting s (.pop r.a))) ∧
        (s.thr.mayOverflow r.d = true → Fresh s → exec (.qopQpops r) s = .next (waiting s (.popFirst r.a)))) ∧
      (∀ e rest, s.thr.getQ r.a = e :: rest → e.ready = true →
        let x := if r.ty = 0 then (e.lanes.lane 1).append (e.lanes.lane 0) else (e.lanes.lane 0).signExtend 64
        (∀ t, (s.thr.setQ r.a rest).writeS r.d x = .ok t → exec (.qopQpops r) s = .next (doneA s 8 (s.setThr t))) ∧
        (∀ e, (s.thr.setQ r.a rest).writeS r.d x = .error (.trap e) → exec (.qopQpops r) s = .next (s.trapA e))))) ∧
  (∀ r : RArgs, WritesS (.qopQcnt r) 8 r.d fun s => BitVec.ofNat 64 (s.thr.getQ r.a).length) ∧
  (∀ (r : RArgs) (s : State), (s.thr.ePath = [] → exec (.qopXsync r) s = .next (doneA s 8 s)) ∧
    (s.thr.ePath ≠ [] → Fresh s → exec (.qopXsync r) s = .next (waiting s .estream))) ∧
  (∀ fn, 4 ≤ fn → Illegal 0 0 39 fn)

/-- Queue loads, queue stores with the bytes they leave, and queue operations: `QueueLoads`, `QueueStores`, `LaneBytes`, `QueueOperations`. Where
the spec is silent it states the choices of the model: log 12, log 13, log 16. -/
def Obligations.Queues : Prop :=
  Sys2Proof.Claims.QueueLoads ∧ Sys2Proof.Claims.QueueStores ∧ Sys2Proof.Claims.LaneBytes ∧ Sys2Proof.Claims.QueueOperations

/-! ## Atomics, fences, waits, tokens, holdings -/

namespace Sys2Proof.Claims

/-- The functions of ATOM and ATOMQ on words of w bits (R277). -/
def atomOp {w : Nat} (fn : Nat) (old b : BitVec w) : BitVec w :=
  match fn with
  | 0 => old + b
  | 1 => old &&& b
  | 2 => old ||| b
  | 3 => old ^^^ b
  | 4 => if old.sle b then old else b
  | 5 => if old.sle b then b else old
  | 6 => if old.ule b then old else b
  | 7 => if old.ule b then b else old
  | _ => b

/-- The forms of ATOM. -/
def atomForms (r : RArgs) : List (Nat × Instr) :=
  [(0, .atomAdd r), (1, .atomAnd r), (2, .atomOr r), (3, .atomXor r), (4, .atomMin r), (5, .atomMax r), (6, .atomMinn r), (7, .atomMaxn r),
   (8, .atomSwap r)]

/-- The bytes of a word, little-endian (R5). -/
def bytesOf {w : Nat} (x : BitVec w) : List Byte := leBytes (w / 8) x.toNat

/-- What an atomic does before its update: the thread's earlier stores are performed; a release also waits for the replay queue. -/
def Ordered (s : State) (ord : Nat) (s1 : State) : Prop := ((ord = 0 ∨ ord = 1) ∧ s1 = s.flush) ∨ ((ord = 2 ∨ ord = 3) ∧ s.drain = .ok s1)

/-- No bound A-kind link with CK set reads register `d` (R162). -/
def NoCkReader (t : Thread) (d : Nat) : Prop := ∀ x ∈ t.links false, x.2.ck = true → d ∉ x.2.reads

end Sys2Proof.Claims

/-- R162, R276, R277: ATOM reads its word, writes the new one in the same step, and writes the old one to sD with its settle; its faults
come in the order LINK_OPERAND, BOUND_WRITE, then those of the access, which is a read and a write of 8 bytes. -/
def Sys2Proof.Claims.AtomicUpdates : Prop :=
  (∀ (r : RArgs) (s : State) fn i, (fn, i) ∈ atomForms r →
    let a := atomicAcc (s.thr.getS r.a).toNat 8 (decide (r.d ≠ 0) || decide (fn = 8))
    (∀ x, r.d ≠ 0 → (s.thr.links false).find? (fun y => y.2.ck && y.2.reads.contains r.d) = some x →
      exec i s = .next (s.trapA ⟨.linkOperand, 0, x.1⟩)) ∧
    (r.d = 0 ∨ NoCkReader s.thr r.d →
      (∀ n, r.d ≠ 0 → s.thr.levelDest false r.d = some n → exec i s = .next (s.trapA ⟨.boundWrite, 0, n⟩)) ∧
      (s.thr.checkDest r.d = .ok () →
        (∀ e, s.check s.agent a = .error (.trap e) → exec i s = .next (s.trapA e)) ∧
        (∀ pa s1 t, s.check s.agent a = .ok (.mem pa) → Ordered s (r.x16 % 8) s1 → Reaches s1 pa 8 →
          s1.thr.writeS r.d (BitVec.ofNat 64 (seenNum s1 pa 8)) = .ok t →
          exec i s = .next (doneA s 8 (((s1.writePhys pa (bytesOf (atomOp fn (BitVec.ofNat 64 (seenNum s1 pa 8)) (s.thr.getS r.b)))).traffic
            true [.mem pa]).setThr t))) ∧
        (∀ pa s1 e, s.check s.agent a = .ok (.mem pa) → Ordered s (r.x16 % 8) s1 → Reaches s1 pa 8 →
          s1.thr.writeS r.d (BitVec.ofNat 64 (seenNum s1 pa 8)) = .error (.trap e) → exec i s = .next (s.trapA e))))) ∧
  (∀ fn, 9 ≤ fn → Illegal 0 0 40 fn)

/-- R162, R278: CAS writes sC where the word equals sB and writes nothing where it does not; sD receives the old word in either case;
LINK_OPERAND applies whatever D is. -/
def Sys2Proof.Claims.CompareAndSwap : Prop :=
  (∀ (r : RArgs) (s : State),
    let a := atomicAcc (s.thr.getS r.a).toNat 8 true
    (∀ x, (s.thr.links false).find? (fun y => y.2.ck && y.2.reads.contains r.d) = some x →
      exec (.cas r) s = .next (s.trapA ⟨.linkOperand, 0, x.1⟩)) ∧
    (NoCkReader s.thr r.d →
      (∀ n, r.d ≠ 0 → s.thr.levelDest false r.d = some n → exec (.cas r) s = .next (s.trapA ⟨.boundWrite, 0, n⟩)) ∧
      (s.thr.checkDest r.d = .ok () →
        (∀ e, s.check s.agent a = .error (.trap e) → exec (.cas r) s = .next (s.trapA e)) ∧
        (∀ pa s1 t, s.check s.agent a = .ok (.mem pa) → Ordered s (r.x16 % 8) s1 → Reaches s1 pa 8 →
          s1.thr.writeS r.d (BitVec.ofNat 64 (seenNum s1 pa 8)) = .ok t →
          (BitVec.ofNat 64 (seenNum s1 pa 8) = s.thr.getS r.b → exec (.cas r) s =
            .next (doneA s 8 (((s1.writePhys pa (bytesOf (s.thr.getS r.c))).traffic true [.mem pa]).setThr t))) ∧
          (BitVec.ofNat 64 (seenNum s1 pa 8) ≠ s.thr.getS r.b → exec (.cas r) s =
            .next (doneA s 8 ((s1.traffic false [.mem pa]).setThr t)))) ∧
        (∀ pa s1 e, s.check s.agent a = .ok (.mem pa) → Ordered s (r.x16 % 8) s1 → Reaches s1 pa 8 →
          s1.thr.writeS r.d (BitVec.ofNat 64 (seenNum s1 pa 8)) = .error (.trap e) → exec (.cas r) s = .next (s.trapA e))))) ∧
  (∀ fn, 1 ≤ fn → Illegal 0 0 41 fn)

namespace Sys2Proof.Claims

/-- The forms of ATOMQ. -/
def atomqForms (m : MArgs) : List (Nat × Instr) :=
  [(0, .atomqAdd m), (1, .atomqAnd m), (2, .atomqOr m), (3, .atomqXor m), (4, .atomqMin m), (5, .atomqMax m), (6, .atomqMinn m),
   (7, .atomqMaxn m)]

/-- The lanes' updates of their words, in ascending lane order (R279). -/
def laneUpdates (fn : Nat) : List (Nat × W32) → State → State
  | [], s => s
  | (pa, b) :: rest, s => laneUpdates fn rest (s.writePhys pa (bytesOf (atomOp fn (BitVec.ofNat 32 (leNat (s.busRead pa 4))) b)))

end Sys2Proof.Claims

/-- R279: ATOMQ updates the word of every active lane, lanes of one word combined in ascending order, pops both queues and writes no
register; every active lane passes its checks first, and a fault updates and pops nothing. -/
def Sys2Proof.Claims.QueueAtomics : Prop :=
  ∀ (m : MArgs) (s : State) fn i, (fn, i) ∈ atomqForms m → m.b ≠ m.d → m.b < 8 → m.d < 8 →
    (s.thr.getQ m.b = [] → Fresh s → exec i s = .next (waiting s (.popFirst m.b))) ∧
    (∀ x rest, s.thr.getQ m.b = x :: rest → x.ready = true →
      (s.thr.getQ m.d = [] → Fresh s → exec i s = .next (waiting s (.popFirst m.d))) ∧
      (∀ d rest', s.thr.getQ m.d = d :: rest' → d.ready = true →
        let as := (lanesOf (x.mask &&& d.mask)).map fun k => atomicAcc (pickAddr m s x.lanes k) 4 false (.lane k)
        (∀ e, s.checkAll s.agent as = .error (.trap e) → exec i s = .next (s.trapA e)) ∧
        (∀ (pas : List Nat) s1, s.checkAll s.agent as = .ok (pas.map .mem) → Ordered s (if m.ord = 2 then 2 else 0) s1 →
          (∀ pa ∈ pas, Reaches s1 pa 4) →
          exec i s = .next (doneA s 8 (((laneUpdates fn (pas.zip ((lanesOf (x.mask &&& d.mask)).map d.lanes.lane)) s1).traffic true
            (pas.map .mem)).updThr fun t => (t.setQ m.b rest).setQ m.d rest')))))

/-- ATOM, CAS and ATOMQ update their words in one step: `AtomicUpdates`, `CompareAndSwap`, `QueueAtomics`. Where the spec is silent it
states the choices of the model: log 12, log 16. -/
def Obligations.Atomics : Prop := Sys2Proof.Claims.AtomicUpdates ∧ Sys2Proof.Claims.CompareAndSwap ∧ Sys2Proof.Claims.QueueAtomics

/-- R141, R145, R257, R280: FENCE.ACQ completes where every earlier load is complete: those of the A-stream are, and it waits for those of the
E-stream; FENCE.REL and FENCE.FULL wait for the E-stream's accesses and until the replay queue is empty, and perform every earlier store; a store
that failed after it left the thread, or on replay, is reported by them. -/
def Sys2Proof.Claims.Fences : Prop :=
  (∀ (r : RArgs) (s : State),
    (¬OlderE s (IsMajorE 96) → exec (.fenceAcq r) s = .next (doneA s 8 s)) ∧
    (OlderE s (IsMajorE 96) → Fresh s → exec (.fenceAcq r) s = .next (waiting s .other))) ∧
  (∀ (r : RArgs) (s : State) i, i = .fenceRel r ∨ i = .fenceFull r →
    (OlderE s IsAccessE → Fresh s → exec i s = .next (waiting s .other)) ∧
    (¬OlderE s IsAccessE → s.flush.thr.storeErr = [] → s.flush.thr.replay = [] → exec i s = .next (doneA s 8 s.flush)) ∧
    (¬OlderE s IsAccessE → s.flush.thr.storeErr = [] → s.flush.thr.replay ≠ [] → (∀ p ∈ s.flush.thr.replay, p.failed = none) → Fresh s →
      exec i s = .next (waiting s .other)) ∧
    (∀ e rest, s.thr.ePath = [] → Fresh s → s.flush.thr.storeErr = e :: rest →
      exec i s = .next ((s.flush.updThr fun t => { t with storeErr := rest }).takeTrap false ⟨e.cause, e.faddr, e.fdetail⟩)) ∧
    (∀ before p e after, s.thr.ePath = [] → Fresh s → s.flush.thr.storeErr = [] → s.flush.thr.replay = before ++ p :: after →
      (∀ x ∈ before, x.failed = none) → p.failed = some e →
      exec i s = .next ((s.flush.updThr fun t => { t with replay := before ++ after }).takeTrap false ⟨e.cause, e.faddr, e.fdetail⟩))) ∧
  (∀ fn, 3 ≤ fn → Illegal 0 0 42 fn)

namespace Sys2Proof.Claims

/-- The condition of WAITW (R281). -/
def wordHolds (fn : Nat) (x b : W64) : Bool := if fn = 0 then x == b else if fn = 1 then x != b else b.ule x

end Sys2Proof.Claims

/-- R10, R264, R281: WAITW reads its word as an 8-byte load; where the condition holds it completes with the word in sD, else it sleeps, and
WAITW_WAKE is the same read once more for a thread that sleeps, by a walk of its own. Where the settle of its write could overflow it waits
as an instruction that can still fault. -/
def Sys2Proof.Claims.WaitOnWord : Prop :=
  ∀ fn (r : RArgs) (s : State), fn ≤ 2 →
    let ag : Agent := if s.thr.waitA = .word then { s.agent with tlb := false } else s.agent
    let a := readAcc (s.thr.getS r.a).toNat 8
    (∀ n, r.d ≠ 0 → s.thr.levelDest false r.d = some n → exec (.waitw fn r) s = .next (s.trapA ⟨.boundWrite, 0, n⟩)) ∧
    (s.thr.checkDest r.d = .ok () →
      (∀ e, s.check ag a = .error (.trap e) → exec (.waitw fn r) s = .next (s.trapA e)) ∧
      (∀ p bs, s.check ag a = .ok p → s.readTarget ag a p = .ok bs →
        (wordHolds fn (BitVec.ofNat 64 (leNat bs)) (s.thr.getS r.b) = false →
          (s.thr.mayOverflow r.d = false → exec (.waitw fn r) s = .next (waiting s .word)) ∧
          (s.thr.mayOverflow r.d = true → Fresh s → exec (.waitw fn r) s = .next (waiting s .other))) ∧
        (∀ e, wordHolds fn (BitVec.ofNat 64 (leNat bs)) (s.thr.getS r.b) = true →
          s.thr.writeS r.d (BitVec.ofNat 64 (leNat bs)) = .error (.trap e) → exec (.waitw fn r) s = .next (s.trapA e)) ∧
        (∀ t, wordHolds fn (BitVec.ofNat 64 (leNat bs)) (s.thr.getS r.b) = true →
          s.thr.writeS r.d (BitVec.ofNat 64 (leNat bs)) = .ok t →
          exec (.waitw fn r) s = .next (doneA s 8 ((s.traffic false [p]).setThr t)))))

/-- Fences perform earlier stores; WAITW waits for its word: `Fences`, `WaitOnWord`. Where the spec is silent it states the choices of the
model: log 8, log 12, log 16. -/
def Obligations.FencesAndWaits : Prop := Sys2Proof.Claims.Fences ∧ Sys2Proof.Claims.WaitOnWord

/-- R282, R283: WAITK.WAIT waits for its tokens' counts and reports the error of the lowest that has one; TEST reads counts, errors and
the lowest error's cause; CLEARERR clears errors and keeps counts. -/
def Sys2Proof.Claims.Tokens : Prop :=
  (∀ (r : RArgs) (s : State),
    let named := (List.range 8).filter fun k => (r.x16 % 256).testBit k
    ((∃ k ∈ named, (s.thr.getK k).count ≠ 0) → Fresh s → exec (.waitkWait r) s = .next (waiting s .other)) ∧
    ((∀ k ∈ named, (s.thr.getK k).count = 0) →
      ((∀ k ∈ named, (s.thr.getK k).err = false) → exec (.waitkWait r) s = .next (doneA s 8 s)) ∧
      (∀ k, named.find? (fun k => (s.thr.getK k).err) = some k →
        exec (.waitkWait r) s = .next (s.trapA ⟨.tokenError, (s.thr.getK k).addr, k + 256 * (s.thr.getK k).cause⟩)))) ∧
  (∀ r : RArgs, WritesS (.waitkTest r) 8 r.d fun s =>
    let named := (List.range 8).filter fun k => (r.x16 % 256).testBit k
    (BitVec.ofFnLE fun i : Fin 64 =>
      if i.val < 8 then named.contains i.val && decide ((s.thr.getK i.val).count ≠ 0)
      else if i.val < 16 then named.contains (i.val - 8) && (s.thr.getK (i.val - 8)).err
      else false) |||
    (BitVec.ofNat 64 (((named.find? fun k => (s.thr.getK k).err).map fun k => (s.thr.getK k).cause).getD 0) <<< 16)) ∧
  (∀ (r : RArgs) (s : State), ∃ t : Thread, exec (.waitkClearerr r) s = .next (doneA s 8 (s.setThr t)) ∧ t = { s.thr with k := t.k } ∧
    ∀ k, k < 8 → t.getK k = if (r.x16 % 256).testBit k then { count := (s.thr.getK k).count, err := false, cause := 0, addr := 0 }
      else s.thr.getK k) ∧
  (∀ fn, 3 ≤ fn → Illegal 0 0 45 fn)

namespace Sys2Proof.Claims

/-- The holding that sA names: an index below 4,096 with a valid entry (R284). -/
def holdingOf (s : State) (r : RArgs) : Option Holding :=
  if (s.thr.getS r.a).toNat < 4096 then SMap.find s.ctx.holdings (s.thr.getS r.a).toNat else none

/-- A live lane of the firing is RESTARTABLE (R370). -/
def HasRestartable (t : Thread) : Prop := ∃ l ∈ t.lanes, l.task.restart = true

/-- The state with a holding changed. -/
def withHolding (s : State) (h : Nat) (x : Holding) : State :=
  { s with ctx := { s.ctx with holdings := SMap.put s.ctx.holdings h x } }

/-- An agent code that names an agent of the context which can hold (R274, R285). -/
def NamesAgent (c : Ctx) (code : Nat) : Prop :=
  code < 2 ^ 18 ∧ ((code / 2 ^ 16 = 0 ∧ code < c.nmax) ∨ (code / 2 ^ 16 = 2 ∧ code % 2 ^ 16 ∈ c.hosts))

end Sys2Proof.Claims

/-- R284 to R288, R370: HAND sends its holding and nobody holds it until it arrives; TAKE waits until its core holds it; HOLDQ reads the
holder and the state; SEAL seals for good. A RESTARTABLE firing may neither hand nor seal; an index with no holding is
HOLDING_INVALID. -/
def Sys2Proof.Claims.Holdings : Prop :=
  (∀ (r : RArgs) (s : State), HasRestartable s.thr →
    exec (.holdHand r) s = .next (s.trapA ⟨.frameWindow, 0, 0⟩) ∧ exec (.holdSeal r) s = .next (s.trapA ⟨.frameWindow, 0, 0⟩)) ∧
  (∀ (r : RArgs) (s : State), holdingOf s r = none →
    exec (.holdTake r) s = .next (s.trapA ⟨.holdingInvalid, 0, 0⟩) ∧
    (s.thr.checkDest r.d = .ok () → exec (.holdHoldq r) s = .next (s.trapA ⟨.holdingInvalid, 0, 0⟩)) ∧
    (¬HasRestartable s.thr → exec (.holdHand r) s = .next (s.trapA ⟨.holdingInvalid, 0, 0⟩) ∧
      exec (.holdSeal r) s = .next (s.trapA ⟨.holdingInvalid, 0, 0⟩))) ∧
  (∀ (r : RArgs) (s : State) x, holdingOf s r = some x →
    let h := (s.thr.getS r.a).toNat
    let dest := (s.thr.getS r.b).toNat
    (¬HasRestartable s.thr → x.heldBy s.vc.id = false ∨ ¬NamesAgent s.ctx dest →
      exec (.holdHand r) s = .next (s.trapA ⟨.handInvalid, 0, 0⟩)) ∧
    (∀ s1, ¬HasRestartable s.thr → x.heldBy s.vc.id = true → NamesAgent s.ctx dest → s.drain = .ok s1 →
      exec (.holdHand r) s = .next (doneA s 8
        (State.sentMsg { (withHolding s1 h { x with inflight := some dest }).updCtx fun c =>
          { c with handovers := c.handovers ++ [{ sender := s.vc.id, holding := h, dest := dest, seq := s1.nextId }] }
          with nextId := s1.nextId + 1 } 3))) ∧
    (x.heldBy s.vc.id = true → exec (.holdTake r) s = .next (doneA s 8 s)) ∧
    (x.heldBy s.vc.id = false → exec (.holdTake r) s = .next (waiting s .take)) ∧
    (s.thr.checkDest r.d = .ok () → s.det = true → exec (.holdHoldq r) s = .next (s.trapA ⟨.nondetOp, 0, 0⟩)) ∧
    (∀ t, s.thr.checkDest r.d = .ok () → s.det = false →
      s.thr.writeS r.d (BitVec.ofNat 64
        ((if (x.cls = .exclusive ∨ x.cls = .localOnly) ∧ x.inflight = none then x.holder else 0x30000) +
          (if x.cls = .sealed then 2 ^ 62 else 0) + (if x.inflight ≠ none then 2 ^ 63 else 0))) = .ok t →
      exec (.holdHoldq r) s = .next (doneA s 8 (s.setThr t))) ∧
    (¬HasRestartable s.thr → x.cls = .sealed → exec (.holdSeal r) s = .next (doneA s 8 s)) ∧
    (¬HasRestartable s.thr → x.cls ≠ .sealed → x.inflight ≠ none ∨ (x.heldBy s.vc.id = false ∧ x.cls ≠ .common) →
      exec (.holdSeal r) s = .next (s.trapA ⟨.handInvalid, 0, 0⟩)) ∧
    (∀ s1, ¬HasRestartable s.thr → x.cls ≠ .sealed → x.inflight = none → x.heldBy s.vc.id = true ∨ x.cls = .common →
      s.drain = .ok s1 → exec (.holdSeal r) s = .next (doneA s 8 (withHolding s1.flushCtx h { x with cls := .sealed })))) ∧
  (∀ fn, 4 ≤ fn → Illegal 0 0 44 fn)

/-- WAITK, HAND, TAKE, HOLDQ and SEAL: `Tokens`, `Holdings`. Where the spec is silent it states the choices of the model: log 12, log 16.
-/
def Obligations.TokensAndHoldings : Prop := Sys2Proof.Claims.Tokens ∧ Sys2Proof.Claims.Holdings

/-! ## Windows, tasks, SPAWN -/

namespace Sys2Proof.Claims

/-- An entry of the window table (R234), and the state with one replaced. -/
def windowAt (s : State) (n : Nat) : Window := s.ctx.windows[n]?.getD Window.clear
def withWindow (s : State) (n : Nat) (w : Window) : State :=
  { s with ctx := { s.ctx with windows := s.ctx.windows.setIfInBounds n w } }

/-- A field of `n` bytes of a record. -/
def fld (bs : List Byte) (off n : Nat) : Nat := leNat ((bs.drop off).take n)

/-- The entry that GWSET makes of its record, with the overrides of R246. -/
def gwEntry (r : RArgs) (s : State) (bs : List Byte) : Window where
  isSet := true
  version := (windowAt s (r.x16 / 4096)).version + 1
  base := if r.a = 0 then fld bs 0 8 else (s.thr.getS r.a).toNat
  lsize := fld bs 8 1
  kind := fld bs 9 1
  fmt := fld bs 10 1
  p := (List.range 13).map fun k => if k = 1 ∧ r.b ≠ 0 then (s.thr.getS r.b).toNat % 2 ^ 32 else fld bs (12 + 4 * k) 4
  freq := []

/-- WINDOW_CONFIG of step 6 of R248, for entry `n` and FLAGS. -/
def WindowBad (s : State) (w : Window) (n flags : Nat) : Prop :=
  w.base % 65536 ≠ 0 ∨ w.lsize < 16 ∨ 40 < w.lsize ∨ 2 ^ 56 < w.base + 2 ^ w.lsize ∨ w.base < 0x1000000 ∨ flags ≠ 0 ∨
    w.parsOk = false ∨
    ∃ k, k < 16 ∧ k ≠ n ∧ (windowAt s k).isSet = true ∧ w.base < (windowAt s k).base + 2 ^ (windowAt s k).lsize ∧
      (windowAt s k).base < w.base + 2 ^ w.lsize

/-- What stands before a change of the window table: no RESTARTABLE lane, no deterministic launch (R248). -/
def MayWindow (s : State) : Prop := ¬HasRestartable s.thr ∧ s.det = false

/-- Every older access of the thread can be performed (R247): no VLDE or VSTE, which access memory from the E-stream, has still to execute, and
every parked store has failed. -/
def AllDone (s : State) : Prop :=
  ¬OlderE s IsAccessE ∧
    ∀ p ∈ s.thr.replay, p.failed ≠ none

end Sys2Proof.Claims

/-- R17, R81, R360, R363, R372: a record of the pool of the running launch's object. Its index names 32 bytes from the pool on, a record of 64 bytes
has an even one; an index outside is RECORD_INDEX. It is read through a window where one covers it, else by the thread's translation, from a page
that permits it and under its key, whatever holding covers it. -/
def Sys2Proof.Claims.PoolRecords : Prop :=
  ∀ (s : State) (idx size : Nat), size = 32 ∨ size = 64 →
    (s.launchObj = none → s.poolRead idx size = .error (.trap ⟨.recordIndex, 0, idx⟩)) ∧
    (∀ o, s.launchObj = some o →
      (o.poolCount < idx + size / 32 ∨ (size = 64 ∧ idx % 2 = 1) → s.poolRead idx size = .error (.trap ⟨.recordIndex, 0, idx⟩)) ∧
      (idx + size / 32 ≤ o.poolCount → (size = 32 ∨ idx % 2 = 0) →
        let va := o.pool + 32 * idx
        let a := readAcc va size
        (∀ w, findWindow s.windows va = some w → w.kind ≠ 6 →
          s.poolRead idx size = .ok ((List.range size).map fun i => w.byte (va + i))) ∧
        (NoWindow s va →
          (∀ e, s.translate s.agent a = .error e → s.poolRead idx size = .error e) ∧
          (∀ pte pa, s.translate s.agent a = .ok (pte, pa) →
            (∀ c, permCause pte a = some c → s.poolRead idx size = .error (.trap ⟨c, va, 0⟩)) ∧
            (permCause pte a = none →
              (0x80000000000 ≤ pa → s.keyLoaded (pteSlot pte) s.ctx.id = false →
                s.poolRead idx size = .error (.trap ⟨.keyInvalid, va, pteSlot pte⟩)) ∧
              (pa < 0x80000000000 ∨ s.keyLoaded (pteSlot pte) s.ctx.id = true → s.accessFails (busOf (pteSlot pte) pa) size = none →
                s.poolRead idx size = .ok (s.busRead (busOf (pteSlot pte) pa) size)))))))

/-- R234, R235, R246 to R248: GWSET sets its entry from the record and the overrides, GWCLR clears one, each adds 1 to VERSION and
writes it to sD once every older access of the thread has been performed; GWVER reads VERSION and SET; the faults in their order. The record
is one of the pool: `PoolRecords`. Where the spec is silent it states the choices of the model: log 12. -/
def Obligations.WindowInstructions : Prop :=
  Sys2Proof.Claims.PoolRecords ∧
  (∀ (r : RArgs) (s : State) i, i = .gwGwset r ∨ i = .gwGwclr r →
    (HasRestartable s.thr → exec i s = .next (s.trapA ⟨.frameWindow, 0, 0⟩)) ∧
    (¬HasRestartable s.thr → s.det = true → exec i s = .next (s.trapA ⟨.nondetOp, 0, 0⟩)) ∧
    (∀ n, MayWindow s → r.d ≠ 0 → s.thr.levelDest false r.d = some n → exec i s = .next (s.trapA ⟨.boundWrite, 0, n⟩))) ∧
  (∀ (r : RArgs) (s : State), MayWindow s → s.thr.checkDest r.d = .ok () →
    (∀ e, s.poolRead (r.x16 % 4096) 64 = .error (.trap e) → exec (.gwGwset r) s = .next (s.trapA e)) ∧
    (∀ bs, s.poolRead (r.x16 % 4096) 64 = .ok bs →
      let n := r.x16 / 4096
      let w := gwEntry r s bs
      (¬AllDone s → Fresh s → exec (.gwGwset r) s = .next (waiting s .other)) ∧
      (AllDone s → n < 16 → ∀ f, (w.kind ≠ 4 ∧ f = []) ∨ (w.kind = 4 ∧ s.flush.rotaryTable w = .ok f) →
        (WindowBad s.flush w n (fld bs 11 1) → exec (.gwGwset r) s = .next (s.trapA ⟨.windowConfig, 0, n⟩)) ∧
        (∀ t, ¬WindowBad s.flush w n (fld bs 11 1) → s.flush.thr.writeS r.d (w.version.setWidth 64) = .ok t →
          exec (.gwGwset r) s = .next (doneA s 8 ((withWindow ((s.flush.sawRecord (r.x16 % 4096) 64).sawRotary w) n { w with freq := f }).setThr t))) ∧
        (∀ e, ¬WindowBad s.flush w n (fld bs 11 1) → s.flush.thr.writeS r.d (w.version.setWidth 64) = .error (.trap e) →
          exec (.gwGwset r) s = .next (s.trapA e))))) ∧
  (∀ (r : RArgs) (s : State), MayWindow s → s.thr.checkDest r.d = .ok () →
    (¬AllDone s → Fresh s → exec (.gwGwclr r) s = .next (waiting s .other)) ∧
    (∀ t, AllDone s →
      s.flush.thr.writeS r.d (((windowAt s.flush (r.x16 / 4096)).version + 1).setWidth 64) = .ok t →
      exec (.gwGwclr r) s = .next (doneA s 8 ((withWindow s.flush (r.x16 / 4096)
        { Window.clear with version := (windowAt s.flush (r.x16 / 4096)).version + 1 }).setThr t)))) ∧
  (∀ r : RArgs, WritesS (.gwGwver r) 8 r.d fun s =>
    (windowAt s (r.x16 / 4096)).version.setWidth 64 ||| (if (windowAt s (r.x16 / 4096)).isSet then 0x100000000 else 0)) ∧
  (∀ fn, 3 ≤ fn → Illegal 0 0 56 fn)

namespace Sys2Proof.Claims

/-- Handler mode left, as DONE, TAIL, RESUME and YIELD do (R378). -/
def outOfHandler (s : State) : State := { s with thr := { s.thr with handler := false } }

/-- The thread in focus freed, with its links discarded (R314). -/
def freedThr (s : State) : State := { s with thr := s.thr.freed }

/-- The live lanes of a firing, with their numbers: those whose bit of m0 is set. -/
def liveOf (t : Thread) : List (Nat × LaneRec) := ((List.range t.lanes.length).zip t.lanes).filter fun x => (t.getM 0).getLsbD x.1

/-- The live lanes in ascending order, each of which finishes or, with a code pointer, is enqueued again in its turn; and the first thing that one
notes. -/
def endAll : List (LaneRec × Option Nat) → State → Option LateErr → State × Option LateErr
  | [], s, n => (s, n)
  | (l, none) :: rest, s, n => endAll rest (s.endLane l).1 (n.or (s.endLane l).2)
  | (l, some code) :: rest, s, n => endAll rest (s.enqueue s.vc.id s.thr.launch 0 [{ l.task with code := code }]) n

/-- The join records that ending these lanes decreases can be written. -/
def JoinsReach (s : State) (ls : List LaneRec) : Prop :=
  ∀ l ∈ ls, l.joined = false → l.task.join < 0xFFFFFFFE → ∃ as, s.hwAddrs true 32 (s.ctx.framebase.toNat + l.task.join) = .ok as

/-- The end of a firing with its live lanes, in a state that has quiesced: the thread is freed, or what the lowest lane noted is
raised at the instruction, with DONE_PENDING set (R314). -/
def EndsWith (i : Instr) (s s1 : State) (ls : List (LaneRec × Option Nat)) : Prop :=
  ∀ s2 n, endAll ls s1 none = (s2, n) →
    (n = none → exec i s = .next (freedThr s2)) ∧
    (∀ e, n = some e → Fresh s → exec i s = .next (({ s2 with thr := { s2.thr with donePending := true } }).takeTrap false
      ⟨e.cause, e.faddr, e.fdetail⟩))

/-- TAIL's code register for a lane (R315). -/
def tailPick (r : RArgs) (t : Thread) (n : Nat) : Nat := if (t.getM r.msk).getLsbD n then r.a else r.b

end Sys2Proof.Claims

/-- R313: quiescing waits for the older E-stream instructions, finds the queues empty, waits for all tokens and reports the lowest error,
waits for the replay queue, then for the thread's array commands, in this order. -/
def Sys2Proof.Claims.QuiesceOrder : Prop :=
  ∀ s : State,
    (s.thr.ePath ≠ [] → s.quiesce 255 = .error (.wait .other)) ∧
    (s.thr.ePath = [] →
      ((∃ q, q < 8 ∧ s.thr.getQ q ≠ []) → ∃ m, s.quiesce 255 = .error (.trap ⟨.queueAtPpt, 0, m⟩) ∧
        ∀ q, q < 8 → (m.testBit q = true ↔ s.thr.getQ q ≠ [])) ∧
      ((∀ q, q < 8 → s.thr.getQ q = []) →
        ((∃ k, k < 8 ∧ (s.thr.getK k).count ≠ 0) → s.quiesce 255 = .error (.wait .other)) ∧
        ((∀ k, k < 8 → (s.thr.getK k).count = 0) →
          (∀ k, k < 8 → (s.thr.getK k).err = true → (∀ j, j < k → (s.thr.getK j).err = false) →
            s.quiesce 255 = .error (.trap ⟨.tokenError, (s.thr.getK k).addr, k + 256 * (s.thr.getK k).cause⟩)) ∧
          ((∀ k, k < 8 → (s.thr.getK k).err = false) →
            (∀ e, s.drain = .error e → s.quiesce 255 = .error e) ∧
            (∀ s1, s.drain = .ok s1 → s1.arrayBusy = true → s.quiesce 255 = .error (.wait .other)) ∧
            (∀ s1 e rest, s.drain = .ok s1 → s1.arrayBusy = false → s1.thr.deferred = e :: rest →
              s.quiesce 255 = .error (.trapIn (s1.setThr { s1.thr with deferred := rest }) ⟨e.cause, e.faddr, e.fdetail⟩)) ∧
            (∀ s1, s.drain = .ok s1 → s1.arrayBusy = false → s1.thr.deferred = [] → s.quiesce 255 = .ok s1)))))

/-- R304, R310, R314: what the end of one lane does: nothing after JOIN or with no join; the launch join falls by 1, and the one that
brings it to 0 writes DONEVAL; a join record's COUNT falls by 1, and the one that brings it to 0 enqueues the continuation, or notes
that the record breaks R305; COUNT 0 is noted as JOIN_UNDERFLOW. The core makes these accesses by itself: a near address names its own slice (R15),
and what they leave in memory is what the words of the record say. -/
def Sys2Proof.Claims.LaneEnds : Prop :=
  (∀ (s : State) (k : AccKind) va, va < 0x3C0000 → s.hwBus k va true = .ok (s.vc.phys * 0x400000 + va)) ∧
  (∀ (s : State) va bs, (s.coreWrite va bs).mem = (s.hwWrite va bs true).mem ∧ (s.coreWrite va bs).keyed = (s.hwWrite va bs true).keyed) ∧
  ∀ (s : State) (l : LaneRec),
    (l.joined = true ∨ l.task.join = 0xFFFFFFFF → s.endLane l = (s, none)) ∧
    (l.joined = false → l.task.join = 0xFFFFFFFE → ∀ x n, SMap.find s.ctx.launches s.thr.launch = some x → x.join = n + 1 →
      let s1 := { s with ctx := { s.ctx with launches := SMap.put s.ctx.launches s.thr.launch { x with join := n } } }
      (n ≠ 0 ∨ x.doneAddr = 0 → s.endLane l = (s1, none)) ∧
      (n = 0 → x.doneAddr ≠ 0 → s.endLane l = (s1.hwWrite x.doneAddr (leBytes 8 x.doneVal.toNat), none))) ∧
    (l.joined = false → l.task.join < 0xFFFFFFFE →
      let j := s.ctx.framebase.toNat + l.task.join
      ∀ bs, s.hwRead j 32 true = some bs →
        let count := fld bs 8 4 % 2 ^ 20
        let s1 := s.coreWrite (j + 8) (leBytes 4 (fld bs 8 4 - 1))
        (count = 0 → s.endLane l = (s, some ⟨.joinUnderflow, j, 0⟩)) ∧
        (1 < count → s.endLane l = (s1, none)) ∧
        (count = 1 → ∀ c, s.ctx.recordCause bs = some c → s.endLane l = (s1, some ⟨c, j, 0⟩)) ∧
        (count = 1 → s.ctx.recordCause bs = none →
          (s.det = false → s.endLane l = (s1.enqueue s.vc.id s.thr.launch 3 [{ taskOf bs with count := 0 }], none)) ∧
          (s.det = true → s.endLane l =
            (s1.enqueue (fld bs 24 8 / 2 ^ 32 * s.nv / 2 ^ 32) s.thr.launch 0 [{ taskOf bs with count := 0 }], none))))

/-- R312 to R318, R378: DONE and TAIL leave handler mode, quiesce, end or enqueue their lanes and free the thread; with DONE_PENDING they
only free it. TAIL takes each live lane in ascending order: it is enqueued again with the code pointer that its mask bit selects, or with
register 0 it ends. Where the spec is silent it states the choices of the model: log 24, log 25. -/
def Obligations.DoneAndTail : Prop :=
  (∀ (r : RArgs) (s : State) i, i = .taskDone ∨ i = .taskTail r → s.thr.donePending = true →
    exec i s = .next (freedThr (outOfHandler s))) ∧
  (∀ s s1 : State, s.thr.donePending = false → (outOfHandler s).quiesce 255 = .ok s1 →
    JoinsReach s1 ((liveOf s1.thr).map Prod.snd) → EndsWith .taskDone s s1 ((liveOf s1.thr).map fun x => (x.2, none))) ∧
  (∀ s e, s.thr.donePending = false → (outOfHandler s).quiesce 255 = .error (.trap e) →
    exec .taskDone s = .next ((outOfHandler s).trapA e)) ∧
  (∀ (r : RArgs) (s : State), s.thr.donePending = false →
    ((∃ x ∈ liveOf s.thr, x.2.joined = true) → ∃ n, exec (.taskTail r) s = .next ((outOfHandler s).trapA ⟨.tailInvalid, 0, n⟩)) ∧
    ((∀ x ∈ liveOf s.thr, x.2.joined = false) → s.thr.ePath = [] →
      (∀ before x after, liveOf s.thr = before ++ x :: after → tailPick r s.thr x.1 ≠ 0 →
        s.ctx.isEntry (s.thr.getS (tailPick r s.thr x.1)).toNat = false →
        (∀ y ∈ before, tailPick r s.thr y.1 = 0 ∨ s.ctx.isEntry (s.thr.getS (tailPick r s.thr y.1)).toNat = true) →
        exec (.taskTail r) s = .next ((outOfHandler s).trapA ⟨.badCodePointer, (s.thr.getS (tailPick r s.thr x.1)).toNat, 0⟩)) ∧
      ((∀ x ∈ liveOf s.thr, tailPick r s.thr x.1 = 0 ∨ s.ctx.isEntry (s.thr.getS (tailPick r s.thr x.1)).toNat = true) →
        ∀ s1, (outOfHandler s).quiesce 255 = .ok s1 →
          JoinsReach s1 (((liveOf s1.thr).filter fun x => decide (tailPick r s1.thr x.1 = 0)).map Prod.snd) →
          EndsWith (.taskTail r) s s1 ((liveOf s1.thr).map fun x =>
            (x.2, if tailPick r s1.thr x.1 = 0 then none else some (s1.thr.getS (tailPick r s1.thr x.1)).toNat))))) ∧
  (∀ fn, 4 ≤ fn → Illegal 0 0 64 fn)

namespace Sys2Proof.Claims

/-- The active lanes of JOIN and SPAWN: mK AND m0 (R316, R320). -/
def activeOf (r : RArgs) (t : Thread) : List (Nat × LaneRec) := (liveOf t).filter fun x => (t.getM r.msk).getLsbD x.1

/-- The lowest lane of a list for which a condition holds. -/
def Lowest (ls : List (Nat × LaneRec)) (p : LaneRec → Prop) (n : Nat) (l : LaneRec) : Prop :=
  ∃ before after, ls = before ++ (n, l) :: after ∧ p l ∧ ∀ y ∈ before, ¬p y.2

/-- The lanes with some marked as joined. -/
def joinedLanes (t : Thread) (ns : List Nat) : List LaneRec :=
  ((List.range t.lanes.length).zip t.lanes).map fun x => if x.1 ∈ ns then { x.2 with joined := true } else x.2

/-- The steps of a JOIN after its checks: each active lane's record written at its frame plus 16 × JOFF, in lane order. -/
def joinStores (r : RArgs) (s : State) : List (Nat × LaneRec) → List (List (Access × Nat)) → State → Res State
  | x :: ls, t :: ts, s1 => do
    let s2 ← s1.engineStore t { x.2.task with code := (s.thr.getS r.b).toNat, count := (s.thr.getS r.a).toNat }.bytes
    joinStores r s ls ts s2
  | _, _, s1 => .ok s1

end Sys2Proof.Claims

/-- R316, R318: JOIN writes one join record for each active lane and marks the lanes; its faults in their order. -/
def Sys2Proof.Claims.JoinRecords : Prop :=
  ∀ (r : RArgs) (s : State), s.thr.ePath = [] →
    let ls := activeOf r s.thr
    let at_ := fun l : LaneRec => s.ctx.framebase.toNat + l.task.frame + 16 * (r.x16 % 256)
    let bad := fun l : LaneRec => l.task.restart = true ∨ 16 * l.task.fsize < 16 * (r.x16 % 256) + 32
    let count := (s.thr.getS r.a).toNat
    (s.ctx.isEntry (s.thr.getS r.b).toNat = false →
      exec (.taskJoin r) s = .next (s.trapA ⟨.badCodePointer, (s.thr.getS r.b).toNat, 0⟩)) ∧
    (s.ctx.isEntry (s.thr.getS r.b).toNat = true →
      (∀ n l, Lowest ls bad n l → exec (.taskJoin r) s = .next (s.trapA ⟨.frameWindow, at_ l, n * 2 ^ 32⟩)) ∧
      ((∀ x ∈ ls, ¬bad x.2) →
        (count = 0 ∨ 2 ^ 20 ≤ count → exec (.taskJoin r) s = .next (s.trapA ⟨.joinUnderflow, 0, count⟩)) ∧
        (1 ≤ count → count < 2 ^ 20 → ∀ ts s1, (ls.mapM fun x => s.joinTarget (at_ x.2)) = .ok ts →
          joinStores r s ls ts s.flush = .ok s1 →
          let s2 := s1.traffic true (ts.flatten.map fun x => .mem x.2)
          exec (.taskJoin r) s = .next (doneA s 8 { s2 with thr := { s2.thr with lanes := joinedLanes s2.thr (ls.map Prod.fst) } }))))

/-- The end of a lane, and JOIN: `LaneEnds`, `JoinRecords`. Where the spec is silent it states the choices of the model: log 12, log 23,
log 24, log 25. -/
def Obligations.LaneEndsAndJoins : Prop := Sys2Proof.Claims.LaneEnds ∧ Sys2Proof.Claims.JoinRecords

/-- R317, R385: YIELD quiesces, and parks its firing where fewer than four are parked and either a record waits on the core and no thread
of it is free, or a pre-emption is pending; else it completes with no effect. -/
def Sys2Proof.Claims.YieldParks : Prop :=
  ∀ s s1 : State, (outOfHandler s).quiesce 255 = .ok s1 →
    let waits := s1.vc.deque ≠ [] ∨ ∃ x ∈ s1.vc.stations, x.recs ≠ []
    let busy := ∀ n, n < 8 → (if n = s1.thr.id then s1.thr else SMap.get (Thread.fresh n) s1.vc.threads n).status ≠ .free
    (s1.vc.parks.length < 4 → (waits ∧ busy) ∨ s1.ctx.preempt ≠ .none →
      ∃ p : ParkSlot, exec .taskYield s = .next { s1 with vc := { s1.vc with parks := s1.vc.parks ++ [p] }, thr := s1.thr.freed } ∧
        p.thr.apc = s1.thr.apc + 8 ∧ p.thr.s = s1.thr.s ∧ p.thr.v = s1.thr.v ∧ p.thr.m = s1.thr.m ∧ p.thr.l = s1.thr.l ∧
        p.thr.lanes = s1.thr.lanes ∧ p.thr.launch = s1.thr.launch ∧ FpSame s1.thr p.thr ∧ p.since = s1.now) ∧
    (4 ≤ s1.vc.parks.length ∨ (¬(waits ∧ busy) ∧ s1.ctx.preempt = .none) →
      exec .taskYield s = .next (doneA (outOfHandler s) 8 s1))

/-- What quiescing waits for in order, and YIELD: `QuiesceOrder`, `YieldParks`. -/
def Obligations.QuiesceAndYield : Prop := Sys2Proof.Claims.QuiesceOrder ∧ Sys2Proof.Claims.YieldParks

namespace Sys2Proof.Claims

/-- The fields of CMD64 of SPAWN (R319). -/
def sRs (x : CArgs) : Nat := x.cmd / 2 ^ 60
def sRoff (x : CArgs) : Nat := x.cmd / 2 ^ 52 % 256
def sJoff (x : CArgs) : Nat := x.cmd / 2 ^ 44 % 256
def sFsize (x : CArgs) : Nat := x.cmd / 2 ^ 32 % 4096
def sFstride (x : CArgs) : Nat := x.cmd / 2 ^ 20 % 4096
def sFoff (x : CArgs) : Nat := x.cmd % 2 ^ 20

/-- Child i of a lane (R320, R323). -/
def child (x : CArgs) (s : State) (l : LaneRec) (i : Nat) : TaskRec where
  rs := sRs x
  restart := x.r.x16.testBit 0
  code := (s.thr.getS x.r.a).toNat
  fsize := sFsize x
  count := 0
  frame := (l.task.frame + 16 * sFoff x + i * (16 * sFstride x)) % 2 ^ 32
  result := (l.task.frame + 16 * sRoff x + i * 2 ^ sRs x) % 2 ^ 32
  join := (l.task.frame + 16 * sJoff x) % 2 ^ 32
  key := (l.task.key * 0x9E3779B97F4A7C15 + i + 1) % 2 ^ 64

/-- The children of a SPAWN: lanes ascending, and the children of a lane ascending. -/
def childrenOf (x : CArgs) (s : State) : List TaskRec :=
  ((activeOf x.r s.thr).map fun y => (List.range (s.thr.getS x.r.d).toNat).map (child x s y.2)).flatten

/-- FRAME_WINDOW of a lane: RESTARTABLE, or the join record or the result slots lie outside its window (R321 step 5). -/
def SpawnWindow (x : CArgs) (n : Nat) (l : LaneRec) : Prop :=
  l.task.restart = true ∨ 16 * l.task.fsize < 16 * sJoff x + 32 ∨ (n ≠ 0 ∧ 16 * l.task.fsize < 16 * sRoff x + n * 2 ^ sRs x)

/-- FRAME_ARENA of a lane: a child's window extends past the arena or past 2^32 (R321 step 6). -/
def SpawnArena (x : CArgs) (s : State) (n : Nat) (l : LaneRec) : Prop :=
  min s.ctx.framesize.toNat (2 ^ 32) < l.task.frame + 16 * sFoff x + (n - 1) * (16 * sFstride x) + 16 * sFsize x

/-- The core that AT names: the holder of the holding, or the recipient of its HAND in flight (R321, R324). -/
def AtCore (x : CArgs) (s : State) (v : Nat) : Prop :=
  ∃ h, SMap.find s.ctx.holdings (s.thr.getS x.r.b).toNat = some h ∧ (h.cls = .exclusive ∨ h.cls = .localOnly) ∧
    v = h.inflight.getD h.holder ∧ v < s.nv ∧ v < 2 ^ 16

/-- The records of a list that go to one core, in order; and those of all, core by core in the order of first records. -/
def groupsTo (f : TaskRec → Nat) (ts : List TaskRec) (launch domain : Nat) (s : State) : State :=
  (ts.map f).eraseDups.foldl (fun s v => s.enqueue v launch domain (ts.filter fun t => decide (f t = v))) s

end Sys2Proof.Claims

/-- R319 to R321, R323, R324: SPAWN builds n children for each active lane and enqueues those of one target as one group; with n = 0 it
checks steps 1 to 5 and does nothing; its faults in their order, each of which enqueues nothing. -/
def Sys2Proof.Claims.SpawnChildren : Prop :=
  (∀ fn (x : CArgs) (s : State), fn ≤ 5 →
    let code := (s.thr.getS x.r.a).toNat
    let n := (s.thr.getS x.r.d).toNat
    let ls := activeOf x.r s.thr
    let ts := childrenOf x s
    let i := Instr.spawn fn x
    (fn ≠ 0 → s.det = true → exec i s = .next (s.trapA ⟨.nondetOp, 0, 0⟩)) ∧
    (fn = 0 ∨ s.det = false →
      (s.ctx.isEntry code = false → exec i s = .next (s.trapA ⟨.badCodePointer, code, 0⟩)) ∧
      (s.ctx.isEntry code = true →
        (fn = 5 → (∀ v, ¬AtCore x s v) → exec i s = .next (s.trapA ⟨.placementInvalid, 0, (s.thr.getS x.r.b).toNat⟩)) ∧
        (∀ at_, s.thr.ePath = [] → (fn = 5 → AtCore x s at_) →
          let target := fun t : TaskRec => if fn = 0 then t.key / 2 ^ 32 * s.nv / 2 ^ 32 else if fn = 5 then at_ else s.vc.id
          let domain := if fn = 2 then 1 else if fn = 3 then 2 else if fn = 4 then 3 else 0
          (∀ k l, Lowest ls (SpawnWindow x n) k l → ∃ a, exec i s = .next (s.trapA ⟨.frameWindow, a, k * 2 ^ 32⟩)) ∧
          ((∀ y ∈ ls, ¬SpawnWindow x n y.2) →
            (n = 0 → exec i s = .next (doneA s 16 s)) ∧
            (∀ k l, n ≠ 0 → Lowest ls (SpawnArena x s n) k l → exec i s = .next (s.trapA ⟨.frameArena, 0, k * 2 ^ 32⟩)) ∧
            (n ≠ 0 → (∀ y ∈ ls, ¬SpawnArena x s n y.2) →
              (4096 < n → exec i s = .next (s.trapA ⟨.spawnOverflow, 0, n⟩)) ∧
              (n ≤ 4096 → (∃ v ∈ ts.map target, s.fits v (ts.filter fun t => decide (target t = v)).length = false) →
                ∃ v, exec i s = .next (s.trapA ⟨.spawnOverflow, 0, v⟩) ∧ v ∈ ts.map target ∧
                  s.fits v (ts.filter fun t => decide (target t = v)).length = false) ∧
              (∀ s1, n ≤ 4096 → (∀ v ∈ ts.map target, s.fits v (ts.filter fun t => decide (target t = v)).length = true) →
                s.drain = .ok s1 → exec i s = .next (doneA s 16 (groupsTo target ts s1.thr.launch domain s1))))))))) ∧
  (∀ fn, 6 ≤ fn → fn ≤ 15 → Illegal 2 0 1 fn)

/-- R330, R331: a push to a named queue writes each record at its slot, in the ring while no more than RINGCAP stand before it and else in the
spill area, adds their number to PUSHED, and puts them behind the queue's records. -/
def Sys2Proof.Claims.QueuePush : Prop :=
  ∀ (s : State) (q : Nat) (e : QEnt) (ts : List TaskRec),
    let slot := fun k => if k < e.popped + e.ringcap ∨ e.spillcap = 0 then e.ring + 32 * (k % e.ringcap) else e.spill + 32 * (k % e.spillcap)
    let u := State.coreWrite (((List.range ts.length).zip ts).foldl (fun u x => u.coreWrite (slot (e.pushed + x.1)) x.2.bytes) s)
      (s.ctx.qtable.toNat + 64 * q + 32) (leBytes 8 ((e.pushed + ts.length) % 2 ^ 64))
    ∃ rs : List DRec, rs.map DRec.task = ts ∧ (∀ r ∈ rs, r.launch = s.thr.launch ∧ r.slot = none) ∧
      s.pushQueue q e ts = { u with ctx := { u.ctx with queued := SMap.put u.ctx.queued q (s.ctx.queue q ++ rs) } }

/-- R322, R331: SPAWNQ builds its records as SPAWN does and pushes them to the named queue in creation order; the faults that differ from
SPAWN's. -/
def Sys2Proof.Claims.SpawnQueue : Prop :=
  ∀ (x : CArgs) (s : State),
    let code := (s.thr.getS x.r.a).toNat
    let n := (s.thr.getS x.r.d).toNat
    let q := (s.thr.getS x.r.b).toNat
    let ls := activeOf x.r s.thr
    let ts := childrenOf x s
    (s.det = true → exec (.spawnq x) s = .next (s.trapA ⟨.nondetOp, 0, 0⟩)) ∧
    (s.det = false → s.ctx.isEntry code = false → exec (.spawnq x) s = .next (s.trapA ⟨.badCodePointer, code, 0⟩)) ∧
    (s.det = false → s.ctx.isEntry code = true →
      (256 ≤ q → exec (.spawnq x) s = .next (s.trapA ⟨.queueInvalid, 0, q⟩)) ∧
      (∀ i c d, q < 256 → s.hwRead (s.ctx.qtable.toNat + 64 * q) 64 true = none → i < 64 →
        s.hwFails (s.ctx.qtable.toNat + 64 * q + i) = some (c, d) → (∀ j, j < i → s.hwFails (s.ctx.qtable.toNat + 64 * q + j) = none) →
        exec (.spawnq x) s = .next (s.trapA ⟨c, s.ctx.qtable.toNat + 64 * q + i, d⟩)) ∧
      (∀ bs, q < 256 → s.hwRead (s.ctx.qtable.toNat + 64 * q) 64 true = some bs → s.ctx.queueOk s.nv (qentOf bs) bs = false →
        exec (.spawnq x) s = .next (s.trapA ⟨.queueInvalid, 0, q⟩)) ∧
      (∀ bs, q < 256 → s.hwRead (s.ctx.qtable.toNat + 64 * q) 64 true = some bs → s.ctx.queueOk s.nv (qentOf bs) bs = true →
        s.thr.ePath = [] →
        (∀ k l, Lowest ls (SpawnWindow x n) k l → ∃ a, exec (.spawnq x) s = .next (s.trapA ⟨.frameWindow, a, k * 2 ^ 32⟩)) ∧
        ((∀ y ∈ ls, ¬SpawnWindow x n y.2) →
          (n = 0 → exec (.spawnq x) s = .next (doneA s 16 s)) ∧
          (n ≠ 0 → (∀ y ∈ ls, ¬SpawnArena x s n y.2) →
            (4096 < n → exec (.spawnq x) s = .next (s.trapA ⟨.spawnOverflow, 0, n⟩)) ∧
            (n ≤ 4096 → fld bs 8 4 + fld bs 12 4 < (s.ctx.queue q).length + ts.length →
              exec (.spawnq x) s = .next (s.trapA ⟨.queueFull, 0, q⟩)) ∧
            (∀ s1, n ≤ 4096 → (s.ctx.queue q).length + ts.length ≤ fld bs 8 4 + fld bs 12 4 → s.drain = .ok s1 →
              exec (.spawnq x) s = .next (doneA s 16 ((s1.coreSaw (s1.qentAddr q) 64).pushQueue q (qentOf bs) ts)))))))

/-- SPAWN and SPAWNQ create their children: `SpawnChildren`, `QueuePush`, `SpawnQueue`. Where the spec is silent it states the choices of the
model: log 23, log 25. -/
def Obligations.Spawning : Prop := Sys2Proof.Claims.SpawnChildren ∧ Sys2Proof.Claims.QueuePush ∧ Sys2Proof.Claims.SpawnQueue

/-! ## Copies -/

namespace Sys2Proof.Claims

/-- The tensors and the box of a COPY's records, where the records, the origins and the formats pass (R294 steps 2 to 4). -/
def Records (x : CArgs) (s : State) (sb db bb : List Byte) : Prop :=
  s.poolRead (x.cmd % 4096) 64 = .ok sb ∧ s.poolRead (x.cmd / 2 ^ 12 % 4096) 64 = .ok db ∧
    s.poolRead (x.cmd / 2 ^ 24 % 4096) 32 = .ok bb

/-- What of the records and origins breaks R289 to R292, and the record that is named. -/
def RecordsBad (x : CArgs) (s : State) (sb db bb : List Byte) (n : Nat) : Prop :=
  let src := tensorOf s.thr sb
  let dst := tensorOf s.thr db
  if src.bad sb false s.windows then n = x.cmd % 4096
  else if dst.bad db true s.windows then n = x.cmd / 2 ^ 12 % 4096
  else if (boxOf bb).bad bb src.rank dst.rank || (dst.mx && decide ((boxOf bb).dstDim 0 % 32 ≠ 0)) then n = x.cmd / 2 ^ 24 % 4096
  else (2 ^ 60 ≤ (s.thr.getS x.r.a).toNat ∨ 2 ^ 60 ≤ (s.thr.getS x.r.b).toNat) ∧ n = x.cmd % 4096

/-- The pairs that R296 refuses. -/
def PairRefused (src dst : Tensor) : Prop := (isIntFmt src.fmt = true ∧ dst.mx = true) ∨ (src.mx = true ∧ isIntFmt dst.fmt = true) ∨ dst.fmt = 32

/-- The destination's range, from its lowest to its highest byte, meets a set window (R249, R294). -/
def MeetsWindow (s : State) (dst : Tensor) : Prop := ∃ w ∈ s.windows, w.meetsRange dst.range = true

/-- Whom the completion word is checked for: in a firing with RESTARTABLE lanes those lanes alone (R370). -/
def forWord (s : State) : Agent :=
  if s.thr.lanes.any fun l => l.task.restart then { s.agent with lanes := s.thr.lanes.filter fun l => l.task.restart } else s.agent

/-- The offset from BASE of an element, or of the block of an MX element, and of the scale byte of one (R291). -/
def elemOff (t : Tensor) (i : Nat → Nat) : Int :=
  ((if t.mx then i 0 / 32 else i 0 : Nat) : Int) * t.step 0 + i 1 * t.step 1 + i 2 * t.step 2 + i 3 * t.step 3 + i 4 * t.step 4
def scaleAt (t : Tensor) (i : Nat → Nat) : Int :=
  t.scaleOff + (i 0 / 32 + t.dim 0 / 32 * (i 1 + t.dim 1 * (i 2 + t.dim 2 * (i 3 + t.dim 3 * i 4))) : Nat)

/-- An index lies inside the extents of a tensor. -/
def Within (t : Tensor) (i : Nat → Nat) : Prop := ∀ d, d < 5 → i d < t.dim d

/-- The copy that a COPY or COPYM puts in flight. -/
def jobOf (fn : Nat) (x : CArgs) (s : State) (sb db bb : List Byte) : CopyJob where
  ident := { vcore := s.vc.id, lanes := s.thr.lanes, launch := s.thr.launch }
  thread := s.thr.id
  firing := s.thr.firing
  token := x.r.msk
  src := tensorOf s.thr sb
  dst := tensorOf s.thr db
  box := boxOf bb
  srcOrigin := (s.thr.getS x.r.a).toNat
  dstOrigin := (s.thr.getS x.r.b).toNat
  acq := fn.testBit 0
  rel := fn.testBit 1
  scope := x.r.ty
  word := (s.thr.getS x.r.c).toNat
  value := s.thr.getS x.r.d
  spawn := none
  members := none
  landing := 0
  order := s.nextId
  windows := s.windows
  serving := 0
  pos := 0
  stop := none
  suspended := false

/-- The state with a copy in flight and its token's COUNT one higher (R294). -/
def inFlight (s : State) (j : CopyJob) : State :=
  { s with
    ctx := { s.ctx with copies := SMap.put s.ctx.copies j.order j }
    thr := s.thr.setK j.token { s.thr.getK j.token with count := (s.thr.getK j.token).count + 1 }
    nextId := s.nextId + 1 }

/-- The virtual cores that MEMBERS names (R300). -/
def membersOf (x : CArgs) (s : State) : List Nat :=
  ((List.range 24).filter fun i => (x.cmd / 2 ^ 36).testBit i).map fun i => 24 * (s.vc.id / 24) + i

/-- MULTICAST_GROUP (R300). -/
def GroupBad (x : CArgs) (s : State) (db : List Byte) : Prop :=
  membersOf x s = [] ∨ (∃ v ∈ membersOf x s, s.nv ≤ v) ∨ s.thr.getS x.r.c = 0 ∨ s.thr.getS x.r.d = 0 ∨
    ((fld db 10 2).testBit 0 = false ∧ 0x3C0000 ≤ fld db 0 8) ∨ (s.thr.getS x.r.d).toNat % 8 ≠ 0 ∨ 0x3C0000 ≤ (s.thr.getS x.r.d).toNat

end Sys2Proof.Claims

/-- R290, R291, R294: where the elements, MX blocks and scale bytes of a tensor lie, modulo 2^64; its range, which is that from its lowest to its
highest byte, the scale array of an MX tensor among them; and the unit of each format that is no MX one. -/
def Sys2Proof.Claims.TensorAddresses : Prop :=
  (∀ (t : Tensor) i, t.addr i = (BitVec.ofInt 64 (t.base + elemOff t i)).toNat ∧
    t.scaleAddr i = (BitVec.ofInt 64 (t.base + scaleAt t i)).toNat) ∧
  (∀ (t : Tensor) i, t.ext.length = 5 → Within t i → (t.mx = true → t.dim 0 % 32 = 0) →
    t.hull.1 ≤ elemOff t i ∧ elemOff t i + t.unit ≤ t.hull.2 ∧ (t.mx = true → t.hull.1 ≤ scaleAt t i ∧ scaleAt t i < t.hull.2)) ∧
  (∀ t : Tensor, t.ext.length = 5 → (∀ d, d < 5 → 0 < t.dim d) →
    t.range = ((BitVec.ofInt 64 (t.base + t.hull.1)).toNat, (t.hull.2 - t.hull.1).toNat) ∧
    (t.mx = false → (∃ i, Within t i ∧ elemOff t i = t.hull.1) ∧ ∃ i, Within t i ∧ elemOff t i + t.unit = t.hull.2)) ∧
  (∀ f, f ≤ 12 → fmtUnit f false = if f = 0 ∨ f = 1 ∨ f = 11 ∨ f = 12 then 1 else if f = 2 ∨ f = 3 ∨ f = 6 ∨ f = 7 then 2
    else if f = 9 ∨ f = 10 then 8 else 4)

/-- R293, R294: COPY checks its records, formats, destination, and completion word or task record in this order, each failure a trap that
starts nothing; else it adds 1 to its token's COUNT, puts the copy in flight and completes; a token with COUNT 255 makes it wait. -/
def Sys2Proof.Claims.CopyIssue : Prop :=
  (∀ fn (x : CArgs) (s : State), fn ≤ 7 → fn.testBit 2 = true → HasRestartable s.thr →
    exec (.copy fn x) s = .next (s.trapA ⟨.frameWindow, 0, 0⟩)) ∧
  (∀ fn (x : CArgs) (s : State) e, fn ≤ 7 → fn.testBit 2 = false ∨ ¬HasRestartable s.thr →
    s.poolRead (x.cmd % 4096) 64 = .error (.trap e) → exec (.copy fn x) s = .next (s.trapA e)) ∧
  (∀ fn (x : CArgs) (s : State) sb db bb, fn ≤ 7 → fn.testBit 2 = false ∨ ¬HasRestartable s.thr → Records x s sb db bb →
    let src := tensorOf s.thr sb
    let dst := tensorOf s.thr db
    let word := (s.thr.getS x.r.c).toNat
    let i := Instr.copy fn x
    let room := (s.thr.getK x.r.msk).count < 255
    (∀ n, RecordsBad x s sb db bb n → exec i s = .next (s.trapA ⟨.recordInvalid, 0, n⟩)) ∧
    ((∀ n, ¬RecordsBad x s sb db bb n) →
      (PairRefused src dst → exec i s = .next (s.trapA ⟨.convertInvalid, 0, 0⟩)) ∧
      (¬PairRefused src dst →
        (MeetsWindow s dst → exec i s = .next (s.trapA ⟨.windowStore, dst.range.1, 0⟩)) ∧
        (¬MeetsWindow s dst →
          (word = 0 → room → exec i s = .next (doneA s 16 (inFlight (s.sawRecords x).flush (jobOf fn x s sb db bb)))) ∧
          (word = 0 → ¬room → Fresh s → exec i s = .next (waiting s .other)) ∧
          (fn.testBit 2 = false → word ≠ 0 →
            (∀ e, s.check (forWord s) (writeAcc word 8) = .error (.trap e) → exec i s = .next (s.trapA e)) ∧
            (∀ t, s.check (forWord s) (writeAcc word 8) = .ok t → room →
              exec i s = .next (doneA s 16 (inFlight (s.sawRecords x).flush (jobOf fn x s sb db bb)))) ∧
            (∀ t, s.check (forWord s) (writeAcc word 8) = .ok t → ¬room → Fresh s → exec i s = .next (waiting s .other))) ∧
          (fn.testBit 2 = true → word ≠ 0 →
            (∀ e, s.check s.agent (readAcc word 32) = .error (.trap e) → exec i s = .next (s.trapA e)) ∧
            (∀ t bs, s.check s.agent (readAcc word 32) = .ok t → s.readTarget s.agent (readAcc word 32) t = .ok bs →
              (s.ctx.recordCause bs = some .badCodePointer → exec i s = .next (s.trapA ⟨.badCodePointer, (taskOf bs).code, 0⟩)) ∧
              (s.ctx.recordCause bs = some .recordInvalid → exec i s = .next (s.trapA ⟨.recordInvalid, word, 0⟩)) ∧
              (s.ctx.recordCause bs = none → (taskOf bs).count ≠ 0 → exec i s = .next (s.trapA ⟨.recordInvalid, 0, 0⟩)) ∧
              (s.ctx.recordCause bs = none → (taskOf bs).count = 0 → room →
                exec i s = .next (doneA s 16 (inFlight ((s.sawRange s.agent 32 word 32).sawRecords x).flush
                  { jobOf fn x s sb db bb with word := 0, spawn := some (taskOf bs) }))))))))) ∧
  (∀ fn, 8 ≤ fn → Illegal 2 0 8 fn)

/-- R300, R303: COPYM checks as COPY does and its group after the formats; it waits while its core has four COPYMs; else it puts the copy in
flight with the members to serve, and notes the mailbox. -/
def Sys2Proof.Claims.MulticastIssue : Prop :=
  (∀ fn (x : CArgs) (s : State), fn ≤ 3 → HasRestartable s.thr → exec (.copym fn x) s = .next (s.trapA ⟨.frameWindow, 0, 0⟩)) ∧
  (∀ fn (x : CArgs) (s : State) sb db bb, fn ≤ 3 → ¬HasRestartable s.thr → Records x s sb db bb →
    let dst := tensorOf s.thr db
    let mail := atomicAcc (s.thr.getS x.r.c).toNat 8 false
    let i := Instr.copym fn x
    (∀ n, RecordsBad x s sb db bb n → exec i s = .next (s.trapA ⟨.recordInvalid, 0, n⟩)) ∧
    ((∀ n, ¬RecordsBad x s sb db bb n) → PairRefused (tensorOf s.thr sb) dst → exec i s = .next (s.trapA ⟨.convertInvalid, 0, 0⟩)) ∧
    ((∀ n, ¬RecordsBad x s sb db bb n) → ¬PairRefused (tensorOf s.thr sb) dst →
      (GroupBad x s db → exec i s = .next (s.trapA ⟨.multicastGroup, 0, 0⟩)) ∧
      (¬GroupBad x s db → MeetsWindow s dst → exec i s = .next (s.trapA ⟨.windowStore, dst.range.1, 0⟩)) ∧
      (¬GroupBad x s db → ¬MeetsWindow s dst →
        (∀ e, s.check s.agent mail = .error (.trap e) → exec i s = .next (s.trapA e)) ∧
        (∀ t, s.check s.agent mail = .ok t → 4 ≤ s.vc.copyms.length ∨ 255 ≤ (s.thr.getK x.r.msk).count → Fresh s →
          exec i s = .next (waiting s .other)) ∧
        (∀ t, s.check s.agent mail = .ok t → s.vc.copyms.length < 4 → (s.thr.getK x.r.msk).count < 255 →
          exec i s = .next (doneA s 16 (inFlight
            ((s.sawRecords x).flush.updVc fun v => { v with copyms := v.copyms ++ [⟨s.nextId, membersOf x s, (s.thr.getS x.r.c).toNat, x.r.ty⟩] })
            { jobOf fn x s sb db bb with
              word := 0, value := 0, members := some (membersOf x s), landing := (s.thr.getS x.r.d).toNat })))))) ∧
  (∀ fn, 4 ≤ fn → Illegal 2 0 9 fn)

/-- COPY and COPYM check their records and start a copy; where the elements of their tensors lie: `TensorAddresses`, `CopyIssue`,
`MulticastIssue`. Where the spec is silent it states the choices of the model: log 12, log 19, log 20. -/
def Obligations.CopyIssue : Prop :=
  Sys2Proof.Claims.TensorAddresses ∧ Sys2Proof.Claims.CopyIssue ∧ Sys2Proof.Claims.MulticastIssue

namespace Sys2Proof.Claims

/-- Step k of a copy, of the destination index u and the source index i (R295): its digits in canonical order, dimension 0 fastest, count through
the box, whose extent along destination dimension d is that of source dimension perm(d). -/
def StepOf (j : CopyJob) (k : Nat) (u i : Nat → Nat) : Prop :=
  ∃ n : Nat → Nat,
    let e := fun d => j.box.dim (j.box.permOf d)
    (∀ d, d < 5 → n d < e d) ∧ k = n 0 + e 0 * (n 1 + e 1 * (n 2 + e 2 * (n 3 + e 3 * n 4))) ∧
      (∀ d, d < 5 → u d = j.dstOrigin / 2 ^ (12 * d) % 2 ^ 12 * e d + n d) ∧
      ∀ d, d < 5 → i (j.box.permOf d) = j.srcOrigin / 2 ^ (12 * j.box.permOf d) % 2 ^ 12 * e d + n d

/-- PERM is a permutation of 0 to 4 (R292). -/
def Permutes (b : Box) : Prop := (∀ d, d < 5 → b.permOf d < 5) ∧ ∀ c d, c < 5 → d < 5 → b.permOf c = b.permOf d → c = d

/-- What a step reads of the source at index i (R295, R296): nothing outside the extents, the bits of an element, or an MX element's scale byte
and code. -/
def ReadsElem (s : State) (j : CopyJob) (i : Nat → Nat) (x : Elem) : Prop :=
  (¬Within j.src i ∧ x = .fill) ∨
  (Within j.src i ∧ j.src.mx = false ∧
    ∃ bs, s.engineRead j j.src.unit (j.src.addr i) j.src.unit = .ok bs ∧ x = .bits (leNat bs)) ∨
  (Within j.src i ∧ j.src.mx = true ∧ ∃ bs sc, s.engineRead j 1 (j.src.addr i) j.src.unit = .ok bs ∧
    s.engineRead j 1 (j.src.scaleAddr i) 1 = .ok sc ∧ x = .mx (leNat sc) ((j.src.codes bs)[i 0 % 32]?.getD 0))

/-- The source and the destination have one format, so that elements pass bit for bit (R296). -/
def SameFormat (j : CopyJob) : Prop := j.src.fmt = j.dst.fmt ∧ j.src.plane = j.dst.plane

/-- The value of FILL as a number of its format (R289). -/
def fillOf (t : Tensor) : CvtFmt × Nat :=
  (if t.fmt ∈ [1, 3, 5, 10] then .int 32 true else if t.fmt ∈ [0, 2, 4, 9] then .int 32 false else .float fp32, t.fill)

/-- The bits written for what a step reads, where the destination is no MX format (R296): passed, or converted under RM, saturating to E4M3 and
E5M2. -/
def converted (j : CopyJob) (x : Elem) : Nat :=
  let rm := Mode.ofCode j.box.rm
  let sat := decide (j.dst.fmt = 11 ∨ j.dst.fmt = 12)
  let via := fun (src : CvtFmt) n => (convert src (fmtCvt j.dst.fmt) rm sat n 0).1
  match x with
  | .bits n => if j.src.fmt = j.dst.fmt ∧ j.src.plane = j.dst.plane then n else via (fmtCvt j.src.fmt) n
  | .mx sc c => match fmtCvt j.dst.fmt with
    | .float f => (f.round rm ((fmtMx j.src.fmt).1.decode sc c) sat 0).1
    | .int _ _ => 0
  | .fill => via (fillOf j.src).1 (fillOf j.src).2

/-- The value of what a step reads on its way into an MX block (R126, R296). -/
def valueOf (j : CopyJob) (x : Elem) : FVal :=
  match x with
  | .bits n => match fmtCvt j.src.fmt with | .float f => f.decode n | .int _ _ => .nan false
  | .mx sc c => fp32.decode (fp32.round (Mode.ofCode j.box.rm) ((fmtMx j.src.fmt).1.decode sc c) false 0).1
  | .fill => fp32.decode j.src.fill

/-- The payload of a copy from its position on, performed without a stop. -/
def PayloadDone (j : CopyJob) (s s1 : State) : Prop := ∃ k, copyLoop j (j.steps - j.pos) j.pos s = (s1, k, none)

/-- The copies of a context go on: it is not halted, or its stop waits for them (R390). -/
def CopiesGoOn (s : State) (c : Ctx) : Prop := c.halted = true → c.part ∈ s.stops

/-- A copy that an engine may carry on: the issuer's focus, a context whose copies go on, no stop, and no parked store of the issuer before it that
could still be performed (R262, R390). -/
def MayCopy (s0 s : State) (j : CopyJob) : Prop :=
  s0.copyAt s0.req.t.ctx s0.req.n = some j ∧ (∀ c, s0.ctxAt s0.req.t.ctx = some c → CopiesGoOn s0 c) ∧
    s = s0.focus { ctx := s0.req.t.ctx, vc := j.ident.vcore, th := j.thread } ∧
    j.stop = none ∧ ∀ p ∈ s.thr.replay, p.failed ≠ none ∨ j.order < p.order

/-- The state without a copy, COUNT of its token one lower where the thread still has the firing that issued it (R282, R297). -/
def copyOver (s : State) (j : CopyJob) : State :=
  { s with
    ctx := { s.ctx with copies := SMap.del s.ctx.copies j.order }
    thr :=
      if s.thr.firing = j.firing then s.thr.setK j.token { s.thr.getK j.token with count := (s.thr.getK j.token).count - 1 }
      else s.thr }

/-- The state with a copy's record replaced. -/
def copyNow (s : State) (j : CopyJob) : State := { s with ctx := { s.ctx with copies := SMap.put s.ctx.copies j.order j } }

end Sys2Proof.Claims

/-- R295: the payload of a copy is its steps in canonical order, as many as the box has elements, and none to an empty destination. -/
def Sys2Proof.Claims.CopyOrder : Prop :=
  (∀ (j : CopyJob) k s, copyLoop j 0 k s = (s, k, none)) ∧
  (∀ (j : CopyJob) n k s s1, s.copyStep j k = .ok s1 → copyLoop j (n + 1) k s = copyLoop j n (k + 1) s1) ∧
  (∀ (j : CopyJob) n k s e, s.copyStep j k = .error e → copyLoop j (n + 1) k s = (s, k, some e)) ∧
  (∀ j : CopyJob, j.box.ext.length = 5 → j.dst.ext.length = 5 → Permutes j.box →
    ((∃ d, d < 5 ∧ j.dst.dim d = 0) → j.steps = 0) ∧
    ((∀ d, d < 5 → j.dst.dim d ≠ 0) → j.steps = j.box.dim 0 * j.box.dim 1 * j.box.dim 2 * j.box.dim 3 * j.box.dim 4)) ∧
  (∀ (j : CopyJob) k, j.box.ext.length = 5 → Permutes j.box →
    k < j.box.dim 0 * j.box.dim 1 * j.box.dim 2 * j.box.dim 3 * j.box.dim 4 → ∃ u i, StepOf j k u i)

/-- R295, R296: one step of a copy. What it reads of the source is converted and written at the destination's address; a destination index outside
the extents is skipped. An MX destination takes a block with the step of its last element: passed bit for bit, or its 32 elements, read in
canonical order and encoded, and its scale byte. -/
def Sys2Proof.Claims.CopyElements : Prop :=
  ∀ (s : State) (j : CopyJob) (k : Nat) (u i : Nat → Nat), Permutes j.box → StepOf j k u i →
    (¬Within j.dst u → s.copyStep j k = .ok s) ∧
    (Within j.dst u → j.dst.mx = false →
      ∀ x t, ReadsElem s j i x → s.engineTarget j j.dst.unit (j.dst.addr u) j.dst.unit = .ok t →
        s.copyStep j k = (s.copySaw j k).engineWrite 1 t (leBytes j.dst.unit (converted j x))) ∧
    (Within j.dst u → j.dst.mx = true → u 0 % 32 ≠ 31 → s.copyStep j k = .ok s) ∧
    (Within j.dst u → j.dst.mx = true → u 0 % 32 = 31 →
      ∀ t t', s.engineTarget j 1 (j.dst.addr u) j.dst.unit = .ok t → s.engineTarget j 1 (j.dst.scaleAddr u) 1 = .ok t' →
        (SameFormat j → j.box.permOf 0 = 0 → Within j.src i →
          ∀ bs sc, s.engineRead j 1 (j.src.addr i) j.src.unit = .ok bs → s.engineRead j 1 (j.src.scaleAddr i) 1 = .ok sc →
            s.copyStep j k = (s.blockSaw j k).engineWrite 1 (t ++ t') (bs ++ sc)) ∧
        (¬(SameFormat j ∧ j.box.permOf 0 = 0 ∧ Within j.src i) →
          ∀ xs : List Elem, xs.length = 32 →
            (∀ n, n < 32 → ∃ u' i' x, StepOf j (k - 31 + n) u' i' ∧ xs[n]? = some x ∧ ReadsElem s j i' x) →
            ∀ scale codes fl, (fmtMx j.dst.fmt).1.encode (Mode.ofCode j.box.rm) (xs.map (valueOf j)) [] = (scale, codes, fl) →
              s.copyStep j k = (s.blockSaw j k).engineWrite 1 (t ++ t') (j.dst.blockOf codes ++ leBytes 1 scale)))

/-- R293, R295, R298: the bytes of a write of the payload from one near range to another: every byte of the destination's range is the given one,
every other byte of memory reads as before; and a step that reads and writes near elements changes the bytes of its destination element
alone. -/
def Sys2Proof.Claims.CopyBytes : Prop :=
  (∀ (s s1 : State) (j : CopyJob) (align va : Nat) (bs : List Byte) t, bs ≠ [] → va + bs.length ≤ 0x400000 →
    s.engineTarget j align va bs.length = .ok t → s.engineWrite 1 t bs = .ok s1 →
    let owner := if j.members = none then j.ident.vcore else j.serving
    let at_ := s.physOf owner * 0x400000 + va
    at_ + bs.length ≤ 0x80000000000 →
    ∀ x, s1.mem.read x = if at_ ≤ x ∧ x < at_ + bs.length then bs[x - at_]?.getD 0 else s.mem.read x) ∧
  (∀ (s : State) (j : CopyJob) (k : Nat) (u i : Nat → Nat), Permutes j.box → StepOf j k u i → Within j.dst u → Within j.src i →
    j.src.mx = false → j.dst.mx = false → j.members = none → j.src.unit ≠ 0 → j.dst.unit ≠ 0 →
    let base := s.physOf j.ident.vcore * 0x400000
    let a := j.src.addr i
    let b := j.dst.addr u
    a + j.src.unit ≤ 0x400000 → b + j.dst.unit ≤ 0x400000 → base + 0x400000 ≤ 0x80000000000 →
    (∃ ps, s.engineSource j j.src.unit a j.src.unit = .ok ps ∧ ∀ p ∈ ps, ∃ pa, p.2 = .mem pa ∧ s.accessFails pa p.1.size = none) →
    (∃ t, s.engineTarget j j.dst.unit b j.dst.unit = .ok t) →
    ∃ s1, s.copyStep j k = .ok s1 ∧
      ∀ x, s1.mem.read x =
        if base + b ≤ x ∧ x < base + b + j.dst.unit then
          (leBytes j.dst.unit (converted j (.bits (leNat ((List.range j.src.unit).map fun n => s.mem.read (base + a + n))))))[x - (base + b)]?.getD 0
        else s.mem.read x)

/-- R295 to R298: a copy carries out its payload in canonical order, then its completion word, its spawn, and the decrease of its token; a
page fault suspends it until the runtime resolves it; any other failure sets the token's error once, lowers COUNT and is reported. -/
def Sys2Proof.Claims.CopyEngine : Prop :=
  (∀ s0 s s1 j, MayCopy s0 s j → j.members = none → PayloadDone j s s1 →
    (j.word = 0 → j.spawn = none → exec .copyComplete s0 = .next (copyOver s1 j)) ∧
    (∀ t s2, j.word ≠ 0 → j.spawn = none → s1.engineTarget j 8 j.word 8 = .ok t →
      s1.engineWrite 2 t (leBytes 8 j.value.toNat) = .ok s2 → exec .copyComplete s0 = .next (copyOver s2 j)) ∧
    (∀ e, j.word ≠ 0 → s1.engineTarget j 8 j.word 8 = .error (.trap e) → ∃ k, exec .copyComplete s0 = .next (copyNow s1 { j with
      pos := k, stop := some ⟨e.cause, e.faddr, e.fdetail⟩,
      suspended := decide (e.cause = .pageFaultRead) || decide (e.cause = .pageFaultWrite) })) ∧
    (∀ r l, j.word = 0 → j.spawn = some r → SMap.find s1.ctx.launches j.ident.launch = some l →
      s1.fits (r.key / 2 ^ 32 * l.nv / 2 ^ 32) 1 = false → ∃ k, exec .copyComplete s0 = .next (copyNow s1 { j with
        pos := k, stop := some ⟨.spawnOverflow, 0, r.key / 2 ^ 32 * l.nv / 2 ^ 32⟩, suspended := false })) ∧
    (∀ r l, j.word = 0 → j.spawn = some r → SMap.find s1.ctx.launches j.ident.launch = some l →
      s1.fits (r.key / 2 ^ 32 * l.nv / 2 ^ 32) 1 = true →
      exec .copyComplete s0 = .next (copyOver (s1.enqueue (r.key / 2 ^ 32 * l.nv / 2 ^ 32) j.ident.launch 0 [r]) j))) ∧
  (∀ s0 s s1 j k e, MayCopy s0 s j → j.members = none → copyLoop j (j.steps - j.pos) j.pos s = (s1, k, some (.trap e)) →
    exec .copyComplete s0 = .next (copyNow s1 { j with
      pos := k, stop := some ⟨e.cause, e.faddr, e.fdetail⟩,
      suspended := decide (e.cause = .pageFaultRead) || decide (e.cause = .pageFaultWrite) })) ∧
  (∀ s0 s j, s0.copyAt s0.req.t.ctx s0.req.n = some j → s = s0.focus ⟨s0.req.t.ctx, j.ident.vcore, j.thread⟩ →
    (j.suspended = true → exec .copyContinues s0 = .next (copyNow s { j with stop := none, suspended := false })) ∧
    (j.suspended = false → exec .copyContinues s0 = .next s0)) ∧
  (∀ s0 s j e, s0.copyAt s0.req.t.ctx s0.req.n = some j → s = s0.focus ⟨s0.req.t.ctx, j.ident.vcore, j.thread⟩ →
    j.stop = some e → j.members = none → j.token < 8 → ∃ s1 : State, exec .copyFailed s0 = .next s1 ∧
      (s.thr.firing ≠ j.firing → s1.thr = s.thr) ∧
      (s.thr.firing = j.firing → s1.thr.getK j.token =
        { count := (s.thr.getK j.token).count - 1, err := true,
          cause := if (s.thr.getK j.token).err then (s.thr.getK j.token).cause else causeCode e.cause,
          addr := if (s.thr.getK j.token).err then (s.thr.getK j.token).addr else e.faddr }) ∧
      (∃ r, s1.reports = s.reports ++ [r] ∧ r.cause = .copyFailed ∧ r.ctxid = s.ctx.id ∧ r.faddr = e.faddr) ∧
      s1.mem = s.mem ∧ s1.vc = s.vc)

namespace Sys2Proof.Claims

/-- The virtual core of a COPYM, its record, and the state with that core in focus; the context is not halted (R390). -/
def SenderOf (s0 s : State) (v : Nat) (o : OutCopym) : Prop :=
  (∃ c, s0.sync.ctxAt s0.req.t.ctx = some c ∧ c.halted = false ∧ c.copymOf s0.req.n = some (v, o)) ∧ s = s0.sync.load ⟨s0.req.t.ctx, v, 0⟩

end Sys2Proof.Claims

/-- R24, R301, R302: a delivery writes the payload and adds 1 to the member's landing word, with one pending free at the member; the last
member lowers the token. Free messages arrive behind the older ones of their class from the same core; when every member has freed, the
sender's mailbox word rises by 1, or stays owed. FREEB, once every earlier access of the thread has been performed, retires the oldest pending
free of its key and sends the free message. -/
def Sys2Proof.Claims.MulticastFlow : Prop :=
  (∀ s0 s s1 j0 ms pa, MayCopy s0 s j0 → j0.members = some ms → s0.req.t.vc ∈ ms → j0.pos = 0 ∨ j0.serving = s0.req.t.vc →
    let v := s0.req.t.vc
    let j := { j0 with serving := v }
    PayloadDone j s s1 → s1.memberCheck v (writeAcc j.landing 8) = .ok pa → s1.accessFails pa 8 = none →
    let s2 := ((s1.writePhys pa (leBytes 8 ((leNat (s1.busRead pa 8) + 1) % 2 ^ 64))).engineMsg 0 pa).onVc v fun c =>
      { c with frees := c.frees ++ [⟨j.landing, j.ident.vcore, j.order⟩] }
    let rest := ms.filter fun m => decide (m ≠ v)
    (rest = [] → exec .multicastDelivery s0 = .next (copyOver s2 j)) ∧
    (rest ≠ [] → exec .multicastDelivery s0 =
      .next (copyNow s2 { j with members := some rest, pos := 0, stop := none, suspended := false }))) ∧
  (∀ (c : Ctx) src dst seq, c.classBusy src dst seq = true ↔
    (∃ h ∈ c.handovers, h.sender = src ∧ h.dest = dst ∧ h.seq < seq) ∨ ∃ m ∈ c.freeMsgs, m.member = src ∧ m.sender = dst ∧ m.seq < seq) ∧
  (∀ s0 s v o, SenderOf s0 s v o →
    let msgs := s.ctx.freeMsgs.filter fun m => decide (m.order = o.order) && !s.ctx.classBusy m.member m.sender m.seq
    let left := o.members.filter fun m => !(msgs.any fun x => decide (x.member = m))
    let s2 := { s with
      ctx := { s.ctx with freeMsgs := s.ctx.freeMsgs.filter fun m => decide (m ∉ msgs) }
      vc := { s.vc with copyms := s.vc.copyms.map fun c => if c.order = o.order then { c with members := left } else c } }
    let s3 := if msgs = [] then s2 else s2.receivedMsg v 3
    (left ≠ [] → exec .multicastAllFreed s0 = .next s3) ∧
    (∀ pa, left = [] → s3.mailboxAddr v o.mailbox = .ok pa → s3.accessFails pa 8 = none →
      exec .multicastAllFreed s0 = .next
        ((((s3.writePhys pa (leBytes 8 ((leNat (s3.busRead pa 8) + 1) % 2 ^ 64))).engineMsg 0 pa).markLeaf o.mailbox true).updVc fun x =>
          { x with copyms := x.copyms.filter fun c => decide (c.order ≠ o.order) })) ∧
    (∀ e, left = [] → s3.mailboxAddr v o.mailbox = .error (.trap e) → exec .multicastAllFreed s0 = .next s3)) ∧
  (∀ (r : RArgs) (s : State),
    ((∃ p ∈ s.thr.replay, p.failed = none) → Fresh s → exec (.freeb r) s = .next (waiting s .other)) ∧
    ((∀ p ∈ s.thr.replay, p.failed ≠ none) →
      ((∀ f ∈ s.flush.vc.frees, f.key ≠ (s.thr.getS r.a).toNat) → exec (.freeb r) s = .next (s.trapA ⟨.multicastGroup, 0, 0⟩)) ∧
      (∀ before f after, s.flush.vc.frees = before ++ f :: after → f.key = (s.thr.getS r.a).toNat →
        (∀ x ∈ before, x.key ≠ (s.thr.getS r.a).toNat) →
        exec (.freeb r) s = .next (doneA s 8 (State.sentMsg { ((s.flush.updVc fun v => { v with frees := before ++ after }).updCtx
          fun c => { c with freeMsgs := c.freeMsgs ++ [{ sender := f.sender, order := f.order, member := s.vc.id, seq := s.nextId }] })
            with nextId := s.nextId + 1 } 3))))) ∧
  (∀ fn, 1 ≤ fn → Illegal 0 0 46 fn)

/-- What the copy engine does, step by step and byte by byte, and FREEB: `CopyOrder`, `CopyElements`, `CopyBytes`, `CopyEngine`,
`MulticastFlow`. Where the spec is silent it states the choices of the model: log 12, log 15, log 19, log 20, log 21. -/
def Obligations.CopyFlow : Prop :=
  Sys2Proof.Claims.CopyOrder ∧ Sys2Proof.Claims.CopyElements ∧ Sys2Proof.Claims.CopyBytes ∧ Sys2Proof.Claims.CopyEngine ∧
    Sys2Proof.Claims.MulticastFlow

/-! ## Numbers -/

namespace Sys2Proof.Claims

/-- The float formats of R103 and R104: exponent bits, fraction bits, bias. -/
def fmtFields : List (Fmt × Nat × Nat × Nat) :=
  [(fp32, 8, 23, 127), (bf16, 8, 7, 127), (fp16, 5, 10, 15), (e5m2, 5, 2, 15), (e4m3, 4, 3, 7), (e3m2, 3, 2, 3), (e2m3, 2, 3, 1),
   (e2m1, 2, 1, 1)]

/-- The formats of R103: the encoding and the value of the largest finite magnitude, the encoding of an infinity (of the NaN in E4M3, which has
none), and the canonical NaN. -/
def floatRows : List (Fmt × Nat × ℚ × Nat × Nat) :=
  [(fp32, 0x7F7FFFFF, (2 ^ 24 - 1) * 2 ^ 104, 0x7F800000, 0x7FC00000), (bf16, 0x7F7F, (2 ^ 8 - 1) * 2 ^ 120, 0x7F80, 0x7FC0),
   (fp16, 0x7BFF, 65504, 0x7C00, 0x7E00), (e5m2, 0x7B, 57344, 0x7C, 0x7E), (e4m3, 0x7E, 448, 0x7F, 0x7F)]

/-- The formats that the E-stream computes in (R175). -/
def isElemFmt (f : Fmt) : Prop := f = fp32 ∨ f = bf16 ∨ f = fp16

/-- An encoding with a sign bit. -/
def withSign (f : Fmt) (neg : Bool) (x : Nat) : Nat := if neg then x + 2 ^ (f.eb + f.fb) else x

/-- `x` is finite, with sign bit `neg` and magnitude `a`. -/
def IsFin (x : FVal) (neg : Bool) (a : ℝ) : Prop := ∃ n e, x = .fin neg n e ∧ (n : ℝ) * 2 ^ e = a

/-- `x` is finite with value `v`. -/
def HasValue (x : FVal) (v : ℝ) : Prop := ∃ neg a, IsFin x neg a ∧ v = if neg then -a else a

def IsNan (x : FVal) : Prop := ∃ b, x = .nan b

/-- R109: a magnitude of y units rounded to r units; `w` is the random word of STOCH (R111). -/
def RoundsTo (rm : Mode) (neg : Bool) (w : Nat) (y : ℝ) (r : Nat) : Prop :=
  let t := ⌊y⌋₊
  let f := y - t
  let up := match rm with
    | .rtz => False
    | .rup => 0 < f ∧ neg = false
    | .rdn => 0 < f ∧ neg = true
    | .rne => 1 / 2 < f ∨ (f = 1 / 2 ∧ t % 2 = 1)
    | .rna => 1 / 2 ≤ f
    | .stoch => 2 ^ 16 ≤ ⌊f * 2 ^ 16⌋₊ + w
  (up ∧ r = t + 1) ∨ (¬up ∧ r = t)

/-- R110: what an overflow delivers. -/
def overflowed (f : Fmt) (top inf nan : Nat) (rm : Mode) (neg sat : Bool) : Nat :=
  if sat ∨ rm = .rtz ∨ (rm = .rup ∧ neg = true) ∨ (rm = .rdn ∧ neg = false) then withSign f neg top
  else if f = e4m3 then nan else withSign f neg inf

/-- R109 to R113: what a nonzero magnitude `a` delivers in a format, with the flags OF 4, UF 2 and NX 1. -/
def Delivers (f : Fmt) (top : Nat) (mx : ℚ) (inf nan : Nat) (rm : Mode) (neg sat : Bool) (w : Nat) (a : ℝ) (out : Nat × Nat) : Prop :=
  ∃ (lg : Int) (r r1 : Nat), (2 : ℝ) ^ lg ≤ a ∧ a < (2 : ℝ) ^ (lg + 1) ∧
    let emin : Int := 1 - (f.bias : Int)
    let q := (2 : ℝ) ^ (max lg emin - (f.fb : Int))
    let q1 := (2 : ℝ) ^ (lg - (f.fb : Int))
    RoundsTo rm neg w (a / q) r ∧ RoundsTo rm neg w (a / q1) r1 ∧
    ((mx : ℝ) < r * q → out = (overflowed f top inf nan rm neg sat, 5)) ∧
    (r * q ≤ (mx : ℝ) → out.1 < 2 ^ (1 + f.eb + f.fb) ∧ IsFin (f.decode out.1) neg (r * q) ∧ out.2 < 4 ∧
      (out.2.testBit 0 = true ↔ r * q ≠ a) ∧ (out.2.testBit 1 = true ↔ r * q ≠ a ∧ r1 * q1 < (2 : ℝ) ^ emin))

/-- R105, R107: a sum of two finite values, each a sign and a magnitude: the exact sum, rounded; an exact 0 takes the common sign of two zeros,
and else is −0 under RDN alone. -/
def SumsTo (f : Fmt) (rm : Mode) (s : Bool) (u : ℝ) (t : Bool) (v : ℝ) (out : Nat × Nat) : Prop :=
  let z := (if s then -u else u) + (if t then -v else v)
  (z ≠ 0 → ∀ x, HasValue x z → out = f.round rm x) ∧
  (z = 0 → u = 0 → s = t → out = (withSign f s 0, 0)) ∧
  (z = 0 → u ≠ 0 ∨ s ≠ t → out = (withSign f (decide (rm = .rdn)) 0, 0))

/-- One of the operands is a NaN: the canonical NaN, and NV (16) where one is signalling (R106, R107). -/
def NanRule (nan : Nat) (xs : List FVal) (out : Nat × Nat) : Prop :=
  (∃ x ∈ xs, IsNan x) → out = (nan, if FVal.nan true ∈ xs then 16 else 0)

/-- The order of values that are no NaN (R108, R189). -/
def Less (x y : FVal) : Prop :=
  (x = .inf true ∧ y ≠ .inf true) ∨ (y = .inf false ∧ x ≠ .inf false) ∨ ∃ u v, HasValue x u ∧ HasValue y v ∧ u < v

/-- The order in which −0 counts as less than +0 (R108). -/
def Below (x y : FVal) : Prop := Less x y ∨ (IsFin x true 0 ∧ IsFin y false 0)

/-- The range of an integer type of w bits. -/
def intLo (w : Nat) (sg : Bool) : Int := if sg then -2 ^ (w - 1) else 0
def intHi (w : Nat) (sg : Bool) : Int := if sg then 2 ^ (w - 1) - 1 else 2 ^ w - 1

/-- The bits of an integer in w bits, and the integer that w bits stand for. -/
def intBits (w : Nat) (x : Int) : Nat := (x % 2 ^ w).toNat
def bitsInt (w : Nat) (sg : Bool) (x : Nat) : Int :=
  if sg ∧ 2 ^ (w - 1) ≤ x % 2 ^ w then ((x % 2 ^ w : Nat) : Int) - 2 ^ w else ((x % 2 ^ w : Nat) : Int)

end Sys2Proof.Claims

/-- R103, R104, R106, R109 to R113: the value of every encoding of every format, and how a value is delivered in a format: a NaN as the canonical
one, an infinity, a zero with its sign, and else rounded, with its flags. -/
def Sys2Proof.Claims.FloatValues : Prop :=
  (∀ f eb fb bias, (f, eb, fb, bias) ∈ fmtFields → f.eb = eb ∧ f.fb = fb ∧ f.bias = bias ∧
    ∀ x, x < 2 ^ (1 + eb + fb) →
      let neg := x.testBit (eb + fb)
      let ex : Nat := x / 2 ^ fb % 2 ^ eb
      let fr : Nat := x % 2 ^ fb
      let special := (f ∈ [fp32, bf16, fp16, e5m2] ∧ ex = 2 ^ eb - 1) ∨ (f = e4m3 ∧ x % 128 = 127)
      (special → f ≠ e4m3 → fr = 0 → f.decode x = .inf neg) ∧
      (special → f ≠ e4m3 → fr ≠ 0 → f.decode x = .nan (decide (fr < 2 ^ (fb - 1)))) ∧
      (special → f = e4m3 → f.decode x = .nan false) ∧
      (¬special → IsFin (f.decode x) neg
        (if ex = 0 then (2 : ℝ) ^ (1 - (bias : Int)) * (fr / 2 ^ fb) else (2 : ℝ) ^ ((ex : Int) - bias) * (1 + fr / 2 ^ fb)))) ∧
  (∀ f top mx inf nan rm sat w, (f, top, mx, inf, nan) ∈ floatRows → w < 65536 → (sat = true → f = e4m3 ∨ f = e5m2) →
    (∀ b, f.round rm (.nan b) sat w = (nan, if b then 16 else 0)) ∧
    (∀ neg, f.round rm (.inf neg) sat w =
      if sat then (withSign f neg top, 1) else (if f = e4m3 then nan else withSign f neg inf, 0)) ∧
    (∀ x neg a, IsFin x neg a → (a = 0 → f.round rm x sat w = (withSign f neg 0, 0)) ∧
      (a ≠ 0 → Delivers f top mx inf nan rm neg sat w a (f.round rm x sat w))))

/-- R105 to R107, R186 to R188: sums, products, fused sums, quotients, square roots and reciprocals: the exact value rounded once, and the
special cases with their flags. -/
def Sys2Proof.Claims.FloatArithmetic : Prop :=
  ∀ f top mx inf nan rm (a b c : Nat), (f, top, mx, inf, nan) ∈ floatRows → isElemFmt f → a < 2 ^ f.width → b < 2 ^ f.width → c < 2 ^ f.width →
    let x := f.decode a
    let y := f.decode b
    let z := f.decode c
    (∀ minus : Bool,
      let out := if minus then f.sub rm a b else f.add rm a b
      NanRule nan [x, y] out ∧
      (∀ s t, x = .inf s → y = .inf t → out = if s = (t != minus) then (withSign f s inf, 0) else (nan, 16)) ∧
      (∀ s t v, x = .inf s → IsFin y t v → out = (withSign f s inf, 0)) ∧
      (∀ s u t, IsFin x s u → y = .inf t → out = (withSign f (t != minus) inf, 0)) ∧
      (∀ s u t v, IsFin x s u → IsFin y t v → SumsTo f rm s u (t != minus) v out)) ∧
    (NanRule nan [x, y] (f.mul rm a b) ∧
      (∀ s t, x = .inf s → y = .inf t → f.mul rm a b = (withSign f (s != t) inf, 0)) ∧
      (∀ s t v, (x = .inf s ∧ IsFin y t v) ∨ (y = .inf s ∧ IsFin x t v) →
        (v = 0 → f.mul rm a b = (nan, 16)) ∧ (v ≠ 0 → f.mul rm a b = (withSign f (s != t) inf, 0))) ∧
      (∀ s u t v p, IsFin x s u → IsFin y t v → IsFin p (s != t) (u * v) → f.mul rm a b = f.round rm p)) ∧
    (∀ negP negC : Bool,
      let out := f.fma rm negP negC a b c
      let zeroInf := (∃ s t, x = .inf s ∧ IsFin y t 0) ∨ ∃ s t, y = .inf s ∧ IsFin x t 0
      (zeroInf → out = (nan, 16)) ∧
      (¬zeroInf → NanRule nan [x, y, z] out) ∧
      (∀ s, ¬zeroInf → ¬IsNan x → ¬IsNan y → (∃ t, (x = .inf t ∧ s = ((t != y.isNeg) != negP)) ∨ (y = .inf t ∧ s = ((t != x.isNeg) != negP))) →
        (∀ t, z = .inf t → out = if s = (t != negC) then (withSign f s inf, 0) else (nan, 16)) ∧
        (∀ t v, IsFin z t v → out = (withSign f s inf, 0))) ∧
      (∀ s u t v, IsFin x s u → IsFin y t v →
        (∀ g, z = .inf g → out = (withSign f (g != negC) inf, 0)) ∧
        (∀ g k, IsFin z g k → SumsTo f rm ((s != t) != negP) (u * v) (g != negC) k out))) ∧
    (NanRule nan [x, y] (f.div rm a b) ∧
      (∀ s t, x = .inf s → y = .inf t → f.div rm a b = (nan, 16)) ∧
      (∀ s t v, x = .inf s → IsFin y t v → f.div rm a b = (withSign f (s != t) inf, 0)) ∧
      (∀ s u t, IsFin x s u → y = .inf t → f.div rm a b = (withSign f (s != t) 0, 0)) ∧
      (∀ s u t v, IsFin x s u → IsFin y t v →
        (u = 0 → v = 0 → f.div rm a b = (nan, 16)) ∧
        (u ≠ 0 → v = 0 → f.div rm a b = (withSign f (s != t) inf, 8)) ∧
        (u = 0 → v ≠ 0 → f.div rm a b = (withSign f (s != t) 0, 0)) ∧
        (u ≠ 0 → v ≠ 0 → Delivers f top mx inf nan rm (s != t) false 0 (u / v) (f.div rm a b)))) ∧
    (NanRule nan [x] (f.sqrt rm a) ∧ NanRule nan [x] (f.rcp a) ∧ NanRule nan [x] (f.rsqrt a) ∧ NanRule nan [x] (f.exp2 a) ∧
      NanRule nan [x] (f.log2 a)) ∧
    (∀ s, x = .inf s → f.rcp a = (withSign f s 0, 0) ∧
      (s = true → f.sqrt rm a = (nan, 16) ∧ f.rsqrt a = (nan, 16) ∧ f.log2 a = (nan, 16) ∧ f.exp2 a = (0, 0)) ∧
      (s = false → f.sqrt rm a = (inf, 0) ∧ f.rsqrt a = (0, 0) ∧ f.log2 a = (inf, 0) ∧ f.exp2 a = (inf, 0))) ∧
    (∀ s, IsFin x s 0 → f.sqrt rm a = (withSign f s 0, 0) ∧ f.rcp a = (withSign f s inf, 8) ∧ f.rsqrt a = (withSign f s inf, 8) ∧
      f.log2 a = (withSign f true inf, 8) ∧ IsFin (f.decode (f.exp2 a).1) false 1 ∧ (f.exp2 a).2 = 0) ∧
    (∀ s u, IsFin x s u → u ≠ 0 →
      Delivers f top mx inf nan .rne s false 0 (1 / u) (f.rcp a) ∧
      (s = true → f.sqrt rm a = (nan, 16) ∧ f.rsqrt a = (nan, 16) ∧ f.log2 a = (nan, 16)) ∧
      (s = false → Delivers f top mx inf nan rm false false 0 (Real.sqrt u) (f.sqrt rm a) ∧
        Delivers f top mx inf nan .rne false false 0 (1 / Real.sqrt u) (f.rsqrt a) ∧
        ∀ (k : Int) p, u = (2 : ℝ) ^ k → IsFin p (decide (k < 0)) k.natAbs → f.log2 a = f.round .rne p) ∧
      ∀ k : Nat, u = k → Delivers f top mx inf nan .rne false false 0 ((2 : ℝ) ^ (if s then -(k : Int) else k)) (f.exp2 a))

/-- R108, R189: minimumNumber and maximumNumber, and the relations of VFCMP, with their flags. -/
def Sys2Proof.Claims.FloatOrder : Prop :=
  ∀ f top mx inf nan (a b : Nat), (f, top, mx, inf, nan) ∈ floatRows → isElemFmt f → a < 2 ^ f.width → b < 2 ^ f.width →
    let x := f.decode a
    let y := f.decode b
    let signals := FVal.nan true ∈ [x, y]
    (∀ isMax : Bool,
      let out := f.minMax isMax a b
      out.2 = (if signals then 16 else 0) ∧
      (IsNan x → IsNan y → out.1 = nan) ∧ (IsNan x → ¬IsNan y → out.1 = b) ∧ (¬IsNan x → IsNan y → out.1 = a) ∧
      (¬IsNan x → ¬IsNan y → (Below x y → out.1 = if isMax then b else a) ∧ (Below y x → out.1 = if isMax then a else b) ∧
        (¬Below x y → ¬Below y x → out.1 = a))) ∧
    (∀ fn, fn ≤ 4 →
      let out := f.compare fn a b
      out.2 = (if (fn = 1 ∨ fn = 2) ∧ (x.isNan = true ∨ y.isNan = true) ∨ fn = 3 ∧ signals then 16 else 0) ∧
      (IsNan x ∨ IsNan y → out.1 = decide (3 ≤ fn)) ∧
      (¬IsNan x → ¬IsNan y →
        (fn = 0 → (out.1 = true ↔ ¬Less x y ∧ ¬Less y x)) ∧ (fn = 1 → (out.1 = true ↔ Less x y)) ∧
        (fn = 2 → (out.1 = true ↔ ¬Less y x)) ∧ (fn = 3 → out.1 = false) ∧ (fn = 4 → (out.1 = true ↔ Less x y ∨ Less y x))))

/-- R102, R124, R125: conversions between formats that are no MX blocks. -/
def Sys2Proof.Claims.FloatConversions : Prop :=
  (∀ f g rm sat x w, convert (.float f) (.float g) rm sat x w = g.round rm (f.decode x) sat w) ∧
  (∀ n sg g rm sat x w p, 0 < n → IsFin p (decide (bitsInt n sg x < 0)) (bitsInt n sg x).natAbs →
    convert (.int n sg) (.float g) rm sat x w = g.round rm p sat w) ∧
  (∀ n sg k sg2 rm sat x w, 0 < n → 0 < k →
    convert (.int n sg) (.int k sg2) rm sat x w = (intBits k (max (intLo k sg2) (min (intHi k sg2) (bitsInt n sg x))), 0)) ∧
  (∀ f n sg rm sat x w, convert (.float f) (.int n sg) rm sat x w = toIntVal n sg rm (f.decode x) w) ∧
  (∀ n sg rm w, (n, sg) ∈ [(32, true), (32, false), (16, true), (8, true)] → w < 65536 →
    (∀ b, toIntVal n sg rm (.nan b) w = (0, 16)) ∧
    (∀ neg, toIntVal n sg rm (.inf neg) w = (intBits n (if neg then intLo n sg else intHi n sg), 16)) ∧
    (∀ x neg a r, IsFin x neg a → RoundsTo rm neg w a r →
      let v : Int := if neg then -(r : Int) else r
      (v < intLo n sg → toIntVal n sg rm x w = (intBits n (intLo n sg), 16)) ∧
      (intHi n sg < v → toIntVal n sg rm x w = (intBits n (intHi n sg), 16)) ∧
      (intLo n sg ≤ v → v ≤ intHi n sg →
        ((r : ℝ) = a → toIntVal n sg rm x w = (intBits n v, 0)) ∧ ((r : ℝ) ≠ a → toIntVal n sg rm x w = (intBits n v, 1)))))

namespace Sys2Proof.Claims

/-- The float elements of MX blocks: the largest magnitude, and emax (R104, R122). -/
def mxFloats : List (Fmt × ℚ × Int) := [(e4m3, 448, 8), (e5m2, 57344, 15), (e3m2, 28, 4), (e2m3, 15 / 2, 2), (e2m1, 6, 2)]

/-- An element format with its largest magnitude by sign and its emax. -/
def IsElemKind (m : MxElem) (top : Bool → ℝ) (emax : Int) : Prop :=
  (∃ f mx, m = .float f ∧ (f, mx, emax) ∈ mxFloats ∧ ∀ neg, top neg = mx) ∨
  (∃ p : Nat, m = .int p ∧ 2 ≤ p ∧ p ≤ 16 ∧ emax = 0 ∧ ∀ neg, top neg = if neg then 2 else 2 - (2 : ℝ) ^ (2 - (p : Int)))

/-- The exponent of the unit to which an element of magnitude y is rounded (R109, R122). -/
def ElemUnit (m : MxElem) (y : ℝ) (g : Int) : Prop :=
  match m with
  | .int p => g = 2 - (p : Int)
  | .float f => (y = 0 ∧ g = 0) ∨ ∃ lg : Int, (2 : ℝ) ^ lg ≤ y ∧ y < (2 : ℝ) ^ (lg + 1) ∧ g = max lg (1 - (f.bias : Int)) - (f.fb : Int)

/-- A finite value of sign `neg` and magnitude `a` rounds, under the scale 2^sx, to the element magnitude y (R122 step 4). -/
def ElemRounds (m : MxElem) (rm : Mode) (w : Nat) (sx : Int) (x : FVal) (neg : Bool) (a y : ℝ) : Prop :=
  IsFin x neg a ∧ ∃ g r, ElemUnit m (a / (2 : ℝ) ^ sx) g ∧ RoundsTo rm neg w (a / (2 : ℝ) ^ sx / (2 : ℝ) ^ g) r ∧ y = r * (2 : ℝ) ^ g

/-- The code of an element of sign `neg` and magnitude y (R118, R119). -/
def IsElem (m : MxElem) (code : Nat) (neg : Bool) (y : ℝ) : Prop :=
  match m with
  | .float f => code < 2 ^ (1 + f.eb + f.fb) ∧ IsFin (f.decode code) neg y
  | .int p => code < 2 ^ p ∧ ((bitsInt p true code : Int) : ℝ) * (2 : ℝ) ^ (2 - (p : Int)) = if neg then -y else y

/-- The MX kinds of a CONVERT window: element format, bits of an element, offset of the scale byte, stride (R243). -/
def viewKinds : List (Nat × MxElem × Nat × Nat × Nat) :=
  [(0, .float e4m3, 8, 32, 64), (1, .float e5m2, 8, 32, 64), (2, .float e3m2, 6, 24, 32), (3, .float e2m3, 6, 24, 32),
   (4, .float e2m1, 4, 16, 32), (5, .int 8, 8, 32, 64)]

end Sys2Proof.Claims

/-- R117 to R120, R122, R123, R127, R128, R243: the value of every element of an MX block; the scale, the codes and the flags that 32 values
encode to; plane words; and the bytes that a CONVERT view shows of a block and writes into it. -/
def Sys2Proof.Claims.MxBlocks : Prop :=
  (∀ (m : MxElem) scale code,
    (scale = 255 → m.decode scale code = .nan false) ∧
    (scale ≠ 255 →
      (∀ p : Nat, m = .int p → 2 ≤ p →
        HasValue (m.decode scale code) ((bitsInt p true code : Int) * (2 : ℝ) ^ (2 - (p : Int)) * (2 : ℝ) ^ ((scale : Int) - 127))) ∧
      (m = .int 1 → HasValue (m.decode scale code) ((code % 2 : Nat) * (2 : ℝ) ^ ((scale : Int) - 127))) ∧
      (∀ f, m = .float f → ((IsNan (f.decode code) ∨ ∃ b, f.decode code = .inf b) → m.decode scale code = .nan false) ∧
        ∀ neg v, IsFin (f.decode code) neg v → IsFin (m.decode scale code) neg (v * (2 : ℝ) ^ ((scale : Int) - 127))))) ∧
  (∀ (m : MxElem) top emax rm (xs : List FVal) (ws : List Nat), IsElemKind m top emax → xs.length = 32 → (∀ w ∈ ws, w < 65536) →
    let out := m.encode rm xs ws
    out.2.1.length = 32 ∧
    ((∃ x ∈ xs, IsNan x ∨ ∃ b, x = .inf b) → out.1 = 255 ∧ (∀ c ∈ out.2.1, c = 0) ∧ out.2.2 = 16) ∧
    ((∀ x ∈ xs, HasValue x 0) → out.1 = 0 ∧ (∀ c ∈ out.2.1, c = 0) ∧ out.2.2 = 0) ∧
    (∀ (lg : Int), (∀ x ∈ xs, ∃ neg a, IsFin x neg a ∧ a < (2 : ℝ) ^ (lg + 1)) → (∃ x ∈ xs, ∃ neg a, IsFin x neg a ∧ (2 : ℝ) ^ lg ≤ a) →
      let sx : Int := max (-127) (min 127 (lg - emax))
      (out.1 : Int) = sx + 127 ∧
      (∀ (i : Nat) x c neg a y, xs[i]? = some x → out.2.1[i]? = some c → ElemRounds m rm (ws[i]?.getD 0) sx x neg a y →
        IsElem m c neg (min y (top neg))) ∧
      (out.2.2.testBit 0 = true ↔
        ∃ (i : Nat) (x : FVal) (neg : Bool) (a y : ℝ), xs[i]? = some x ∧ ElemRounds m rm (ws[i]?.getD 0) sx x neg a y ∧ min y (top neg) * (2 : ℝ) ^ sx ≠ a) ∧
      (out.2.2.testBit 2 = true ↔ 127 < lg - emax ∧
        ∃ (i : Nat) (x : FVal) (neg : Bool) (a y : ℝ), xs[i]? = some x ∧ ElemRounds m rm (ws[i]?.getD 0) sx x neg a y ∧ top neg < y) ∧
      ∀ k, k ≠ 0 → k ≠ 2 → out.2.2.testBit k = false)) ∧
  (∀ (codes : List Nat) (i j : Nat), i < 32 → planeWord codes j < 2 ^ 32 ∧ (planeWord codes j).testBit i = (codes[i]?.getD 0).testBit j) ∧
  (∀ kind m bits so stride (w : Window) fmt z, (kind, m, bits, so, stride) ∈ viewKinds → w.par 2 = kind →
    (w.fmt = 7 ∧ fmt = bf16 ∧ z = 2) ∨ (w.fmt = 8 ∧ fmt = fp32 ∧ z = 4) →
    (∀ bs : List Byte, bs.length = stride →
      (w.viewBlock bs).length = 32 * z ∧
      ∀ i, i < 32 → fld (w.viewBlock bs) (z * i) z =
        (fmt.round .rne (m.decode (fld bs so 1) (leNat (bs.take so) / 2 ^ (bits * i) % 2 ^ bits))).1) ∧
    (∀ view : List Byte, view.length = 32 * z →
      let code := m.encode .rne ((List.range 32).map fun i => fmt.decode (fld view (z * i) z)) []
      let out := w.encodeBlock view
      out.length = stride ∧ (∀ i, i < 32 → leNat (out.take so) / 2 ^ (bits * i) % 2 ^ bits = code.2.1[i]?.getD 0) ∧ fld out so 1 = code.1 ∧
        ∀ k, so < k → k < stride → out[k]? = some 0))

/-! ## The matrix array -/

namespace Sys2Proof.Claims

/-- n / 2^k to the nearest integer, ties to even (R109). -/
def nearest (n k : Nat) : Nat := n / 2 ^ k + if 2 ^ k < 2 * (n % 2 ^ k) ∨ (2 ^ k = 2 * (n % 2 ^ k) ∧ n / 2 ^ k % 2 = 1) then 1 else 0

/-- The magnitude n × 2^e as a multiple of the grid of a row with anchor E, rounded as step 1 of R203 says. -/
def onGrid (r : AccRow) (n : Nat) (e : Int) : Nat :=
  let d := e - (r.e.toInt - 128)
  if 0 ≤ d then n * 2 ^ d.toNat else nearest n (-d).toNat

/-- Bit c of a mask set. -/
def orBit (m : BitVec 128) (c : Nat) : BitVec 128 := m ||| BitVec.ofNat 128 (2 ^ c)

/-- Contributions added to a row one after the other. -/
def contributions (r : AccRow) (cs : List (Nat × FVal)) : AccRow := cs.foldl (fun r x => r.contribute x.1 x.2) r

end Sys2Proof.Claims

/-- R203, R205, R206: what one contribution does to its column: rounded to the grid, clipped below the limit with ANCHOR set, added to X
modulo 2^192; NaN and infinities only set flags. What a column, or the two columns of a logical column of a PAIR row, reads as. -/
def Obligations.AccumulatorArithmetic : Prop :=
  (∀ (r : AccRow) (c n : Nat) (e : Int) (neg : Bool),
    let k := onGrid r n e
    (k < 2 ^ 160 → r.contribute c (.fin neg n e) = r.addGrid c (if neg then -(k : Int) else k)) ∧
    (2 ^ 160 ≤ k → r.contribute c (.fin neg n e) =
      { r.addGrid c (if neg then -(2 ^ 160 - 1 : Int) else 2 ^ 160 - 1) with anchor := true })) ∧
  (∀ (r : AccRow) (c : Nat),
    (∀ q, r.contribute c (.nan q) = { r with nan := orBit r.nan c }) ∧
    r.contribute c (.inf false) = { r with posInf := orBit r.posInf c } ∧
    r.contribute c (.inf true) = { r with negInf := orBit r.negInf c }) ∧
  (∀ (r : AccRow) (c : Nat) (k : Int), (r.addGrid c k).nan = r.nan ∧ (r.addGrid c k).posInf = r.posInf ∧
    (r.addGrid c k).negInf = r.negInf ∧ (r.addGrid c k).e = r.e ∧ (r.addGrid c k).pair = r.pair ∧ (r.addGrid c k).anchor = r.anchor ∧
    (SMap.wf 0 r.x → SMap.wf 0 (r.addGrid c k).x ∧ (r.addGrid c k).col c = r.col c + BitVec.ofInt 192 k ∧
      ∀ j, j ≠ c → (r.addGrid c k).col j = r.col j)) ∧
  (∀ (r : AccRow) (j : Nat),
    let cs := if r.pair then [2 * j, 2 * j + 1] else [j]
    let nan := ∃ c ∈ cs, r.nan.getLsbD c = true
    let pos := ∃ c ∈ cs, r.posInf.getLsbD c = true
    let neg := ∃ c ∈ cs, r.negInf.getLsbD c = true
    let x := (cs.map fun c => (r.col c).toInt).sum
    (nan ∨ (pos ∧ neg) → r.value j = .nan false) ∧
    (¬nan → pos → ¬neg → r.value j = .inf false) ∧
    (¬nan → neg → ¬pos → r.value j = .inf true) ∧
    (¬nan → ¬pos → ¬neg → (x = 0 → r.value j = .fin false 0 0) ∧
      (x ≠ 0 → r.value j = .fin (decide (x < 0)) x.natAbs (r.e.toInt - 128))))

/-- R207: a row cleared with an anchor depends only on the multiset of the contributions that it has received: X of every column, every flag
and ANCHOR, whatever their order and grouping. -/
def Obligations.ContributionsCommute : Prop :=
  ∀ (e : BitVec 10) (pair : Bool) (cs cs' : List (Nat × FVal)), cs.Perm cs' →
    contributions (AccRow.fresh e pair) cs = contributions (AccRow.fresh e pair) cs'

namespace Sys2Proof.Claims

/-- The state in which the E-stream's next instruction waits. -/
def waitingE (s : State) (w : Wait) : State := { s with thr := { s.thr with waitE := w } }

/-- Rows f to f + n - 1 outside the accumulator (R214, R220). -/
def BadRows (f n : Nat) : Prop := 255 < f ∨ n = 0 ∨ 256 < f + n

/-- An outstanding command touches one of the rows (R210). -/
def RowsBusy (s : State) (f n : Nat) : Prop := ∃ c ∈ s.vc.outstanding, c.first < f + n ∧ f < c.first + c.count

/-- An array command, or an MCMD, of the thread has not completed (R212). -/
def ArrayWork (s : State) : Prop :=
  (∃ c ∈ s.vc.outstanding, c.vcore = s.vc.id ∧ c.thread = s.thr.id) ∨
    (∃ v c, v ∈ s.ctx.vcores ∧ v.1 ≠ s.vc.id ∧ c ∈ v.2.outstanding ∧ c.vcore = s.vc.id ∧ c.thread = s.thr.id) ∨
    ∃ m ∈ s.ctx.mcmds, m.ident.vcore = s.vc.id ∧ m.thread = s.thr.id

/-- An XACC-major instruction of the thread is older than the one at its A position and has not completed (R209). -/
def XaccOlder (s : State) : Prop := OlderE s (IsMajorE 16)

/-- The instructions of the MX major (R213 to R215). -/
def ArrayForm (i : Instr) : Prop :=
  i = .mxMbegin ∨ i = .mxMend ∨ i = .mxMwait ∨ (∃ r, i = .mxMclr r ∨ i = .mxMstat r)

/-- The firing has changed accumulators or weight banks (R396). -/
def touched (s : State) : State := { s with thr := { s.thr with touchedArray := true } }

/-- A command of the thread in the array order (R208). -/
def issued (s : State) (f n : Nat) (err : Option LateErr) : State :=
  touched { s with vc := { s.vc with outstanding := s.vc.outstanding ++ [⟨s.vc.id, s.thr.id, f, n, err⟩] } }

/-- Element i of an MXINT-p plane block (R118, R120). -/
def elemInt (p : Nat) (words : List Nat) (i : Nat) : Int :=
  ((List.range p).map fun j => (if ((words[j]?.getD 0).testBit i) then (if j + 1 = p ∧ p ≠ 1 then -(2 ^ j : Int) else (2 ^ j : Int)) else 0 : Int)).sum

/-- The same, read unsigned (R217). -/
def elemNat (p : Nat) (words : List Nat) (i : Nat) : Int :=
  ((List.range p).map fun j => if ((words[j]?.getD 0).testBit i) then (2 ^ j : Int) else 0).sum

/-- The plane words of a block. -/
def planesAt (bs : List Byte) (off n : Nat) : List Nat := (List.range n).map fun j => fld bs (off + 4 * j) 4

/-- The 2-bit index of a sparse element (R217). -/
def idx24 (words : List Nat) (wp i : Nat) : Nat := ((words[wp]?.getD 0) + 2 ^ 32 * (words[wp + 1]?.getD 0)) / 4 ^ i % 4

/-- A loaded bank holds block b of column n as R217 says. -/
def HoldsBlock (k : Bank) (kb wp : Nat) (sparse wsplit : Bool) (planes scales : List Byte) (n b : Nat) : Prop :=
  let q := if sparse then wp + 2 else wp
  let words := planesAt planes ((n * kb + b) * 4 * q) q
  ∃ col w, k.cols[n]? = some col ∧ col[b]? = some w ∧ w.scale = ((scales[n * kb + b]?.getD 0)).toNat ∧
    ∀ i, i < 32 →
      w.weights[i]? = some (if wsplit ∧ n % 2 = 0 then elemNat wp words i else elemInt wp words i) ∧
      w.positions[i]? = some (if sparse then 64 * b + 4 * (i / 2) + idx24 words wp i else 32 * b + i)

/-- The fields of CMD64 of MLOADW that fault with PLANE_RECORD (R216). -/
def LoadBad (n kb wp : Nat) (sparse wsplit : Bool) : Prop :=
  n = 0 ∨ 128 < n ∨ kb = 0 ∨ 4 < kb ∨ wp < 2 ∨ 8 < wp ∨ (sparse = true ∧ wsplit = true) ∨
    (wsplit = true ∧ (wp ≠ 8 ∨ n % 2 = 1))

/-- The contribution of an activation block to a column (R204, R205): the exact sum of products at equal K positions. -/
def blockSum (k : Bank) (ap n ab : Nat) (words : List Nat) (scale : Nat) : FVal :=
  match (k.cols[n]?.getD [])[if k.sparse then ab / 2 else ab]? with
  | none => .fin false 0 0
  | some w =>
    if scale = 255 ∨ w.scale = 255 then .nan false
    else
      let x : Int := ((w.weights.zip w.positions).map fun y =>
        if y.2 / 32 = ab then y.1 * elemInt ap words (y.2 % 32) else 0).sum
      let e := (if ap = 1 then 0 else 2 - (ap : Int)) + (if k.wsplit ∧ n % 2 = 0 then -14 else 2 - (k.wp : Int)) + (scale : Int) + (w.scale : Int) - 254
      .fin (decide (x < 0)) x.natAbs e

/-- A row of nb activation blocks streamed past a bank, and the rows of an MSTREAM (R219). -/
def streamed (k : Bank) (ap nb row : Nat) (planes scales : List Byte) (r : AccRow) : AccRow :=
  contributions r (((List.range k.n).map fun n => (List.range nb).map fun b =>
    (n, blockSum k ap n b (planesAt planes ((row * nb + b) * 4 * ap) ap) ((scales[row * nb + b]?.getD 0)).toNat)).flatten)

/-- The state with a bank replaced. -/
def withBank (s : State) (k : Nat) (b : Option Bank) : State :=
  { s with vc := if k = 0 then { s.vc with bank0 := b } else { s.vc with bank1 := b } }

/-- The state with rows f to f + n - 1 changed. -/
def withRows (s : State) (f n : Nat) (g : Nat → AccRow → AccRow) : State := { s with vc := s.vc.mapRows f n g }

end Sys2Proof.Claims

/-- R209, R210, R212 to R215: the commands of the MX major wait for older XACC instructions; the markers open and close a chain; MCLR clears
its rows with their anchor; MWAIT waits for the thread's commands and reports its earliest deferred error; MSTAT reads a row's state. Rows
that an earlier command touches make MCLR and MSTAT wait. Where the spec is silent it states the choices of the model: log 16, log 18. -/
def Obligations.ArrayControl : Prop :=
  (∀ (s : State) i, ArrayForm i → XaccOlder s → Fresh s → exec i s = .next (waiting s .other)) ∧
  (∀ s : State, s.thr.ePath = [] →
    exec .mxMbegin s = .next (doneA s 8 { s with vc := { s.vc with chain := true } }) ∧
    exec .mxMend s = .next (doneA s 8 { s with vc := { s.vc with chain := false } }) ∧
    (ArrayWork s → Fresh s → exec .mxMwait s = .next (waiting s .other)) ∧
    (¬ArrayWork s → s.thr.deferred = [] → exec .mxMwait s = .next (doneA s 8 s)) ∧
    (∀ e rest, ¬ArrayWork s → Fresh s → s.thr.deferred = e :: rest →
      exec .mxMwait s = .next ((s.setThr { s.thr with deferred := rest }).takeTrap false ⟨e.cause, e.faddr, e.fdetail⟩))) ∧
  (∀ (r : RArgs) (s : State), s.thr.ePath = [] →
    let f := (s.thr.getS r.a).toNat
    let n := (s.thr.getS r.b).toNat
    (BadRows f n → exec (.mxMclr r) s = .next (s.trapA ⟨.accRange, 0, f⟩)) ∧
    (¬BadRows f n →
      (RowsBusy s f n → Fresh s → exec (.mxMclr r) s = .next (waiting s .other)) ∧
      (¬RowsBusy s f n → exec (.mxMclr r) s = .next (doneA s 8 (touched (withRows s f n fun _ _ =>
        { x := [], nan := 0, posInf := 0, negInf := 0, e := BitVec.ofNat 10 r.x16, pair := r.x16.testBit 10, anchor := false }))))) ∧
    (∀ d, r.d ≠ 0 → s.thr.levelDest false r.d = some d → exec (.mxMstat r) s = .next (s.trapA ⟨.boundWrite, 0, d⟩)) ∧
    (s.thr.checkDest r.d = .ok () →
      (255 < f → exec (.mxMstat r) s = .next (s.trapA ⟨.accRange, 0, f⟩)) ∧
      (f ≤ 255 → RowsBusy s f 1 → Fresh s → exec (.mxMstat r) s = .next (waiting s .other)) ∧
      (∀ t, f ≤ 255 → ¬RowsBusy s f 1 →
        let w := s.vc.row f
        s.thr.writeS r.d (BitVec.ofNat 64 (w.e.toNat + (if w.pair then 2 ^ 10 else 0) + (if w.anchor then 2 ^ 11 else 0) +
          (if w.nan ≠ 0 then 2 ^ 12 else 0) + (if w.posInf ≠ 0 then 2 ^ 13 else 0) + (if w.negInf ≠ 0 then 2 ^ 14 else 0) +
          (if s.vc.bank0 ≠ none then 2 ^ 15 else 0) + (if s.vc.bank1 ≠ none then 2 ^ 16 else 0))) = .ok t →
        exec (.mxMstat r) s = .next (doneA s 8 (s.setThr t))))) ∧
  (∀ fn, 5 ≤ fn → Illegal 0 0 72 fn)

/-- R204, R205, R216 to R219: MLOADW replaces a bank by the tile that its planes and scales hold; MSTREAM adds one contribution to every
column of every row for each activation block. Their faults in their order; a failure of the reads after the checks is deferred, and equal
indices fault at issue or are deferred, which the spec leaves open. Where the spec is silent it states the choices of the model: log 6, log 12, log 18, log 49. -/
def Obligations.WeightsAndStreams : Prop :=
  (∀ bank (x : CArgs) (s : State), bank ≤ 1 →
    let n := x.cmd % 256
    let kb := x.cmd / 256 % 8
    let wp := x.cmd / 2 ^ 11 % 32
    let sparse := x.cmd.testBit 16
    let wsplit := x.cmd.testBit 17
    (LoadBad n kb wp sparse wsplit → exec (.mloadw bank x) s = .next (s.trapA ⟨.planeRecord, 0, bank⟩)) ∧
    (¬LoadBad n kb wp sparse wsplit → s.thr.ePath = [] →
      (s.vc.groupLock ≠ none → Fresh s → exec (.mloadw bank x) s = .next (waiting s .other)) ∧
      (s.vc.groupLock = none →
        let q := if sparse then wp + 2 else wp
        let reads := s.fetchPair s.agent (s.thr.getS x.r.a).toNat (n * kb * 4 * q) (s.thr.getS x.r.b).toNat (n * kb)
        let saw := fun t : State => t.sawPair s.agent (s.thr.getS x.r.a).toNat (n * kb * 4 * q) (s.thr.getS x.r.b).toNat (n * kb)
        (∀ e, reads = .error (.trap e) → exec (.mloadw bank x) s = .next (s.trapA e)) ∧
        (∀ s1 e, reads = .ok (.error (s1, e)) → exec (.mloadw bank x) s = .next (doneA s 16 (withBank (issued (saw s1) 0 0 (some e)) bank none))) ∧
        (∀ ps ss, reads = .ok (.ok (ps, ss)) →
          let equal := ∃ c b j, c < n ∧ b < kb ∧ j < 16 ∧
            idx24 (planesAt ps ((c * kb + b) * 4 * q) q) wp (2 * j) = idx24 (planesAt ps ((c * kb + b) * 4 * q) q) wp (2 * j + 1)
          (sparse = true → equal → Fresh s →
            let s1 := { saw s with freeCtr := s.freeCtr + 1 }
            exec (.mloadw bank x) s = .next (s1.takeTrap false ⟨.sparseIndex, 0, bank⟩) ∨
            exec (.mloadw bank x) s = .next (doneA s 16 (withBank (issued s1 0 0 (some ⟨.sparseIndex, 0, bank⟩)) bank none))) ∧
          (sparse = false ∨ ¬equal → ∃ k : Bank, k.n = n ∧ k.kb = kb ∧ k.wp = wp ∧ k.sparse = sparse ∧ k.wsplit = wsplit ∧
            (∀ c b, c < n → b < kb → HoldsBlock k kb wp sparse wsplit ps ss c b) ∧
            exec (.mloadw bank x) s = .next (doneA s 16 (withBank (issued (saw s) 0 0 none) bank (some k)))))))) ∧
  (∀ bank (x : CArgs) (s : State), bank ≤ 1 →
    let ap := x.cmd % 32
    let kb := x.cmd / 256 % 8
    let f := (s.thr.getS x.r.c).toNat
    let m := (s.thr.getS x.r.d).toNat
    let i := Instr.mstream bank x
    (ap = 0 ∨ 16 < ap ∨ kb = 0 ∨ 4 < kb → exec i s = .next (s.trapA ⟨.planeRecord, 0, bank⟩)) ∧
    (1 ≤ ap → ap ≤ 16 → 1 ≤ kb → kb ≤ 4 → s.thr.ePath = [] →
      (s.vc.groupLock ≠ none → Fresh s → exec i s = .next (waiting s .other)) ∧
      (s.vc.groupLock = none →
        let loaded := if bank = 0 then s.vc.bank0 else s.vc.bank1
        (loaded = none → exec i s = .next (s.trapA ⟨.weightBank, 0, bank⟩)) ∧
        (∀ k, loaded = some k →
          let pairs := ∃ j, j < m ∧ (s.vc.row (f + j)).pair ≠ k.wsplit
          let nb := if k.sparse then 2 * kb else kb
          let reads := s.fetchPair s.agent (s.thr.getS x.r.a).toNat (m * nb * 4 * ap) (s.thr.getS x.r.b).toNat (m * nb)
          let saw := fun t : State => t.sawPair s.agent (s.thr.getS x.r.a).toNat (m * nb * 4 * ap) (s.thr.getS x.r.b).toNat (m * nb)
          (kb ≠ k.kb → exec i s = .next (s.trapA ⟨.formatMismatch, 0, f⟩)) ∧
          (kb = k.kb → BadRows f m → exec i s = .next (s.trapA ⟨.accRange, 0, f⟩)) ∧
          (kb = k.kb → ¬BadRows f m → pairs → exec i s = .next (s.trapA ⟨.formatMismatch, 0, f⟩)) ∧
          (kb = k.kb → ¬BadRows f m → ¬pairs →
            (∀ e, reads = .error (.trap e) → exec i s = .next (s.trapA e)) ∧
            (∀ s1 e, reads = .ok (.error (s1, e)) → exec i s = .next (doneA s 16 (issued (saw s1) f m (some e)))) ∧
            (∀ ps ss, reads = .ok (.ok (ps, ss)) →
              exec i s = .next (doneA s 16 (withRows (issued (saw s) f m none) f m fun j r => streamed k ap nb j ps ss r)))))))) ∧
  (∀ fn, 2 ≤ fn → Illegal 2 0 16 fn ∧ Illegal 2 0 17 fn)

namespace Sys2Proof.Claims

/-- The rounding mode of an RM field that allows DYN and no STOCH (R112). -/
def modeOf (t : Thread) (rm : Nat) : Mode :=
  let c := if rm = 15 then t.rmode.toNat % 8 else rm
  if c = 1 then .rtz else if c = 2 then .rup else if c = 3 then .rdn else if c = 4 then .rna else .rne

/-- A row of a RAW source fits a row (R223). -/
def FitsRaw (r : AccRow) (bs : List Byte) : Prop :=
  fld bs 0 2 = (r.e.signExtend 16).toNat ∧ fld bs 2 1 % 2 = (if r.pair then 1 else 0) ∧ fld bs 2 1 / 4 = 0 ∧ fld bs 3 13 = 0

/-- The columns of a RAW row added to a row, with its masks and ANCHOR (R223). -/
def plusRaw (r : AccRow) (c : Nat) (bs : List Byte) : AccRow :=
  let r1 := (List.range c).foldl (fun r j => r.addGrid j (fld bs (64 + 24 * j) 24)) r
  { r1 with
    nan := r1.nan ||| BitVec.ofNat 128 (fld bs 16 16 % 2 ^ c)
    posInf := r1.posInf ||| BitVec.ofNat 128 (fld bs 32 16 % 2 ^ c)
    negInf := r1.negInf ||| BitVec.ofNat 128 (fld bs 48 16 % 2 ^ c)
    anchor := r1.anchor || (fld bs 2 1).testBit 1 }

/-- Row i of a RAW source of C columns. -/
def rawAt (c i : Nat) (bs : List Byte) : List Byte := (bs.drop (i * (64 + 24 * c))).take (64 + 24 * c)

/-- The faults of MREAD on its rows (R220). -/
def ReadRowsBad (fn c f n : Nat) (v : VCore) : Option Cause :=
  let pair := (List.range n).any fun i => (v.row (f + i)).pair
  let plain := (List.range n).any fun i => !(v.row (f + i)).pair
  if decide (255 < f) || decide (n = 0) || decide (256 < f + n) then some .accRange
  else if decide (fn ≠ 5) && decide (64 < c) && pair then some .accRange
  else if decide (fn = 4) && decide (c % 32 ≠ 0) then some .formatMismatch
  else if pair && plain then some .formatMismatch
  else if decide (fn = 5) && decide (c % 2 = 1) && pair then some .formatMismatch
  else none

/-- The alignment and the size of what MREAD writes (R219, R221, R222). -/
def readAlign (fn : Nat) : Nat := if fn = 1 ∨ fn = 2 then 2 else if fn = 5 then 64 else 4
def readSize (fn c p n : Nat) : Nat :=
  if fn = 0 ∨ fn = 3 then n * c * 4 else if fn = 1 ∨ fn = 2 then n * c * 2
  else if fn = 4 then n * (c / 32) * (4 * (if p = 0 then 16 else p) + 1) else n * (64 + 24 * c)

/-- A row as MREAD with CLR leaves it. -/
def wiped (r : AccRow) : AccRow :=
  { x := [], nan := 0, posInf := 0, negInf := 0, e := r.e, pair := r.pair, anchor := false }

end Sys2Proof.Claims

/-- R206, R221, R222: the bytes that MREAD writes and the flags that it raises, for each FN: element (i, c) at (i × C + c) × size, rounded or
converted; blocks of MXINT-p planes, encoded under RM, with their scale bytes behind them; and RAW rows, which raise no flag. -/
def Sys2Proof.Claims.ReadLayout : Prop :=
  ∀ (a : ReadArgs) (rm : Mode) (rows : List AccRow),
    let out := readOut a rm rows
    (∀ z elem, (a.fn, z, elem) ∈ ([(0, 4, fun x => fp32.round rm x), (1, 2, fun x => bf16.round rm x), (2, 2, fun x => fp16.round rm x),
        (3, 4, fun x => toIntVal 32 true rm x 0)] : List (Nat × Nat × (FVal → Nat × Nat))) →
      out.1.length = rows.length * a.c * z ∧
      (∀ (i : Nat) r c, rows[i]? = some r → c < a.c → fld out.1 ((i * a.c + c) * z) z = (elem (r.value c)).1) ∧
      ∀ k, out.2.testBit k = true ↔ ∃ (i : Nat) (r : AccRow) (c : Nat), rows[i]? = some r ∧ c < a.c ∧ (elem (r.value c)).2.testBit k = true) ∧
    (a.fn = 4 →
      let p := if a.p = 0 then 16 else a.p
      let nb := a.c / 32
      let code := fun (r : AccRow) (b : Nat) => (MxElem.int p).encode rm ((List.range 32).map fun k => r.value (32 * b + k)) []
      out.1.length = rows.length * nb * (4 * p + 1) ∧
      (∀ (i : Nat) r b, rows[i]? = some r → b < nb →
        (∀ j, j < p → fld out.1 ((i * nb + b) * (4 * p) + 4 * j) 4 = planeWord (code r b).2.1 j) ∧
        fld out.1 (rows.length * nb * (4 * p) + i * nb + b) 1 = (code r b).1) ∧
      ∀ k, out.2.testBit k = true ↔ ∃ (i : Nat) (r : AccRow) (b : Nat), rows[i]? = some r ∧ b < nb ∧ (code r b).2.2.testBit k = true) ∧
    (a.fn = 5 → a.c ≤ 128 →
      let z := 64 + 24 * a.c
      out.1.length = rows.length * z ∧ out.2 = 0 ∧
      ∀ (i : Nat) r, rows[i]? = some r →
        fld out.1 (i * z) 2 = (r.e.signExtend 16).toNat ∧
        fld out.1 (i * z + 2) 1 = (if r.pair then 1 else 0) + (if r.anchor then 2 else 0) ∧ fld out.1 (i * z + 3) 13 = 0 ∧
        fld out.1 (i * z + 16) 16 = r.nan.toNat % 2 ^ a.c ∧ fld out.1 (i * z + 32) 16 = r.posInf.toNat % 2 ^ a.c ∧
        fld out.1 (i * z + 48) 16 = r.negInf.toNat % 2 ^ a.c ∧ ∀ c, c < a.c → fld out.1 (i * z + 64 + 24 * c) 24 = (r.col c).toNat)

/-- R206, R220 to R223: MREAD writes the values of its rows (`ReadLayout`), raises their flags, and with CLR clears the rows; with CHK a row
with ANCHOR traps. MADDRAW adds RAW rows; one that does not fit faults before or after issue, which the spec leaves open. Where the spec is
silent it states the choices of the model: log 6, log 12, log 18, log 49. -/
def Obligations.ReadAndAddRaw : Prop :=
  Sys2Proof.Claims.ReadLayout ∧
  (∀ fn (x : CArgs) (s : State), fn ≤ 5 →
    let c := x.cmd % 256
    let p := x.cmd / 256 % 16
    let f := (s.thr.getS x.r.a).toNat
    let n := (s.thr.getS x.r.d).toNat
    let i := Instr.mread fn x
    let bad := c = 0 ∨ 128 < c ∨ (fn = 4 ∧ p = 1) ∨ (fn ≠ 4 ∧ p ≠ 0)
    (bad → exec i s = .next (s.trapA ⟨.planeRecord, 0, 0⟩)) ∧
    (¬bad → s.thr.ePath = [] →
      (∀ e, ReadRowsBad fn c f n s.vc = some e → exec i s = .next (s.trapA ⟨e, 0, f⟩)) ∧
      (ReadRowsBad fn c f n s.vc = none →
        (RowsBusy s f n → Fresh s → exec i s = .next (waiting s .other)) ∧
        (¬RowsBusy s f n →
          let checks := s.checkRange s.agent (readAlign fn) (s.thr.getS x.r.b).toNat (readSize fn c p n)
          (∀ e, checks = .error (.trap e) → exec i s = .next (s.trapA e)) ∧
          (∀ ps sl, checks = .ok (ps, sl) →
            (∀ k, x.cmd.testBit 12 = true → k < n → (s.vc.row (f + k)).anchor = true → (∀ j, j < k → (s.vc.row (f + j)).anchor = false) →
              exec i s = .next (s.trapA ⟨.accAnchor, 0, f + k⟩)) ∧
            (x.cmd.testBit 12 = false ∨ (∀ k, k < n → (s.vc.row (f + k)).anchor = false) →
              let rows := (List.range n).map fun k => s.vc.row (f + k)
              let out := readOut (readArgs fn x.r.rm x.cmd) (modeOf s.thr x.r.rm) rows
              (∀ e, s.thr.raiseFlags [out.2] = .error (.trap e) → exec i s = .next (s.trapA e)) ∧
              (∀ t s1, s.thr.raiseFlags [out.2] = .ok t → (s.setThr t).storeRange ps sl out.1 = .ok s1 →
                (x.cmd.testBit 13 = false → exec i s = .next (doneA s 16 s1)) ∧
                (x.cmd.testBit 13 = true → exec i s = .next (doneA s 16 (touched (withRows s1 f n fun _ r => wiped r)))))))))) ) ∧
  (∀ (x : CArgs) (s : State),
    let c := x.cmd % 256
    let f := (s.thr.getS x.r.c).toNat
    let n := (s.thr.getS x.r.d).toNat
    let i := Instr.maddraw x
    (c = 0 ∨ 128 < c → exec i s = .next (s.trapA ⟨.planeRecord, 0, 0⟩)) ∧
    (1 ≤ c → c ≤ 128 → s.thr.ePath = [] →
      (BadRows f n → exec i s = .next (s.trapA ⟨.accRange, 0, f⟩)) ∧
      (¬BadRows f n →
        let reads := s.fetchRange s.agent 1 (s.thr.getS x.r.a).toNat (n * (64 + 24 * c))
        let saw := fun t : State => t.sawRange s.agent 1 (s.thr.getS x.r.a).toNat (n * (64 + 24 * c))
        (∀ e, reads = .error (.trap e) → exec i s = .next (s.trapA e)) ∧
        (∀ s1 e, reads = .ok (.error (s1, e)) → exec i s = .next (doneA s 16 (issued (saw s1) f n (some e)))) ∧
        (∀ bs, reads = .ok (.ok bs) →
          ((∀ k, k < n → FitsRaw (s.vc.row (f + k)) (rawAt c k bs)) →
            exec i s = .next (doneA s 16 (withRows (issued (saw s) f n none) f n fun k r => plusRaw r c (rawAt c k bs)))) ∧
          ((∃ k, k < n ∧ ¬FitsRaw (s.vc.row (f + k)) (rawAt c k bs)) → Fresh s →
            let s1 := { saw s with freeCtr := s.freeCtr + 1 }
            exec i s = .next (s1.takeTrap false ⟨.formatMismatch, 0, f⟩) ∨
            ∃ g, (∀ k r, (FitsRaw r (rawAt c k bs) → g k r = plusRaw r c (rawAt c k bs)) ∧ (¬FitsRaw r (rawAt c k bs) → g k r = r)) ∧
              exec i s = .next (doneA s 16 (withRows (issued s1 f n (some ⟨.formatMismatch, 0, f⟩)) f n g))))))) ∧
  (∀ fn, 6 ≤ fn → Illegal 2 0 18 fn) ∧ (∀ fn, 1 ≤ fn → Illegal 2 0 19 fn)

namespace Sys2Proof.Claims

/-- The active lanes' contributions of XACC and XACCI (R225). -/
def laneParts (r : RArgs) (s : State) (val : W32 → FVal) : List (Nat × FVal) :=
  (lanesOf (s.thr.getM r.msk)).map fun i => (r.x16 / 256 % 128 + i, val ((s.thr.getV r.a).lane i))

end Sys2Proof.Claims

/-- R205, R206, R224 to R226: XACC and XACCI add each active lane as one contribution; XRND writes each active lane with its column's value
rounded to FP32; an active lane past the last column is ACC_RANGE. -/
def Obligations.XaccLanes : Prop :=
  (∀ (r : RArgs) (s : State) i val, (i, val) ∈ [(Instr.xaccXacc r, fun x : W32 => fp32.decode x.toNat),
      (Instr.xaccXacci r, fun x : W32 => FVal.fin (decide (x.toInt < 0)) x.toInt.natAbs 0)] →
    let row := r.x16 % 256
    let c0 := r.x16 / 256 % 128
    ((∃ k ∈ lanesOf (s.thr.getM r.msk), 127 < c0 + k) → exec i s = .next (s.takeTrap true ⟨.accRange, 0, row⟩)) ∧
    ((∀ k ∈ lanesOf (s.thr.getM r.msk), c0 + k ≤ 127) →
      exec i s = .next (doneE s 8
        { issued s row 1 none with vc := (issued s row 1 none).vc.setRow row (contributions (s.vc.row row) (laneParts r s val)) }))) ∧
  (∀ (r : RArgs) (s : State),
    let row := r.x16 % 256
    let c0 := r.x16 / 256 % 128
    let last := if (s.vc.row row).pair then 63 else 127
    ((∃ k ∈ lanesOf (s.thr.getM r.msk), last < c0 + k) → exec (.xaccXrnd r) s = .next (s.takeTrap true ⟨.accRange, 0, row⟩)) ∧
    ((∀ k ∈ lanesOf (s.thr.getM r.msk), c0 + k ≤ last) →
      (∀ n, s.thr.levelDest true r.d = some n → exec (.xaccXrnd r) s = .next (s.takeTrap true ⟨.boundWrite, 0, n⟩)) ∧
      (s.thr.levelDest true r.d = none →
        (RowsBusy s row 1 → exec (.xaccXrnd r) s = .next (waitingE s .other)) ∧
        (¬RowsBusy s row 1 →
          let out := fun k => if (s.thr.getM r.msk).getLsbD k then fp32.round (modeOf s.thr r.rm) ((s.vc.row row).value (c0 + k)) else (0, 0)
          (∀ e, s.thr.raiseFlags ((List.range 32).map fun k => (out k).2) = .error (.trap e) →
            exec (.xaccXrnd r) s = .next (s.takeTrap true e)) ∧
          (∀ t t2 x, s.thr.raiseFlags ((List.range 32).map fun k => (out k).2) = .ok t →
            (∀ k, k < 32 → Lanes.lane x k = BitVec.ofNat 32 (out k).1) → t.writeV r.d (s.thr.getM r.msk) x = .ok t2 →
            exec (.xaccXrnd r) s = .next (doneE s 8 (s.setThr t2))))))) ∧
  (∀ fn, 3 ≤ fn → Illegal 0 1 16 fn)

/-! ## Tiles, remote commands, rule mode -/

namespace Sys2Proof.Claims

/-- Fields of the sequencer record (R230). -/
def seqM (bs : List Byte) : Nat := fld bs 40 2
def seqN (bs : List Byte) : Nat := fld bs 42 2
def seqKb (bs : List Byte) : Nat := fld bs 44 2
def seqState (bs : List Byte) : Nat := fld bs 60 1

/-- SEQ_RECORD of R230. -/
def SeqBad (bs : List Byte) : Prop :=
  seqM bs = 0 ∨ 256 < seqM bs ∨ seqN bs = 0 ∨ 384 < seqN bs ∨ seqKb bs = 0 ∨ 4096 < seqKb bs ∨ fld bs 46 1 = 0 ∨ 16 < fld bs 46 1 ∨
    fld bs 47 1 < 2 ∨ 8 < fld bs 47 1 ∨ 256 < fld bs 48 1 + seqM bs ∨ 1 < fld bs 49 1 ∨ fld bs 54 2 ≠ 0 ∨ fld bs 61 3 ≠ 0 ∨
    seqState bs = 2 ∨ 3 < seqState bs

/-- The members beyond the issuing core, for a group of g. -/
def seqOthers (bs : List Byte) (g : Nat) : List Nat := if g = 1 then [] else if g = 2 then [fld bs 50 2] else [fld bs 50 2, fld bs 52 2]

/-- TILE_GROUP of R230. -/
def GroupWrong (s : State) (bs : List Byte) (g : Nat) : Prop :=
  (seqN bs + 127) / 128 ≠ g ∨ (∃ v ∈ seqOthers bs g, s.nv ≤ v ∨ v = s.vc.id) ∨ (g = 3 ∧ fld bs 50 2 = fld bs 52 2)

/-- An MTILE of another core, or of another thread of this one, holds a core of the group (R231). -/
def GroupBusy (s : State) (members : List Nat) : Prop :=
  (∃ j, s.vc.tile = some j ∧ j.thread ≠ s.thr.id) ∨ ∃ v ∈ members, ∃ x o, s.vcAt v = some x ∧ x.groupLock = some o ∧ o ≠ s.vc.id

/-- The state with the members of a group locked and the MTILE of the core running. -/
def tileRuns (s : State) (members : List Nat) (j : TileJob) : State :=
  let s1 := s.lockMembers members
  { s1 with
    vc := { s1.vc with tile := some j }
    thr := { s1.thr with touchedArray := true, waitA := .mtile } }

/-- The number of steps, and what step n covers: K chunk, member, row group (R231). -/
def stepCount (bs : List Byte) : Nat := (seqKb bs + 3) / 4 * ((seqN bs + 127) / 128) * ((seqM bs + 31) / 32)
def stepShape (bs : List Byte) (n : Nat) : StepShape :=
  let g := (seqN bs + 127) / 128
  let rg := (seqM bs + 31) / 32
  let kc := n / (g * rg)
  let m := n / rg % g
  let q := n % rg
  ⟨kc, m, q, min 4 (seqKb bs - 4 * kc), min 128 (seqN bs - 128 * m), min 32 (seqM bs - 32 * q)⟩

/-- The MTILE of the thread in focus runs, and its context goes on (R231, R232). -/
def TileRunning (s0 s : State) (j : TileJob) : Prop :=
  s = s0.focus s0.req.t ∧ s.vc.tile = some j ∧ s.ctx.goesOn = true ∧ s.thr.status = .running ∧ s.thr.waitA = .mtile ∧ j.thread = s.thr.id

/-- A step of a member's core has an MLOADW (R231): of the first row group, the member's first since MTILE started, or one whose bank is empty. -/
def stepLoads (v : VCore) (j : TileJob) (h : StepShape) : Bool :=
  decide (h.g = 0) || !j.begun.contains h.m || (v.bank (h.kc % 2)).isNone

/-- A member's core after step n: the weights of the chunk, loaded where the step has an MLOADW, and the rows streamed past them. -/
def stepMade (v : VCore) (bs : List Byte) (h : StepShape) (loads : Bool) (d : List Byte × List Byte × List Byte × List Byte) : VCore :=
  let c : LoadW := { n := h.cols, kb := h.blocks, wp := fld bs 47 1, sparse := false, wsplit := false }
  let v1 := if loads then v.setBank (h.kc % 2) (c.tile d.1 d.2.1) else v
  match v1.bank (h.kc % 2) with
  | some b => v1.mapRows (fld bs 48 1 + 32 * h.g) h.rows fun i r => streamed b (fld bs 46 1) h.blocks i d.2.2.1 d.2.2.2 r
  | none => v1

end Sys2Proof.Claims

/-- R230 to R233: MTILE checks its record and group, completes at once where STATE is 3, and else starts or goes on at step DONE; a step
reads and loads its weights where R231 says, streams its rows on its member, and counts DONE; after the last step STATE becomes 3 and the
instruction completes. A failure inside a step is raised at its boundary, and one of memory leaves STATE 2. Under a pending pre-emption no
step starts. Where the spec is silent it states the choices of the model: log 12, log 18, log 49. -/
def Obligations.TileSteps : Prop :=
  (∀ g (x : CArgs) (s : State),
    let ra := (s.thr.getS x.r.a).toNat
    let i := Instr.mtile g x
    (HasRestartable s.thr → exec i s = .next (s.trapA ⟨.frameWindow, 0, 0⟩)) ∧
    (¬HasRestartable s.thr → g = 0 ∨ 3 < g → exec i s = .next (s.trapA ⟨.tileGroup, 0, 0⟩)) ∧
    (¬HasRestartable s.thr → 1 ≤ g → g ≤ 3 → s.thr.ePath = [] →
      (∀ e, s.checkBoth s.agent 64 ra 64 = .error (.trap e) → exec i s = .next (s.trapA e)) ∧
      (∀ e, s.checkBoth s.agent 64 ra 64 = .ok () → s.readRange s.agent 64 ra 64 = .error (.trap e) → exec i s = .next (s.trapA e)) ∧
      (∀ bs, s.checkBoth s.agent 64 ra 64 = .ok () → s.readRange s.agent 64 ra 64 = .ok bs →
        (SeqBad bs → exec i s = .next (s.trapA ⟨.seqRecord, 0, 0⟩)) ∧
        (¬SeqBad bs → GroupWrong s bs g → exec i s = .next (s.trapA ⟨.tileGroup, 0, 0⟩)) ∧
        (¬SeqBad bs → ¬GroupWrong s bs g →
          let seen := s.sawRange s.agent 64 ra 64
          (seqState bs = 3 → exec i s = .next (doneA s 16 seen)) ∧
          (seqState bs ≠ 3 → s.ctx.preempt ≠ .none → Fresh s → exec i s = .next (waiting s .mtile)) ∧
          (seqState bs ≠ 3 → s.ctx.preempt = .none → GroupBusy s (s.vc.id :: seqOthers bs g) → Fresh s →
            exec i s = .next (waiting s .other)) ∧
          (seqState bs = 1 → s.ctx.preempt = .none → ¬GroupBusy s (s.vc.id :: seqOthers bs g) →
            exec i s = .next (tileRuns seen (s.vc.id :: seqOthers bs g) ⟨s.thr.id, ra, bs, fld bs 56 4, []⟩)) ∧
          (∀ s1 s2, seqState bs = 0 → s.ctx.preempt = .none → ¬GroupBusy s (s.vc.id :: seqOthers bs g) → seen.writeSeq 56 [0, 0, 0, 0] ra = .ok s1 →
            s1.writeSeq 60 [1] ra = .ok s2 →
            exec i s = .next (tileRuns s2 (s.vc.id :: seqOthers bs g) ⟨s.thr.id, ra, bs, 0, []⟩)))))) ∧
  (∀ s0 s j, TileRunning s0 s j →
    let bs := j.image
    let h := stepShape bs j.step
    let member := (s.vc.id :: seqOthers bs ((seqN bs + 127) / 128))[h.m]?.getD 0
    (∀ s1, stepCount bs ≤ j.step → s.writeSeq 60 [3] j.addr = .ok s1 → exec .mtileStep s0 = .next (doneA s 16 s1.endTile)) ∧
    (∀ v e, j.step < stepCount bs → s.vcAt member = some v → s.stepReads (seqOf bs) h (stepLoads v j h) = .error (.trap e) →
      exec .mtileStep s0 = .next (s.trapA e)) ∧
    (∀ v x, j.step < stepCount bs → s.vcAt member = some v → s.stepReads (seqOf bs) h (stepLoads v j h) = .ok x →
      let taken := h.m = 0 ∨ (fld bs 32 8 ≠ 0 ∧ BitVec.ofNat 64 (fld bs 32 8) ∈ v.mkeys.toList)
      let pairs := ∃ k, k < h.rows ∧ (v.row (fld bs 48 1 + 32 * h.g + k)).pair = true
      (¬taken → exec .mtileStep s0 = .next (s.trapA ⟨.mcmdReject, 0, h.m⟩)) ∧
      (taken → pairs → exec .mtileStep s0 = .next (s.trapA ⟨.formatMismatch, 0, fld bs 48 1 + 32 * h.g⟩)) ∧
      (∀ s1 e, taken → ¬pairs → x = .error (s1, e) →
        (e.cause ≠ .sramUncorrectable → e.cause ≠ .poolError →
          exec .mtileStep s0 = .next (s.trapFrom s1 ⟨e.cause, e.faddr, e.fdetail⟩)) ∧
        (∀ s2, e.cause = .sramUncorrectable ∨ e.cause = .poolError → s1.writeSeq 60 [2] j.addr = .ok s2 →
          exec .mtileStep s0 = .next (s.trapFrom s2 ⟨e.cause, e.faddr, e.fdetail⟩)))) ∧
    (∀ v d, j.step < stepCount bs → s.vcAt member = some v → s.stepReads (seqOf bs) h (stepLoads v j h) = .ok (.ok d) →
      (h.m = 0 ∨ (fld bs 32 8 ≠ 0 ∧ BitVec.ofNat 64 (fld bs 32 8) ∈ v.mkeys.toList) →
        (∀ k, k < h.rows → (v.row (fld bs 48 1 + 32 * h.g + k)).pair = false) →
        let s1 := (s.markStep (seqOf bs) h (stepLoads v j h)).onVc member fun u => stepMade u bs h (stepLoads v j h) d
        ∀ s3, (if h.m = 0 then s1 else (s1.sentMsg 0).receivedMsg member 0).writeSeq 56 (leBytes 4 (j.step + 1)) j.addr = .ok s3 →
          let s4 := { s3 with vc := { s3.vc with tile := some { j with step := j.step + 1, begun := h.m :: j.begun } } }
          (j.step + 1 < stepCount bs → exec .mtileStep s0 = .next (waiting s4 .mtile)) ∧
          (∀ s5, j.step + 1 = stepCount bs → s4.writeSeq 60 [3] j.addr = .ok s5 →
            exec .mtileStep s0 = .next (doneA s 16 s5.endTile)))))

namespace Sys2Proof.Claims

/-- The image of an MCMD command passes R228. -/
def ImageOk (bs : List Byte) : Prop :=
  let arg := fld bs 4 4
  (fld bs 0 1 = 1 ∧ fld bs 1 1 = 0 ∧ arg < 2 ^ 11 ∧ fld bs 8 8 = 0) ∨
  (fld bs 0 1 = 2 ∧ fld bs 1 1 ≤ 5 ∧ arg / 2 ^ 14 % 4 = 0 ∧ arg < 2 ^ 20 ∧ (arg / 2 ^ 16 ≤ 4 ∨ arg / 2 ^ 16 = 15) ∧
    (fld bs 1 1 = 5 → arg / 2 ^ 16 = 0)) ∨
  (fld bs 0 1 = 3 ∧ fld bs 1 1 = 0 ∧ arg < 2 ^ 8)

/-- The command that MCMD sends. -/
def commandOf (x : CArgs) (s : State) (bs : List Byte) : Mcmd where
  ident := { vcore := s.vc.id, lanes := s.thr.lanes, launch := s.thr.launch }
  thread := s.thr.id
  order := s.nextId
  rmode := s.thr.rmode
  target := (s.thr.getS x.r.a).toNat
  channel := x.cmd % 4
  cap := s.thr.getS x.r.b
  kind := fld bs 0 1
  fmt := fld bs 1 1
  first := fld bs 2 1
  count := fld bs 3 1 + 1
  arg := fld bs 4 4
  addr := fld bs 8 8

/-- Command n of the context, and the state with its issuer in focus. -/
def Commands (s0 s : State) (m : Mcmd) : Prop :=
  ((s0.ctxAt s0.req.t.ctx).bind fun c => c.mcmds[s0.req.n]?) = some m ∧ s = s0.focus ⟨s0.req.t.ctx, m.ident.vcore, m.thread⟩ ∧
    s.ctx.runs = true

/-- A command waits behind an older one of its class from the same core to the same target (R24), and behind every parked store of its issuer
that was issued before it (R227). -/
def Behind (s : State) (m : Mcmd) : Prop :=
  (∃ y ∈ s.ctx.mcmds, y.ident.vcore = m.ident.vcore ∧ y.target = m.target ∧ y.order < m.order) ∨
    ∃ p ∈ s.thr.replay, p.failed = none ∧ p.order < m.order

/-- Command n of the context arrives. -/
def Arrives (s0 s : State) (m : Mcmd) : Prop := Commands s0 s m ∧ ¬Behind s m

/-- The state without the command that the request names, received at its target. -/
def arrived (s0 s : State) (m : Mcmd) : State :=
  ({ s with ctx := { s.ctx with mcmds := s.ctx.mcmds.eraseIdx s0.req.n } }).receivedMsg m.target 0

/-- A command that its target has accepted, and that has acted, stands in the array order of the target until it completes (R208, R212). -/
def accepted (s0 s : State) (m : Mcmd) : State :=
  (arrived s0 s m).onVc m.target fun v =>
    { v with outstanding := v.outstanding ++ [⟨m.ident.vcore, m.thread, m.first, m.count, none⟩] }

/-- A command that was rejected or met a fault stands in the array order of its target too, touching no row: its completion brings the error to its
issuer, behind the errors of the commands before it (R212). -/
def failedWith (s0 s : State) (m : Mcmd) (c : Cause) (addr detail : Nat) : State :=
  (arrived s0 s m).onVc m.target fun v =>
    { v with outstanding := v.outstanding ++ [⟨m.ident.vcore, m.thread, m.first, 0, some ⟨c, addr, detail⟩⟩] }

end Sys2Proof.Claims

/-- R24, R212, R227 to R229: MCMD validates its image and sends the command; it arrives behind the older ones of its class from the same core
and behind the parked stores of its issuer; the target accepts it only with a nonzero capability equal to one of its keys, and else the
error of its completion is MCMD_REJECT; an accepted MCLR, MREAD or MADDRAW acts on the target's rows with the issuer's identity and its rounding
mode. Every one enters the target's array order, with its fault if it has one. A completing array command hands its error to its thread.
Where the spec is silent it states the choices of the model: log 12, log 15, log 37. -/
def Obligations.RemoteCommands : Prop :=
  (∀ (x : CArgs) (s : State),
    let target := (s.thr.getS x.r.a).toNat
    let read := s.readRange s.agent 16 (s.thr.getS x.r.c).toNat 16
    (HasRestartable s.thr → exec (.mcmd x) s = .next (s.trapA ⟨.frameWindow, 0, 0⟩)) ∧
    (¬HasRestartable s.thr → s.nv ≤ target → exec (.mcmd x) s = .next (s.trapA ⟨.mcmdTarget, 0, target⟩)) ∧
    (¬HasRestartable s.thr → target < s.nv →
      (∀ e, read = .error (.trap e) → exec (.mcmd x) s = .next (s.trapA e)) ∧
      (∀ bs, read = .ok bs → ¬ImageOk bs → exec (.mcmd x) s = .next (s.trapA ⟨.recordInvalid, 0, 0⟩)) ∧
      (∀ bs, read = .ok bs → ImageOk bs →
        let s1 := (s.sawRange s.agent 16 (s.thr.getS x.r.c).toNat 16).flush
        exec (.mcmd x) s = .next (doneA s 16
          (State.sentMsg { s1 with ctx := { s1.ctx with mcmds := s1.ctx.mcmds ++ [commandOf x s bs] }, nextId := s.nextId + 1 } 0))))) ∧
  (∀ fn, 1 ≤ fn → Illegal 2 0 21 fn) ∧
  (∀ s0 s m, Commands s0 s m → Behind s m → exec .mcmdArrival s0 = .next s0) ∧
  (∀ s0 s m v, Arrives s0 s m → s.vcAt m.target = some v →
    let out := exec .mcmdArrival s0
    let busy := ∃ c ∈ v.outstanding, c.first < m.first + m.count ∧ m.first < c.first + c.count
    (m.cap = 0 ∨ m.cap ∉ v.mkeys.toList → out = .next (failedWith s0 s m .mcmdReject 0 m.target)) ∧
    (m.cap ≠ 0 → m.cap ∈ v.mkeys.toList →
      (m.kind = 1 ∨ m.kind = 2 → busy → out = .next s0) ∧
      (m.kind = 1 → ¬busy →
        (BadRows m.first m.count → out = .next (failedWith s0 s m .accRange 0 m.first)) ∧
        (¬BadRows m.first m.count → out = .next (accepted s0 (s.onVc m.target fun v => v.mapRows m.first m.count fun _ _ =>
          { x := [], nan := 0, posInf := 0, negInf := 0, e := BitVec.ofNat 10 m.arg, pair := m.arg.testBit 10, anchor := false }) m))) ∧
      (m.kind = 2 → ¬busy →
        let c := m.arg % 256
        let p := m.arg / 256 % 16
        let rm := m.arg / 2 ^ 16
        let bad := c = 0 ∨ 128 < c ∨ (m.fmt = 4 ∧ p = 1) ∨ (m.fmt ≠ 4 ∧ p ≠ 0)
        let checks := s.checkRange (s.engine m.ident) (readAlign m.fmt) m.addr (readSize m.fmt c p m.count)
        (bad → out = .next (failedWith s0 s m .planeRecord 0 0)) ∧
        (∀ e, ¬bad → ReadRowsBad m.fmt c m.first m.count v = some e → out = .next (failedWith s0 s m e 0 m.first)) ∧
        (¬bad → ReadRowsBad m.fmt c m.first m.count v = none →
          (∀ e, checks = .error (.trap e) → out = .next (failedWith s0 s m e.cause e.faddr e.fdetail)) ∧
          (∀ ps sl, checks = .ok (ps, sl) →
            (∀ k, m.arg.testBit 12 = true → k < m.count → (v.row (m.first + k)).anchor = true →
              (∀ j, j < k → (v.row (m.first + j)).anchor = false) → out = .next (failedWith s0 s m .accAnchor 0 (m.first + k))) ∧
            (m.arg.testBit 12 = false ∨ (∀ k, k < m.count → (v.row (m.first + k)).anchor = false) →
              let made := readOut (readArgs m.fmt rm (m.arg % 2 ^ 14)) (modeOf { s.thr with rmode := m.rmode } rm)
                ((List.range m.count).map fun k => v.row (m.first + k))
              (∀ e, s.thr.raiseFlags [made.2] = .error (.trap e) → out = .next (failedWith s0 s m e.cause e.faddr e.fdetail)) ∧
              (∀ t, s.thr.raiseFlags [made.2] = .ok t →
                let st := storesOf (splitBytes ps made.1) (splitBytes ps made.1) sl
                let s1 := st.foldl (fun s x => (s.performStore x).markLeaf x.va true) ((s.setThr t).traffic true (st.map fun x => .mem x.pa))
                (m.arg.testBit 13 = false → out = .next (accepted s0 s1 m)) ∧
                (m.arg.testBit 13 = true →
                  out = .next (accepted s0 (s1.onVc m.target fun v => v.mapRows m.first m.count fun _ r => wiped r) m))))))) ∧
      (m.kind = 3 →
        let c := m.arg % 256
        let size := m.count * (64 + 24 * c)
        let reads := s.fetchRange (s.engine m.ident) 1 m.addr size
        (c = 0 ∨ 128 < c → out = .next (failedWith s0 s m .planeRecord 0 0)) ∧
        (1 ≤ c → c ≤ 128 → BadRows m.first m.count → out = .next (failedWith s0 s m .accRange 0 m.first)) ∧
        (1 ≤ c → c ≤ 128 → ¬BadRows m.first m.count →
          (∀ e, reads = .error (.trap e) → out = .next (failedWith s0 s m e.cause e.faddr e.fdetail)) ∧
          (∀ s1 e, reads = .ok (.error (s1, e)) → out = .next (failedWith s0 s1 m e.cause e.faddr e.fdetail)) ∧
          (∀ bs, reads = .ok (.ok bs) →
            ((∀ k, k < m.count → FitsRaw (v.row (m.first + k)) (rawAt c k bs)) →
              ∃ g, (∀ k r, FitsRaw r (rawAt c k bs) → g k r = plusRaw r c (rawAt c k bs)) ∧
                out = .next (accepted s0 (((s.sawRange (s.engine m.ident) 1 m.addr size).markRange m.addr size).onVc m.target fun v => v.mapRows m.first m.count g) m)) ∧
            ((∃ k, k < m.count ∧ ¬FitsRaw (v.row (m.first + k)) (rawAt c k bs)) →
              out = .next (failedWith s0 s m .formatMismatch 0 m.first))))))) ∧
  (∀ s0 s, s = s0.focus { s0.req.t with th := 0 } → s.ctx.live = true → s.ctx.hasVc s.vc.id = true →
    ∀ c rest, s.vc.outstanding = c :: rest →
      (c.err = none → exec .arrayCommandCompletion s0 = .next { s with vc := { s.vc with outstanding := rest } }) ∧
      (∀ e, c.err = some e → exec .arrayCommandCompletion s0 =
        .next ((({ s with vc := { s.vc with outstanding := rest } }).focus ⟨s.ctx.id, c.vcore, c.thread⟩).updThr fun t =>
          { t with deferred := t.deferred ++ [e] })))

namespace Sys2Proof.Claims

/-- The neighbour count of a neighbourhood, and the neighbours' offsets in reading order (R341). -/
def hoodN (hood : Nat) : Nat := if hood = 0 then 8 else if hood = 1 then 4 else 24
def around (hood : Nat) : List (Int × Int) :=
  let r : Nat := if hood = 2 then 2 else 1
  (((List.range (2 * r + 1)).map fun (y : Nat) => (List.range (2 * r + 1)).map fun (x : Nat) =>
      (((x : Int) - (r : Int)), ((y : Int) - (r : Int)))).flatten).filter
    fun o => decide (o ≠ (0, 0)) && (decide (hood ≠ 1) || decide (o.1 = 0) || decide (o.2 = 0))

/-- The size of a table and the index of a cell (R342). -/
def tableLen (kind : RuleKind) (hood b : Nat) : Nat :=
  if kind = .full then 2 ^ (b * (hoodN hood + 1)) else 2 ^ b * (hoodN hood * (2 ^ b - 1) + 1)
def indexOf (kind : RuleKind) (hood b own : Nat) (cs : List Nat) : Nat :=
  if kind = .full then own + ((List.range cs.length).map fun k => (cs[k]?.getD 0) * 2 ^ (b * (k + 1))).sum
  else own * (hoodN hood * (2 ^ b - 1) + 1) + cs.sum

/-- RULE_TABLE of RLOAD on its fields (R347 step 2). -/
def TableFieldsBad (fn b hood : Nat) : Prop := b = 0 ∨ 4 < b ∨ 2 < hood ∨ (fn = 0 ∧ hood = 2)

/-- The code of a neighbour position, none outside the stored tile (R343). -/
def lookAt (d : TileD) (w : List Nat) (x y : Int) : Option Nat :=
  let n := d.edge 0
  let e := d.edge 1
  let s := d.edge 2
  let we := d.edge 3
  let west := decide (x < 32)
  let east := decide (32 + (d.sw - 64 : Nat) ≤ x)
  let north := decide (y < d.halo)
  let south := decide (d.halo + (d.sh - 2 * d.halo : Nat) ≤ y)
  if (west && decide (we = 1)) || (east && decide (e = 1)) || (north && decide (n = 1)) || (south && decide (s = 1)) then some d.fill
  else
    let x' := if west && decide (we = 2) then x + (d.sw - 64 : Nat) else if east && decide (e = 2) then x - (d.sw - 64 : Nat) else x
    let y' := if north && decide (n = 2) then y + (d.sh - 2 * d.halo : Nat)
      else if south && decide (s = 2) then y - (d.sh - 2 * d.halo : Nat) else y
    if 0 ≤ x' ∧ x' < d.sw ∧ 0 ≤ y' ∧ y' < d.sh then w[y'.toNat * d.sw + x'.toNat]? else none

/-- A lattice cell (R343). -/
def isLattice (d : TileD) (x y : Nat) : Bool :=
  (decide (32 ≤ x) || decide (d.edge 3 = 0)) && (decide (x < 32 + (d.sw - 64)) || decide (d.edge 1 = 0)) &&
    (decide (d.halo ≤ y) || decide (d.edge 0 = 0)) && (decide (y < d.halo + (d.sh - 2 * d.halo)) || decide (d.edge 2 = 0))

/-- The code of a cell after update(S), where the cell belongs to S (R342 to R344). -/
def newCell (d : TileD) (t : RuleTab) (w : List Nat) (x y : Nat) : Nat :=
  let own := w[y * d.sw + x]?.getD 0
  match (around t.hood).mapM fun o => lookAt d w (x + o.1) (y + o.2) with
  | some cs => ((t.entries[indexOf t.kind t.hood d.bits own cs]?.getD 0)).toNat % 2 ^ d.bits
  | none => own

/-- A tile whose geometry R340 admits. -/
def Shaped (d : TileD) : Prop := 64 < d.sw ∧ d.sw % 32 = 0 ∧ 2 * d.halo < d.sh ∧ ∀ k, k < 4 → d.edge k ≤ 2

end Sys2Proof.Claims

/-- R339, R341 to R344: the new code of every stored cell in a SYNC generation, in update of any set of cells, and in a CHEQ generation,
which updates the even cells and then the odd ones. WRAP adds or subtracts the extent once, also where the interior has one row (log 43). -/
def Sys2Proof.Claims.RuleGenerations : Prop :=
  ∀ (d : TileD) (t : RuleTab) (w : List Nat) (x y : Nat), Shaped d → t.hood ≤ 2 → w.length = d.sh * d.sw → x < d.sw → y < d.sh →
    let at_ := y * d.sw + x
    let even := fun x y : Nat => decide ((d.x0 + x - 32 + d.y0 + y - d.halo) % 2 = 0)
    let odd := fun x y : Nat => decide ((d.x0 + x - 32 + d.y0 + y - d.halo) % 2 = 1)
    (d.generation t false w)[at_]? = some (if isLattice d x y then newCell d t w x y else w[at_]?.getD 0) ∧
    (∀ p, (d.update t p w)[at_]? = some (if isLattice d x y ∧ p x y = true then newCell d t w x y else w[at_]?.getD 0)) ∧
    d.generation t true w = d.update t odd (d.update t even w)

namespace Sys2Proof.Claims

/-- The words of an RSTEP's run: the count that it starts with, or the one that it goes on with. -/
def runLen (bs : List Byte) (g : Nat) : Nat := if fld bs 24 4 = 0 then g else fld bs 32 4

/-- The carry tile is in use (R339). -/
def carryUsed (bs : List Byte) (run : Nat) : Bool :=
  decide (2 ≤ run) && (List.range 4).any fun k => decide (fld bs 10 1 / 4 ^ k % 4 = 0)

/-- TILE_DESCRIPTOR (R340, R348 step 3), for an RSTEP with the count g. -/
def DescBad (bs : List Byte) (cheq : Bool) (g : Nat) : Prop :=
  let bits := fld bs 9 1
  let halo := fld bs 8 1
  let sw := fld bs 4 2
  let sh := fld bs 6 2
  let edge := fun k => fld bs 10 1 / 4 ^ k % 4
  let size := 4 * bits * sh * (sw / 32)
  bits = 0 ∨ 4 < bits ∨ 16 < halo ∨ 2 ^ bits ≤ fld bs 11 1 ∨ sw ≤ 64 ∨ sw % 32 ≠ 0 ∨ sh ≤ 2 * halo ∨
    (∃ k, k < 4 ∧ edge k = 3) ∨ ¬(edge 0 = 2 ↔ edge 2 = 2) ∨ ¬(edge 1 = 2 ↔ edge 3 = 2) ∨
    (cheq = true ∧ edge 0 = 2 ∧ (sh - 2 * halo) % 2 = 1) ∨ fld bs 0 4 % 4 ≠ 0 ∨ 2 ≤ fld bs 28 4 ∨ (∃ x ∈ bs.drop 36, x ≠ 0) ∨
    fld bs 32 4 < fld bs 24 4 ∨ (fld bs 28 4 = 1 ∧ fld bs 24 4 = 0) ∨
    0x3C0000 < fld bs 0 4 + (if carryUsed bs (runLen bs g) then 2 * size else size) ∨ (fld bs 24 4 = 0 ∧ 2 ^ 32 ≤ g)

/-- A lantern command has entered the order of its core, and has left it (R337). -/
def lined (s : State) : State :=
  if s.thr.id ∈ s.vc.lantern then s else { s with vc := { s.vc with lantern := s.vc.lantern ++ [s.thr.id] } }
def unlined (s : State) : State := { s with vc := { s.vc with lantern := s.vc.lantern.filter fun t => decide (t ≠ s.thr.id) } }

/-- The state with the running RSTEP of the core set. -/
def ruleIs (s : State) (j : Option RuleJob) : State := { s with vc := { s.vc with rule := j } }

/-- The RSTEP of the thread in focus runs, and its context goes on. -/
def RuleRunning (s0 s : State) (j : RuleJob) (t : RuleTab) : Prop :=
  s = s0.focus s0.req.t ∧ s.vc.rule = some j ∧ s.vc.table = some t ∧ s.ctx.goesOn = true ∧ s.thr.status = .running ∧
    s.thr.waitA = .rstep ∧ j.thread = s.thr.id

end Sys2Proof.Claims

/-- R141, R230, R348: the checks of a range that is read and written: those of a read, then those of a write. -/
def Sys2Proof.Claims.RangeChecks : Prop :=
  ∀ (s : State) (ag : Agent) align va n,
    let ps := pieces align .read .scalar [] (n / 32 + 2) va n
    (∀ e, s.checkAll { ag with det := false } ps = .error e → s.checkBoth ag align va n = .error e) ∧
    (∀ ts e, s.checkAll { ag with det := false } ps = .ok ts → s.checkRange ag align va n = .error e → s.checkBoth ag align va n = .error e) ∧
    (∀ ts w, s.checkAll { ag with det := false } ps = .ok ts → s.checkRange ag align va n = .ok w → s.checkBoth ag align va n = .ok ())

/-- R336, R337, R340, R346 to R350: the lantern commands of a core are carried out one at a time, in the order in which they issued, from their
first check on. RLOAD replaces the table once every byte is read; RSTEP checks its descriptor, table, depth and tile, starts its run, or with
a count of 0 and nothing left completes at once; under a pending pre-emption it starts nothing; every boundary writes the interior cells, the
counters and the carry tile in order, and the last one completes the instruction. -/
def Sys2Proof.Claims.RuleCommands : Prop :=
  (∀ fn (x : CArgs) (s : State), fn ≤ 1 →
    let b := x.cmd % 16
    let hood := x.cmd / 16 % 16
    let kind := if fn = 0 then RuleKind.full else RuleKind.total
    let n := (s.thr.getS x.r.b).toNat
    let i := Instr.rload fn x
    let s1 := lined s
    (s1.vc.lantern.head? ≠ some s.thr.id → exec i s = .next (waiting s1 .other)) ∧
    (s1.vc.lantern.head? = some s.thr.id → HasRestartable s.thr → exec i s = .next (s.trapA ⟨.frameWindow, 0, 0⟩)) ∧
    (s1.vc.lantern.head? = some s.thr.id → ¬HasRestartable s.thr →
      (TableFieldsBad fn b hood → exec i s = .next (s.trapA ⟨.ruleTable, 0, 0⟩)) ∧
      (¬TableFieldsBad fn b hood → fn = 0 → 16 < b * (hoodN hood + 1) → exec i s = .next (s.trapA ⟨.ruleIndexWidth, 0, 0⟩)) ∧
      (¬TableFieldsBad fn b hood → fn = 1 ∨ b * (hoodN hood + 1) ≤ 16 →
        (n ≠ tableLen kind hood b → exec i s = .next (s.trapA ⟨.ruleTable, 0, 0⟩)) ∧
        (n = tableLen kind hood b →
          (∀ e, s1.readRange s1.agent 1 (s.thr.getS x.r.a).toNat n = .error (.trap e) → exec i s = .next (s.trapA e)) ∧
          (∀ bs, s1.readRange s1.agent 1 (s.thr.getS x.r.a).toNat n = .ok bs →
            let s2 := s1.sawRange s1.agent 1 (s.thr.getS x.r.a).toNat n
            exec i s = .next (doneA s 16 (unlined { s2 with vc := { s2.vc with table := some ⟨kind, hood, b, bs⟩ } }))))))) ∧
  (∀ (x : CArgs) (s : State) i cheq, (i, cheq) ∈ [(Instr.rstepSync x, false), (Instr.rstepCheq x, true)] →
    let ra := (s.thr.getS x.r.a).toNat
    let g := (s.thr.getS x.r.b).toNat
    let s1 := lined s
    (s1.vc.lantern.head? ≠ some s.thr.id → exec i s = .next (waiting s1 .other)) ∧
    (∀ e, s1.vc.lantern.head? = some s.thr.id → s1.checkBoth s1.agent 64 ra 64 = .error (.trap e) → exec i s = .next (s.trapA e)) ∧
    (∀ e, s1.vc.lantern.head? = some s.thr.id → s1.checkBoth s1.agent 64 ra 64 = .ok () → s1.readRange s1.agent 64 ra 64 = .error (.trap e) →
      exec i s = .next (s.trapA e)) ∧
    (∀ bs, s1.vc.lantern.head? = some s.thr.id → s1.checkBoth s1.agent 64 ra 64 = .ok () → s1.readRange s1.agent 64 ra 64 = .ok bs →
      let d := tileOf bs
      (DescBad bs cheq g → exec i s = .next (s.trapA ⟨.tileDescriptor, 0, 0⟩)) ∧
      (¬DescBad bs cheq g →
        (s.vc.table = none → exec i s = .next (s.trapA ⟨.ruleTable, 0, 0⟩)) ∧
        (∀ t, s.vc.table = some t → t.bits ≠ fld bs 9 1 → exec i s = .next (s.trapA ⟨.ruleTable, 0, 0⟩)) ∧
        (∀ t, s.vc.table = some t → t.bits = fld bs 9 1 →
          let need := (if t.hood = 2 then 2 else 1) * runLen bs g * (if cheq then 2 else 1)
          let short := ∃ k, k < 4 ∧ fld bs 10 1 / 4 ^ k % 4 = 0 ∧ (if k % 2 = 0 then fld bs 8 1 else 32) < need
          (short → exec i s = .next (s.trapA ⟨.haloShort, 0, 0⟩)) ∧
          (¬short →
            let size := 4 * fld bs 9 1 * fld bs 6 2 * (fld bs 4 2 / 32)
            let tileOk := s1.checkBoth s1.agent 4 (fld bs 0 4) size
            let carryOk := s1.checkBoth s1.agent 4 (fld bs 0 4 + size) (if carryUsed bs (runLen bs g) then size else 0)
            (∀ e, tileOk = .error (.trap e) → exec i s = .next (s.trapA e)) ∧
            (∀ e, tileOk = .ok () → carryOk = .error (.trap e) → exec i s = .next (s.trapA e)) ∧
            (tileOk = .ok () → carryOk = .ok () →
              let seen := s1.sawRange s1.agent 64 ra 64
              (fld bs 24 4 = 0 → g = 0 → exec i s = .next (doneA s 16 (unlined seen))) ∧
              (fld bs 24 4 ≠ 0 ∨ g ≠ 0 →
                (s.ctx.preempt ≠ .none → exec i s = .next (waiting (unlined s1) .rstep)) ∧
                (∀ s2 tile carry, s.ctx.preempt = .none →
                  (if fld bs 24 4 = 0 then seen.storeWords s1.agent ra [(32, g), (24, g)] else .ok seen) = .ok s2 →
                  s2.readRange s2.agent 4 (fld bs 0 4) size = .ok tile →
                  (fld bs 28 4 = 1 → s2.readRange s2.agent 4 (fld bs 0 4 + size) size = .ok carry) →
                  exec i s = .next (waiting (ruleIs (d.seen s2) (some
                    { thread := s.thr.id, cheq := cheq, addr := ra, image := bs, run := runLen bs g, gen := fld bs 20 4,
                      remaining := if fld bs 24 4 = 0 then g else fld bs 24 4,
                      working := if fld bs 28 4 = 1 then d.withCarry (d.cells tile) (d.cells carry) else d.cells tile })) .rstep))))))))) ∧
  (∀ s0 s j t, RuleRunning s0 s j t → 0 < j.remaining →
    let d := tileOf j.image
    let w := d.generation t j.cheq j.working
    let ag : Agent := { vcore := s.vc.id, lanes := s.thr.lanes, det := s.det, thread := true, tlb := false, estream := false }
    let carry := carryUsed j.image j.run && decide (j.remaining ≠ 1)
    ∀ s1 s2 s3 s4, s.storeWords ag d.base (d.words w d.interior) = .ok s1 →
      s1.storeWords ag j.addr [(20, (j.gen + 1) % 2 ^ 32), (24, j.remaining - 1)] = .ok s2 →
      (if carry then s2.storeWords ag (d.base + d.size) (d.words w fun x y => isLattice d x y && !d.interior x y) else .ok s2) = .ok s3 →
      s3.storeWords ag j.addr [(28, if carry then 1 else 0)] = .ok s4 →
      let s5 := (s4.markLeaf j.addr true).renew j.addr
      (j.remaining = 1 → exec .generationBoundary s0 = .next (doneA s 16 (unlined (ruleIs s5 none)))) ∧
      (j.remaining ≠ 1 → exec .generationBoundary s0 = .next (waiting (ruleIs s5 (some
        { j with gen := (j.gen + 1) % 2 ^ 32, remaining := j.remaining - 1, working := w })) .rstep))) ∧
  (∀ fn, 2 ≤ fn → Illegal 2 0 24 fn ∧ Illegal 2 0 25 fn)

/-- RLOAD, RSTEP and the generations of the rule mode, and the checks of what is read and written: `RuleGenerations`, `RangeChecks`,
`RuleCommands`. Where the spec is silent it states the choices of the model: log 12, log 26, log 43. -/
def Obligations.RuleMode : Prop := Sys2Proof.Claims.RuleGenerations ∧ Sys2Proof.Claims.RangeChecks ∧ Sys2Proof.Claims.RuleCommands

/-! ## Vector instructions -/

namespace Sys2Proof.Claims

/-- Operand a of an E-stream major, its active mask, and the thread with the popped entry removed (R176, R177). -/
def OperandA (t : Thread) (r : RArgs) (a : Lanes) (act : W32) (t1 : Thread) : Prop :=
  (r.x16.testBit 2 = false ∧ a = t.getV r.a ∧ act = t.getM r.msk ∧ t1 = t) ∨
  (r.x16.testBit 2 = true ∧ ∃ e rest, t.getQ r.a = e :: rest ∧ e.ready = true ∧ a = e.lanes ∧ act = t.getM r.msk &&& e.mask ∧
    t1 = t.setQ r.a rest)

/-- The operands a and b, the active mask, and the thread with the popped entries removed: under BB lane 0 of b is used in every lane and
the mask of b's entry does not enter (R176, R177). -/
def Operands (t : Thread) (r : RArgs) (a b : Lanes) (act : W32) (t2 : Thread) : Prop :=
  ∃ act1 t1 b1, OperandA t r a act1 t1 ∧ b = (if r.x16.testBit 1 then Lanes.make fun _ => b1.lane 0 else b1) ∧
    ((r.x16.testBit 0 = false ∧ b1 = t1.getV r.b ∧ act = act1 ∧ t2 = t1) ∨
     (r.x16.testBit 0 = true ∧ ∃ e rest, t1.getQ r.b = e :: rest ∧ e.ready = true ∧ b1 = e.lanes ∧
       act = (if r.x16.testBit 1 then act1 else act1 &&& e.mask) ∧ t2 = t1.setQ r.b rest))

/-- A queue that an instruction is to pop has no readable entry, the queue of a first (R146, R177). -/
def NoEntry (t : Thread) (q : Nat) : Prop := t.getQ q = [] ∨ ∃ e rest, t.getQ q = e :: rest ∧ e.ready = false
def OperandWaits (t : Thread) (r : RArgs) (q : Nat) : Prop :=
  (r.x16.testBit 2 = true ∧ NoEntry t r.a ∧ q = r.a) ∨
  (r.x16.testBit 0 = true ∧ q = r.b ∧ ∃ a act t1, OperandA t r a act t1 ∧ NoEntry t1 r.b)

/-- An E-stream instruction writes lane k of vD with `f` in its active lanes, with the settle of that write: it completes, waits for an
entry, or traps with BOUND_WRITE or LINK_OVERFLOW (R176, R180). -/
def WritesV (i : Instr) (len : Nat) (r : RArgs) (f : State → Lanes → Lanes → W32 → Nat → W32) : Prop :=
  ∀ s : State,
    (∀ n, s.thr.levelDest true r.d = some n → exec i s = .next (s.takeTrap true ⟨.boundWrite, 0, n⟩)) ∧
    (s.thr.levelDest true r.d = none →
      (∀ q, OperandWaits s.thr r q → exec i s = .next (waitingE s (.pop q))) ∧
      (∀ a b act t1 x, Operands s.thr r a b act t1 → (∀ k, k < 32 → Lanes.lane x k = f s a b act k) →
        (∀ t2, t1.writeV r.d act x = .ok t2 → exec i s = .next (doneE s len (s.setThr t2))) ∧
        (∀ e, t1.writeV r.d act x = .error (.trap e) → exec i s = .next (s.takeTrap true e))))

/-- The same for an instruction that raises flags in its active lanes (R114, R115). -/
def WritesF (i : Instr) (len : Nat) (r : RArgs) (f : State → Lanes → Lanes → W32 → Nat → W32 × Nat) : Prop :=
  ∀ s : State,
    (∀ n, s.thr.levelDest true r.d = some n → exec i s = .next (s.takeTrap true ⟨.boundWrite, 0, n⟩)) ∧
    (s.thr.levelDest true r.d = none →
      (∀ q, OperandWaits s.thr r q → exec i s = .next (waitingE s (.pop q))) ∧
      (∀ a b act t1, Operands s.thr r a b act t1 →
        let flags := (List.range 32).map fun k => if act.getLsbD k then (f s a b act k).2 else 0
        (∀ e, t1.raiseFlags flags = .error (.trap e) → exec i s = .next (s.takeTrap true e)) ∧
        (∀ t2 x, t1.raiseFlags flags = .ok t2 → (∀ k, k < 32 → Lanes.lane x k = (f s a b act k).1) →
          (∀ t3, t2.writeV r.d act x = .ok t3 → exec i s = .next (doneE s len (s.setThr t3))) ∧
          (∀ e, t2.writeV r.d act x = .error (.trap e) → exec i s = .next (s.takeTrap true e)))))

/-- The whole of a mask register written: bit k is 1 where `f` holds and lane k is active (R185, R189). -/
def WritesM (i : Instr) (r : RArgs) (f : Lanes → Lanes → Nat → Bool) : Prop :=
  ∀ s : State,
    (∀ q, OperandWaits s.thr r q → exec i s = .next (waitingE s (.pop q))) ∧
    (∀ a b act t1 m, Operands s.thr r a b act t1 → (∀ k, k < 32 → BitVec.getLsbD m k = (act.getLsbD k && f a b k)) →
      exec i s = .next (doneE s 8 (s.setThr (t1.setM r.d m))))

/-- A function of words applied to the elements of a lane, by TY: one of 32 bits, two of 16, four of 8 (R175). -/
def perElem (ty : Nat) (f : {w : Nat} → BitVec w → BitVec w → BitVec w) (x y : W32) : W32 :=
  if ty = 0 then f x y
  else if ty = 1 then f (x.extractLsb' 16 16) (y.extractLsb' 16 16) ++ f (x.extractLsb' 0 16) (y.extractLsb' 0 16)
  else (f (x.extractLsb' 24 8) (y.extractLsb' 24 8) ++ f (x.extractLsb' 16 8) (y.extractLsb' 16 8)) ++
    (f (x.extractLsb' 8 8) (y.extractLsb' 8 8) ++ f (x.extractLsb' 0 8) (y.extractLsb' 0 8))

/-- The same with three operands. -/
def perElem3 (ty : Nat) (f : {w : Nat} → BitVec w → BitVec w → BitVec w → BitVec w) (x y z : W32) : W32 :=
  if ty = 0 then f x y z
  else if ty = 1 then f (x.extractLsb' 16 16) (y.extractLsb' 16 16) (z.extractLsb' 16 16) ++
    f (x.extractLsb' 0 16) (y.extractLsb' 0 16) (z.extractLsb' 0 16)
  else (f (x.extractLsb' 24 8) (y.extractLsb' 24 8) (z.extractLsb' 24 8) ++
      f (x.extractLsb' 16 8) (y.extractLsb' 16 8) (z.extractLsb' 16 8)) ++
    (f (x.extractLsb' 8 8) (y.extractLsb' 8 8) (z.extractLsb' 8 8) ++ f (x.extractLsb' 0 8) (y.extractLsb' 0 8) (z.extractLsb' 0 8))

/-- A condition of two words on every element of a lane. -/
def everyElem (ty : Nat) (p : {w : Nat} → BitVec w → BitVec w → Bool) (x y : W32) : Bool :=
  if ty = 0 then p x y
  else if ty = 1 then p (x.extractLsb' 16 16) (y.extractLsb' 16 16) && p (x.extractLsb' 0 16) (y.extractLsb' 0 16)
  else p (x.extractLsb' 24 8) (y.extractLsb' 24 8) && p (x.extractLsb' 16 8) (y.extractLsb' 16 8) &&
    p (x.extractLsb' 8 8) (y.extractLsb' 8 8) && p (x.extractLsb' 0 8) (y.extractLsb' 0 8)

/-- The functions of VIALU by FN, in the numbering of IALU (R183). -/
def vialuAs (fn : Nat) : Nat := if fn ≤ 8 then fn else fn + 1

/-- The forms of VIALU. -/
def vialuForms (r : RArgs) : List (Nat × Instr) :=
  [(0, .vialuAdd r), (1, .vialuSub r), (2, .vialuAnd r), (3, .vialuOr r), (4, .vialuXor r), (5, .vialuAndn r), (6, .vialuShl r),
   (7, .vialuShr r), (8, .vialuSar r), (9, .vialuMin r), (10, .vialuMax r), (11, .vialuMinn r), (12, .vialuMaxn r),
   (13, .vialuAddsat r), (14, .vialuSubsat r)]

/-- Signed sums of products of the bytes or halves of two lanes (R184). -/
def dot4 (x y z : W32) : W32 :=
  z + (x.extractLsb' 0 8).signExtend 32 * (y.extractLsb' 0 8).signExtend 32 + (x.extractLsb' 8 8).signExtend 32 *
    (y.extractLsb' 8 8).signExtend 32 + (x.extractLsb' 16 8).signExtend 32 * (y.extractLsb' 16 8).signExtend 32 +
    (x.extractLsb' 24 8).signExtend 32 * (y.extractLsb' 24 8).signExtend 32
def dot2 (x y z : W32) : W32 :=
  z + (x.extractLsb' 0 16).signExtend 32 * (y.extractLsb' 0 16).signExtend 32 + (x.extractLsb' 16 16).signExtend 32 *
    (y.extractLsb' 16 16).signExtend 32

end Sys2Proof.Claims

/-- R175 to R177, R183 to R185, R190: VIALU, its immediate form, VIMUL and VICMP element by element, at each TY, in the active lanes. -/
def Obligations.VectorIntegers : Prop :=
  (∀ (r : RArgs) fn i, (fn, i) ∈ vialuForms r → r.ty ≤ 2 →
    WritesV i 8 r fun _ a b _ k => perElem r.ty (alu (vialuAs fn)) (a.lane k) (b.lane k)) ∧
  (∀ fn (x : XArgs), fn ≤ 14 → x.r.ty ≤ 2 →
    WritesV (.vialuImm fn x) 12 x.r fun _ a _ _ k => perElem x.r.ty (alu (vialuAs fn)) (a.lane k) (BitVec.ofNat 32 x.ext)) ∧
  (∀ (r : RArgs) fn i, (fn, i) ∈ [(0, Instr.vimulMul r), (1, .vimulMulhs r), (2, .vimulMulhn r), (3, .vimulMadd r)] → r.ty ≤ 2 →
    WritesV i 8 r fun s a b _ k => perElem3 r.ty (mul fn) (a.lane k) (b.lane k) ((s.thr.getV r.c).lane k)) ∧
  (∀ r : RArgs, WritesV (.vimulDot4 r) 8 r fun s a b _ k => dot4 (a.lane k) (b.lane k) ((s.thr.getV r.c).lane k)) ∧
  (∀ r : RArgs, WritesV (.vimulDot2 r) 8 r fun s a b _ k => dot2 (a.lane k) (b.lane k) ((s.thr.getV r.c).lane k)) ∧
  (∀ fn (r : RArgs), fn ≤ 5 → r.ty ≤ 2 → WritesM (.vicmp fn r) r fun a b k => everyElem r.ty (cmp fn) (a.lane k) (b.lane k)) ∧
  Illegal 0 1 2 15 ∧ Illegal 1 1 2 15 ∧ (∀ fn, 6 ≤ fn → Illegal 0 1 4 fn ∧ Illegal 0 1 5 fn)

namespace Sys2Proof.Claims

/-- A function of encodings with flags applied to the elements of a lane, by TY: one FP32, two BF16, two FP16 (R175); the union of their
flags (R114). -/
def perFloat (ty : Nat) (f : Fmt → Nat → Nat → Nat → Nat × Nat) (x y z : W32) : W32 × Nat :=
  if ty = 0 then (BitVec.ofNat 32 (f fp32 x.toNat y.toNat z.toNat).1, (f fp32 x.toNat y.toNat z.toNat).2)
  else
    let m := if ty = 1 then bf16 else fp16
    let lo := f m (x.toNat % 65536) (y.toNat % 65536) (z.toNat % 65536)
    let hi := f m (x.toNat / 65536) (y.toNat / 65536) (z.toNat / 65536)
    (BitVec.ofNat 32 (lo.1 % 65536 + 65536 * (hi.1 % 65536)), lo.2 ||| hi.2)

/-- The functions of VFALU (R186): a sign change keeps every other bit and raises no flag. -/
def vfaluOp (fn : Nat) (rm : Mode) (m : Fmt) (a b : Nat) : Nat × Nat :=
  let half := 2 ^ (m.width - 1)
  if fn = 0 then m.add rm a b else if fn = 1 then m.sub rm a b else if fn = 2 then m.mul rm a b
  else if fn = 3 then m.minMax false a b else if fn = 4 then m.minMax true a b
  else if fn = 5 then (a % half, 0) else if fn = 6 then (if a < half then a + half else a - half, 0)
  else (a % half + (if b < half then 0 else b / half * half), 0)

/-- The forms of VFALU, VFMA and VFUNC. -/
def vfaluForms (r : RArgs) : List (Nat × Instr) :=
  [(0, .vfaluAdd r), (1, .vfaluSub r), (2, .vfaluMul r), (3, .vfaluMin r), (4, .vfaluMax r), (5, .vfaluAbs r), (6, .vfaluNeg r),
   (7, .vfaluCpsgn r)]
def vfmaForms (r : RArgs) : List (Nat × Instr) := [(0, .vfmaFma r), (1, .vfmaFms r), (2, .vfmaFnma r), (3, .vfmaFnms r)]
def vfuncForms (r : RArgs) : List (Nat × Instr) :=
  [(0, .vfuncDiv r), (1, .vfuncSqrt r), (2, .vfuncRcp r), (3, .vfuncRsqrt r), (4, .vfuncExp2 r), (5, .vfuncLog2 r)]

/-- The signs of the product and of c in VFMA (R187). -/
def vfmaOp (fn : Nat) (rm : Mode) (m : Fmt) (a b c : Nat) : Nat × Nat :=
  m.fma rm (decide (fn = 2) || decide (fn = 3)) (decide (fn = 1) || decide (fn = 3)) a b c

/-- The functions of VFUNC (R188). -/
def vfuncOp (fn : Nat) (rm : Mode) (m : Fmt) (a b : Nat) : Nat × Nat :=
  if fn = 0 then m.div rm a b else if fn = 1 then m.sqrt rm a else if fn = 2 then m.rcp a else if fn = 3 then m.rsqrt a
  else if fn = 4 then m.exp2 a else m.log2 a

/-- EXT32 as FP32, rounded RNE to the element format and placed in every element (R190). -/
def immFloat (ty ext : Nat) : W32 :=
  if ty = 0 then BitVec.ofNat 32 (fp32.round .rne (fp32.decode ext)).1
  else
    let x := ((if ty = 1 then bf16 else fp16).round .rne (fp32.decode ext)).1
    BitVec.ofNat 32 (x % 65536 + 65536 * (x % 65536))

/-- The format and the width of the sources and destinations of VCVT (R191). -/
def cvtFrom (fn : Nat) : CvtFmt × Nat :=
  if fn = 0 then (.float fp32, 32) else if fn = 1 then (.float bf16, 16) else if fn = 2 then (.float fp16, 16)
  else if fn = 3 then (.float e4m3, 8) else if fn = 4 then (.float e5m2, 8) else if fn = 5 then (.int 32 true, 32)
  else if fn = 6 then (.int 32 false, 32) else if fn = 7 then (.int 16 true, 16) else (.int 8 true, 8)
def cvtInto (ty : Nat) : CvtFmt × Nat :=
  if ty = 0 then (.float fp32, 32) else if ty = 1 then (.float bf16, 16) else if ty = 2 then (.float fp16, 16)
  else if ty = 3 then (.float e4m3, 8) else if ty = 4 then (.float e5m2, 8) else if ty = 5 then (.int 32 true, 32)
  else if ty = 6 then (.int 16 true, 16) else (.int 8 true, 8)

/-- The rounding mode of VCVT: with a random word a dynamic STOCH stays STOCH (R112, R191). -/
def modeRandom (t : Thread) (rm : Nat) (four : Bool) : Mode :=
  if (if rm = 15 then t.rmode.toNat % 8 else rm) = 5 ∧ four = false then .stoch else modeOf t rm

/-- Element k of width w of a word. -/
def piece (w k x : Nat) : Nat := x / 2 ^ (w * k) % 2 ^ w

/-- One lane of VCVT (R192): the element at each place of the destination, and the union of the conversions' flags. -/
def cvtLane (fn ty pos : Nat) (rm : Mode) (sat : Bool) (a old words : W32) : W32 × Nat :=
  let src := cvtFrom fn
  let dst := cvtInto ty
  let ns := 32 / src.2
  let nd := 32 / dst.2
  let conv := fun j => convert src.1 dst.1 rm sat (piece src.2 (if ns ≤ nd then j else pos * nd + j) a.toNat) (piece 16 j words.toNat)
  (BitVec.ofNat 32 ((List.range nd).map fun e =>
      (if ns ≤ nd then (if pos * ns ≤ e ∧ e < pos * ns + ns then (conv (e - pos * ns)).1 % 2 ^ dst.2 else piece dst.2 e old.toNat)
        else (conv e).1 % 2 ^ dst.2) * 2 ^ (dst.2 * e)).sum,
    unionFlags ((List.range (min ns nd)).map fun j => (conv j).2))

/-- VFCMP on a lane: the relation on every element, and the union of the flags (R189). -/
def relLane (fn ty : Nat) (x y : W32) : Bool × Nat :=
  if ty = 0 then fp32.compare fn x.toNat y.toNat
  else
    let m := if ty = 1 then bf16 else fp16
    let lo := m.compare fn (x.toNat % 65536) (y.toNat % 65536)
    let hi := m.compare fn (x.toNat / 65536) (y.toNat / 65536)
    (lo.1 && hi.1, lo.2 ||| hi.2)

/-- The causes of the flags in the order in which R115 takes the first enabled one. -/
def flagCauses : List (Cause × Nat) := [(.fpInvalid, 4), (.fpDivzero, 3), (.fpOverflow, 2), (.fpUnderflow, 1), (.fpInexact, 0)]

end Sys2Proof.Claims

/-- R113 to R115: without an enabled flag among those raised, they are joined into ctl.fpflags; else the trap of the first enabled one, with
every raised flag and the lanes that raised it in ctl.fdetail. -/
def Sys2Proof.Claims.FloatFlags : Prop :=
  ∀ (t : Thread) (fs : List Nat), (∀ f ∈ fs, f < 32) → fs.length ≤ 32 →
    let all := unionFlags fs
    (∀ b, all.testBit b = true ↔ ∃ f ∈ fs, f.testBit b = true) ∧
    ((∀ b, b < 5 → all.testBit b = true → t.fpen.getLsbD b = false) →
      t.raiseFlags fs = .ok { t with fpflags := t.fpflags ||| BitVec.ofNat 64 all }) ∧
    (∀ before c b after, flagCauses = before ++ (c, b) :: after → all.testBit b = true → t.fpen.getLsbD b = true →
      (∀ x ∈ before, all.testBit x.2 = false ∨ t.fpen.getLsbD x.2 = false) →
      ∃ d, t.raiseFlags fs = .error (.trap ⟨c, 0, d⟩) ∧ d % 2 ^ 32 = all ∧
        ∀ k, k < 32 → (d.testBit (32 + k) = true ↔ ∃ f, fs[k]? = some f ∧ f.testBit b = true))

/-- R186 to R192: the floating-point majors element by element, with the flags of their active lanes; VCVT places its converted elements by
POS and keeps the others. What the arithmetic of one element gives, `FloatValues`, `FloatArithmetic`, `FloatOrder` and `FloatConversions` say. -/
def Sys2Proof.Claims.VectorFloats : Prop :=
  (∀ (r : RArgs) fn i, (fn, i) ∈ vfaluForms r → r.ty ≤ 2 →
    WritesF i 8 r fun s a b _ k => perFloat r.ty (fun m x y _ => vfaluOp fn (modeOf s.thr r.rm) m x y) (a.lane k) (b.lane k) 0) ∧
  (∀ fn (x : XArgs), fn ≤ 7 → x.r.ty ≤ 2 →
    WritesF (.vfaluImm fn x) 12 x.r fun s a _ _ k =>
      perFloat x.r.ty (fun m y z _ => vfaluOp fn (modeOf s.thr x.r.rm) m y z) (a.lane k) (immFloat x.r.ty x.ext) 0) ∧
  (∀ (r : RArgs) fn i, (fn, i) ∈ vfmaForms r → r.ty ≤ 2 →
    WritesF i 8 r fun s a b _ k =>
      perFloat r.ty (vfmaOp fn (modeOf s.thr r.rm)) (a.lane k) (b.lane k) ((s.thr.getV r.c).lane k)) ∧
  (∀ fn (x : XArgs), fn ≤ 3 → x.r.ty ≤ 2 →
    WritesF (.vfmaImm fn x) 12 x.r fun s a b _ k =>
      perFloat x.r.ty (vfmaOp fn (modeOf s.thr x.r.rm)) (a.lane k) (b.lane k) (immFloat x.r.ty x.ext)) ∧
  (∀ (r : RArgs) fn i, (fn, i) ∈ vfuncForms r → r.ty ≤ 2 →
    WritesF i 8 r fun s a b _ k => perFloat r.ty (fun m x y _ => vfuncOp fn (modeOf s.thr r.rm) m x y) (a.lane k) (b.lane k) 0) ∧
  (∀ fn (r : RArgs), fn ≤ 8 → r.ty ≤ 7 →
    WritesF (.vcvt fn r) 8 r fun s a _ _ k =>
      cvtLane fn r.ty (r.x16 / 8 % 4) (modeRandom s.thr r.rm (decide (min (32 / (cvtFrom fn).2) (32 / (cvtInto r.ty).2) = 4)))
        (r.x16.testBit 5) (a.lane k) ((s.thr.getV r.d).lane k) ((s.thr.getV r.c).lane k)) ∧
  (∀ fn (r : RArgs) (s : State), fn ≤ 4 → r.ty ≤ 2 →
    (∀ q, OperandWaits s.thr r q → exec (.vfcmp fn r) s = .next (waitingE s (.pop q))) ∧
    (∀ a b act t1, Operands s.thr r a b act t1 →
      let flags := (List.range 32).map fun k => if act.getLsbD k then (relLane fn r.ty (a.lane k) (b.lane k)).2 else 0
      (∀ e, t1.raiseFlags flags = .error (.trap e) → exec (.vfcmp fn r) s = .next (s.takeTrap true e)) ∧
      (∀ t2 m, t1.raiseFlags flags = .ok t2 →
        (∀ k, k < 32 → BitVec.getLsbD m k = (act.getLsbD k && (relLane fn r.ty (a.lane k) (b.lane k)).1)) →
        exec (.vfcmp fn r) s = .next (doneE s 8 (s.setThr (t2.setM r.d m)))))) ∧
  (∀ fn, (8 ≤ fn → Illegal 0 1 6 fn ∧ Illegal 1 1 6 fn) ∧ (4 ≤ fn → Illegal 0 1 7 fn ∧ Illegal 1 1 7 fn) ∧ (6 ≤ fn → Illegal 0 1 8 fn) ∧
    (5 ≤ fn → Illegal 0 1 9 fn) ∧ (9 ≤ fn → Illegal 0 1 10 fn))

/-- The floating-point vector instructions, the arithmetic of their elements and their flags: `FloatValues`, `FloatArithmetic`, `FloatOrder`,
`FloatConversions`, `FloatFlags`, `VectorFloats`. Where the spec is silent it states the choices of the model: log 11. -/
def Obligations.VectorFloats : Prop :=
  Sys2Proof.Claims.FloatValues ∧ Sys2Proof.Claims.FloatArithmetic ∧ Sys2Proof.Claims.FloatOrder ∧ Sys2Proof.Claims.FloatConversions ∧
    Sys2Proof.Claims.FloatFlags ∧ Sys2Proof.Claims.VectorFloats

namespace Sys2Proof.Claims

/-- An E-stream instruction that writes all 32 lanes of a register with `f` (MPOPC, PLANE, VRED). -/
def WritesAll (i : Instr) (d : Nat) (f : State → Nat → W32) : Prop :=
  ∀ s : State,
    (∀ n, s.thr.levelDest true d = some n → exec i s = .next (s.takeTrap true ⟨.boundWrite, 0, n⟩)) ∧
    (s.thr.levelDest true d = none → ∀ x, (∀ k, k < 32 → Lanes.lane x k = f s k) →
      (∀ t, s.thr.writeV d (BitVec.allOnes 32) x = .ok t → exec i s = .next (doneE s 8 (s.setThr t))) ∧
      (∀ e, s.thr.writeV d (BitVec.allOnes 32) x = .error (.trap e) → exec i s = .next (s.takeTrap true e)))

/-- A mask instruction: the destination mask is a function of the state, and nothing else changes (R196). -/
def MasksTo (i : Instr) (d : Nat) (f : State → W32) : Prop := ∀ s : State, exec i s = .next (doneE s 8 (s.setThr (s.thr.setM d (f s))))

/-- The number of 1 bits of a mask below bit k. -/
def onesBelow (x : W32) (k : Nat) : Nat := ((List.range k).filter fun i => x.getLsbD i).length

/-- The forms of the integer reductions, with their operation and identity (R198). -/
def redForms (r : RArgs) : List (Instr × (W32 → W32 → W32) × W32) :=
  [(.vredIadd r, fun x y => x + y, 0), (.vredImin r, fun x y => if x.slt y then x else y, 0x7FFFFFFF),
   (.vredImax r, fun x y => if y.slt x then x else y, 0x80000000), (.vredIand r, fun x y => x &&& y, 0xFFFFFFFF),
   (.vredIor r, fun x y => x ||| y, 0)]

/-- The lanes of the permutations (R197). -/
def shufTo (a b : Lanes) (k : Nat) : W32 := a.lane ((b.lane k).toNat % 32)
def upTo (n : Nat) (a b : Lanes) (k : Nat) : W32 := if n ≤ k then a.lane (k - n) else b.lane (32 - n + k)
def downTo (n : Nat) (a b : Lanes) (k : Nat) : W32 := if k + n < 32 then a.lane (k + n) else b.lane (k + n - 32)
def zipTo (h : Nat) (a b : Lanes) (k : Nat) : W32 := if k % 2 = 0 then a.lane (h + k / 2) else b.lane (h + k / 2)

/-- One step of the FADD tree on values and flags (R198). -/
def addLevel (n : Nat) (x : List Nat) : List (Nat × Nat) := (List.range n).map fun i => fp32.add .rne (x[i]?.getD 0) (x[i + n]?.getD 0)
def addTree (x : List Nat) : Nat :=
  [16, 8, 4, 2, 1].foldl (fun acc n => (addLevel n acc).map Prod.fst) x |>.headD 0

/-- The values and flags of the FADD tree: the flags of signalling lanes at their places, and of each step at its position. -/
def redLevels (t : Thread) (r : RArgs) : List Nat × List Nat :=
  [16, 8, 4, 2, 1].foldl (fun acc n => redLevel n acc) (redInputs (2 ^ 31) r t)

/-- What a floating-point reduction takes from a lane: its identity where it is inactive, a NaN quieted. -/
def redLane (t : Thread) (r : RArgs) (e k : Nat) : Nat :=
  let x := if (t.getM r.msk).getLsbD k then ((t.getV r.a).lane k).toNat else e
  if (fp32.decode x).isNan then fp32.nan else x

end Sys2Proof.Claims

/-- R117 to R123, R193 to R199: mask logic, permutations, reductions, moves, queue pushes and pops of the E-stream, plane words and MX blocks,
whose encoding `MxBlocks` states. Where the spec is silent it states the choices of the model: log 58. -/
def Obligations.VectorMoves : Prop :=
  Sys2Proof.Claims.MxBlocks ∧
  (∀ r : RArgs, MasksTo (.vmaskMand r) r.d (fun s => s.thr.getM r.a &&& s.thr.getM r.b) ∧
    MasksTo (.vmaskMor r) r.d (fun s => s.thr.getM r.a ||| s.thr.getM r.b) ∧
    MasksTo (.vmaskMxor r) r.d (fun s => s.thr.getM r.a ^^^ s.thr.getM r.b) ∧
    MasksTo (.vmaskMandn r) r.d (fun s => s.thr.getM r.a &&& ~~~s.thr.getM r.b) ∧
    MasksTo (.vmaskMnot r) r.d (fun s => ~~~s.thr.getM r.a) ∧
    WritesAll (.vmaskMpopc r) r.d (fun s _ => BitVec.ofNat 32 (onesBelow (s.thr.getM r.a) 32))) ∧
  (∀ (r : RArgs) (s : State) m, (∀ k, k < 32 → BitVec.getLsbD m k =
      ((s.thr.getM r.a).getLsbD k && decide (onesBelow (s.thr.getM r.a) k = 0))) →
    exec (.vmaskMfirst r) s = .next (doneE s 8 (s.setThr (s.thr.setM r.d m)))) ∧
  (∀ (r : RArgs) (s : State),
    (r.x16.testBit 2 = true → NoEntry s.thr r.a → exec (.vmaskMset r) s = .next (waitingE s (.pop r.a))) ∧
    (∀ m, r.x16.testBit 2 = false → (∀ k, k < 32 → BitVec.getLsbD m k = decide ((s.thr.getV r.a).lane k ≠ 0)) →
      exec (.vmaskMset r) s = .next (doneE s 8 (s.setThr (s.thr.setM r.d m)))) ∧
    (∀ m e rest, r.x16.testBit 2 = true → s.thr.getQ r.a = e :: rest → e.ready = true →
      (∀ k, k < 32 → BitVec.getLsbD m k = (e.mask.getLsbD k && decide (e.lanes.lane k ≠ 0))) →
      exec (.vmaskMset r) s = .next (doneE s 8 (s.setThr ((s.thr.setQ r.a rest).setM r.d m))))) ∧
  (∀ r : RArgs, WritesV (.vpermShuf r) 8 r (fun _ a b _ k => shufTo a b k) ∧
    WritesV (.vpermSlideup r) 8 r (fun _ a b _ k => upTo (r.x16 / 16 % 32) a b k) ∧
    WritesV (.vpermSlidedn r) 8 r (fun _ a b _ k => downTo (r.x16 / 16 % 32) a b k) ∧
    WritesV (.vpermBcast r) 8 r (fun _ a _ _ _ => a.lane (r.x16 / 16 % 32)) ∧
    WritesV (.vpermRev r) 8 r (fun _ a _ _ k => a.lane (31 - k)) ∧
    WritesV (.vpermZiplo r) 8 r (fun _ a b _ k => zipTo 0 a b k) ∧
    WritesV (.vpermZiphi r) 8 r (fun _ a b _ k => zipTo 16 a b k) ∧
    WritesV (.vpermIota r) 8 r (fun _ _ _ act k => BitVec.ofNat 32 (onesBelow act k)) ∧
    WritesV (.vmovMov r) 8 r (fun _ a _ _ k => a.lane k)) ∧
  (∀ (r : RArgs) i f e, (i, f, e) ∈ redForms r →
    WritesAll i r.d fun s k => if k = 0 then (lanesOf (s.thr.getM r.msk)).foldl (fun acc j => f acc ((s.thr.getV r.a).lane j)) e else 0) ∧
  (∀ (r : RArgs) (s : State) i out flags, s.thr.levelDest true r.d = none →
    (i = .vredFadd r ∧ out = addTree ((List.range 32).map (redLane s.thr r (2 ^ 31))) ∧ flags = (redLevels s.thr r).2) ∨
    ((i = .vredFmax r ∨ i = .vredFmin r) ∧
      out = ((List.range 32).map (redLane s.thr r fp32.nan)).foldl (fun acc y => (fp32.minMax (decide (i = .vredFmax r)) acc y).1) fp32.nan ∧
      flags = (redInputs fp32.nan r s.thr).2) →
    (∀ e, s.thr.raiseFlags flags = .error (.trap e) → exec i s = .next (s.takeTrap true e)) ∧
    (∀ t t2 x, s.thr.raiseFlags flags = .ok t → (∀ k, k < 32 → Lanes.lane x k = if k = 0 then BitVec.ofNat 32 out else 0) →
      t.writeV r.d (BitVec.allOnes 32) x = .ok t2 → exec i s = .next (doneE s 8 (s.setThr t2)))) ∧
  (∀ (r : RArgs) (s : State) a b act t1 t2 x, s.thr.levelDest true r.d = none → Operands s.thr r a b act t1 →
    (∀ k, k < 32 → Lanes.lane x k = if (s.thr.getM r.msk).getLsbD k then a.lane k else b.lane k) →
    t1.writeV r.d (BitVec.allOnes 32) x = .ok t2 → exec (.vmovSel r) s = .next (doneE s 8 (s.setThr t2))) ∧
  (∀ (r : RArgs) (s : State),
    (16 ≤ (s.thr.getQ r.d).length → exec (.vmovQpush r) s = .next (waitingE s (.push r.d))) ∧
    (∀ x, (s.thr.getQ r.d).length < 16 →
      (∀ k, k < 32 → Lanes.lane x k = if (s.thr.getM r.msk).getLsbD k then (s.thr.getV r.a).lane k else 0) →
      exec (.vmovQpush r) s = .next (doneE s 8 (withQ s r.d (s.thr.getQ r.d ++ [⟨x, s.thr.getM r.msk, true⟩])))) ∧
    (∀ n, s.thr.levelDest true r.d = some n → exec (.vmovQpop r) s = .next (s.takeTrap true ⟨.boundWrite, 0, n⟩)) ∧
    (s.thr.levelDest true r.d = none →
      (NoEntry s.thr r.a → exec (.vmovQpop r) s = .next (waitingE s (.pop r.a))) ∧
      (∀ e rest t, s.thr.getQ r.a = e :: rest → e.ready = true →
        (s.thr.setQ r.a rest).writeV r.d (s.thr.getM r.msk) e.lanes = .ok t →
        exec (.vmovQpop r) s = .next (doneE s 8 (s.setThr (if r.c = 0 then t else t.setM r.c e.mask)))))) ∧
  (∀ r : RArgs, WritesAll (.vmxPlane r) r.d fun s j => if j < r.x16 / 16 % 32 then
      BitVec.ofFnLE fun i : Fin 32 => (s.thr.getM r.msk).getLsbD i.val && ((s.thr.getV r.a).lane i.val).getLsbD j else 0) ∧
  (∀ r : RArgs, r.x16 % 16 = 0 → 1 ≤ r.x16 / 16 % 32 → r.x16 / 16 % 32 ≤ 16 →
    WritesV (.vmxUnplane r) 8 r (fun s _ _ _ i => BitVec.ofInt 32 (elemInt (r.x16 / 16 % 32)
      ((List.range 32).map fun j => ((s.thr.getV r.a).lane j).toNat) i)) ∧
    WritesF (.vmxMxdq r) 8 r (fun s a _ _ i =>
      let x := fp32.round .rne ((MxElem.int (r.x16 / 16 % 32)).decode (((s.thr.getV (r.a + 1)).lane 0).toNat % 256)
        ((a.lane i).toNat % 2 ^ (r.x16 / 16 % 32)))
      (BitVec.ofNat 32 x.1, x.2))) ∧
  (∀ (r : RArgs) (s : State),
    let p := r.x16 / 16 % 32
    let xs := (List.range 32).map fun i => if (s.thr.getM r.msk).getLsbD i then fp32.decode ((s.thr.getV r.a).lane i).toNat
      else FVal.fin false 0 0
    let ws := (List.range 32).map fun i => ((s.thr.getV r.c).lane i).toNat % 65536
    let rm := modeRandom s.thr r.rm false
    let code := (MxElem.int p).encode rm xs ws
    (∀ n, s.thr.levelDest true r.d = some n → exec (.vmxMxq r) s = .next (s.takeTrap true ⟨.boundWrite, 0, n⟩)) ∧
    (s.thr.levelDest true r.d = none → s.thr.levelDest true (r.d + 1) = none →
      (∀ e, s.thr.raiseFlags (mxLaneFlags (.int p) rm xs ws) = .error (.trap e) → exec (.vmxMxq r) s = .next (s.takeTrap true e)) ∧
      (∀ t t2 x y, s.thr.raiseFlags (mxLaneFlags (.int p) rm xs ws) = .ok t →
        (∀ i, i < 32 → Lanes.lane x i = (BitVec.ofNat p (code.2.1[i]?.getD 0)).signExtend 32) →
        (∀ i, i < 32 → Lanes.lane y i = BitVec.ofNat 32 code.1) →
        ((t.setV r.d x).setV (r.d + 1) y).settleE [(r.d, BitVec.allOnes 32), (r.d + 1, BitVec.allOnes 32)] = .ok t2 →
        exec (.vmxMxq r) s = .next (doneE s 8 (s.setThr t2))))) ∧
  (∀ fn, (4 ≤ fn → Illegal 0 1 11 fn ∧ Illegal 0 1 15 fn) ∧ (8 ≤ fn → Illegal 0 1 12 fn ∧ Illegal 0 1 13 fn ∧ Illegal 0 1 14 fn))

/-! ## NOP, hints, PPT and the retired majors -/

namespace Sys2Proof.Claims

/-- The A-stream issues that a boost still has left (R62). -/
def boostLeft (t : Thread) : Nat := t.hprio - 1

/-- A station that HGATHER of a code pointer finds: keyed by it, with a record. -/
def Gathers (code : Nat) (x : Station) : Prop := x.code = code ∧ x.recs ≠ []

end Sys2Proof.Claims

/-- R58, R61, R62: NOP, ENOP and a hint that the machine lacks only move their stream past themselves; HPREF also; HPRIO makes the next n
A-stream issues boosted ones, each further A-stream instruction uses one, and the end of a used boost changes nothing else; HGATHER makes
a station of its code count as expired. -/
def Obligations.NopsAndHints : Prop :=
  (∀ s : State, exec .nop s = .next (doneA s 8 s) ∧ exec .enop s = .next (doneE s 8 s)) ∧
  (∀ (h : HArgs) (s : State), exec (.hintNop h) s = .next (if h.st = 1 then doneE s (lengthOf h.len) s else doneA s (lengthOf h.len) s)) ∧
  (∀ fn (m : MArgs) (s : State), exec (.hpref fn m) s = .next (doneA s 8 s)) ∧
  (∀ fn (i : IArgs) (s : State), ∃ s1 : State, exec (.hprio fn i) s = .next s1 ∧ s1 = doneA s 8 (s.setThr { s.thr with hprio := i.imm % 256 + 2 }) ∧
    (s.thr.singleStep = false → boostLeft s1.thr = i.imm % 256)) ∧
  (∀ (s : State) n, s.thr.singleStep = false → boostLeft (doneA s n s).thr = boostLeft s.thr - 1) ∧
  (∀ s : State, (s.focus s.req.t).thr.hprio = 1 →
    exec .hprioBoostEnd s = .next ((s.focus s.req.t).setThr { (s.focus s.req.t).thr with hprio := 0 })) ∧
  (∀ fn (r : RArgs) (s : State),
    ((∀ x ∈ s.vc.stations, ¬Gathers (s.thr.getS r.a).toNat x) → exec (.hgather fn r) s = .next (doneA s 8 s)) ∧
    (∀ before x after, s.vc.stations = before ++ x :: after → Gathers (s.thr.getS r.a).toNat x →
      (∀ y ∈ before, ¬Gathers (s.thr.getS r.a).toNat y) →
      exec (.hgather fn r) s = .next (doneA s 8 { s with vc := { s.vc with stations := before ++ { x with expired := true } :: after } }))) ∧
  (∀ fn, 1 ≤ fn → Illegal 0 0 1 fn ∧ Illegal 0 1 1 fn) ∧
  (∀ w0 w1 e, w0 < 2 ^ 32 → w1 < 2 ^ 32 → lenOf w0 = 0 → opOf w0 = 1 → fnOf w0 = 0 → ¬((w0 = 8 ∨ w0 = 12) ∧ w1 = 0) →
    decode w0 w1 e = .error ⟨.reservedField, 0⟩)

namespace Sys2Proof.Claims

/-- The ranges of dead pages of a liveness record: first page and number (R383). -/
def deadRange (bs : List Byte) (i : Nat) : Nat × Nat := (fld bs (32 + 8 * i) 4, fld bs (36 + 8 * i) 4)
def DeadPage (bs : List Byte) (p : Nat) : Prop := ∃ i, i < 4 ∧ (deadRange bs i).1 ≤ p ∧ p < (deadRange bs i).1 + (deadRange bs i).2

/-- RECORD_INVALID of R384 step 1. -/
def LivenessBad (bs : List Byte) : Prop :=
  fld bs 21 3 ≠ 0 ∨ fld bs 28 4 ≠ 0 ∨ 256 < fld bs 24 2 + fld bs 26 2 ∨
    ∃ i, i < 4 ∧ (deadRange bs i).2 ≠ 0 ∧ 960 < (deadRange bs i).1 + (deadRange bs i).2

/-- The thread with what the record does not name taken away: link slots unbound, s- and v-registers zero. -/
def onlyLive (bs : List Byte) (t : Thread) : Thread :=
  { t with
    l := Vector.ofFn fun i : Fin 32 => if (fld bs 16 4).testBit i.val then t.getL i.val else none
    s := Vector.ofFn fun i : Fin 64 => if (fld bs 0 8).testBit i.val then t.getS i.val else 0
    v := Vector.ofFn fun i : Fin 64 => if (fld bs 8 8).testBit i.val then t.getV i.val else Lanes.zero }

/-- The level links of a thread evaluated again, those of the A-stream before those of the E-stream (R166): the order of the two kinds is the
model's choice (log 56). -/
def Reevaluates (t : Thread) (r : Res Thread) : Prop :=
  r = (reevalA (topoOrder 32 (t.links false)) t).bind fun t1 => reevalE (topoOrder 32 (t1.links true)) t1

/-- A thread that has come to a PPT while a pre-emption is pending stops there, but for one in handler mode (R378, R384, R385). -/
def stopsHere (s : State) : State :=
  if s.ctx.preempt ≠ .none ∧ s.thr.handler = false ∧ s.thr.status = .running then { s with thr := { s.thr with status := .stopped } } else s

end Sys2Proof.Claims

/-- R166, R384: PPT reads its liveness record, quiesces for the tokens that it names, and takes away what it does not name: links, s- and
v-registers, accumulator rows but for E and PAIR, both weight banks; its dead pages read as zero and every other byte of memory as
before. A LINK_OVERFLOW of the links evaluated again leaves none of this. With pre-emption pending the thread stops after it. Where the spec
is silent it states the choices of the model: log 12, log 56. -/
def Obligations.PptLiveness : Prop :=
  ∀ (i : IArgs) (s : State),
    (∀ e, s.poolRead i.imm 64 = .error (.trap e) → exec (.ppt i) s = .next (s.trapA e)) ∧
    (∀ bs, s.poolRead i.imm 64 = .ok bs →
      (LivenessBad bs → exec (.ppt i) s = .next (s.trapA ⟨.recordInvalid, 0, i.imm⟩)) ∧
      (¬LivenessBad bs →
        (∀ w, s.quiesce (fld bs 20 1) = .error (.wait w) → Fresh s → exec (.ppt i) s = .next (waiting s w)) ∧
        (∀ s1 r, s.quiesce (fld bs 20 1) = .ok s1 → Reevaluates (onlyLive bs s1.thr) r →
          (∀ e, r = .error (.trap e) → exec (.ppt i) s = .next (s.trapA e)) ∧
          (∀ t, r = .ok t → ∃ s2 : State, exec (.ppt i) s = .next (stopsHere (s2.retireTo (s.after 8))) ∧
            s2.thr = { t with liveRows := (fld bs 24 2, fld bs 26 2) } ∧
            s2.vc.bank0 = none ∧ s2.vc.bank1 = none ∧
            s2.vc.acc = (s1.vc.mapRows 0 256 fun n x => if fld bs 24 2 ≤ n ∧ n < fld bs 24 2 + fld bs 26 2 then x else wiped x).acc ∧
            (∀ p, p ∈ s2.vc.dead ↔ p ∈ s1.vc.dead ∨ DeadPage bs p) ∧
            (∀ p, DeadPage bs p → ∀ k, k < 4096 → s2.mem.read (s1.vc.phys * 0x400000 + 4096 * p + k) = 0) ∧
            (∀ a, (∀ p k, DeadPage bs p → k < 4096 → a ≠ s1.vc.phys * 0x400000 + 4096 * p + k) → s2.mem.read a = s1.mem.read a) ∧
            { s2 with thr := s1.thr, mem := s1.mem, vc := s1.vc, cores := s1.cores } = s1 ∧ s2.cores = (s1.sawRecord i.imm 64).cores ∧
            { s2.vc with acc := s1.vc.acc, bank0 := s1.vc.bank0, bank1 := s1.vc.bank1, dead := s1.vc.dead } = s1.vc))))

namespace Sys2Proof.Claims

/-- What the emulation of a retired major refuses before anything else (R59, R97): an FN, or a field that its form does not use. -/
def RetiredRefuses (i : Instr) (fn : Nat) (bad : Prop) (trap : State → TrapInfo → State) (pre : State → Prop) : Prop :=
  ∀ s : State, pre s → (fn ≠ 0 → exec i s = .next (trap s ⟨.illegalOpcode, 0, 0⟩)) ∧ (fn = 0 → bad → exec i s = .next (trap s ⟨.reservedField, 0, 0⟩))

/-- Every older E-stream instruction has completed: what RETIRED_OP of an A-stream major waits for (R376). -/
def NoneOlderE (s : State) : Prop := s.thr.ePath = []

/-- The fields of format R that the retired E-stream majors do not use. -/
def emuBad (r : RArgs) : Prop := r.b ≠ 0 ∨ r.c ≠ 0 ∨ r.ty ≠ 0 ∨ r.rm ≠ 0 ∨ r.x16 ≠ 0

/-- The active lanes of an emulated vector major: those of mK and of m0. -/
def bothMasks (r : RArgs) (t : Thread) : W32 := t.getM r.msk &&& t.getM 0

/-- A signed value limited to 32 bits. -/
def clamp32 (x : Int) : W32 := BitVec.ofInt 32 (max (-2147483648) (min 2147483647 x))

/-- The signed sum of products of the bytes of two lanes, not wrapped. -/
def exactDot4 (a b : W32) : Int :=
  (a.extractLsb' 0 8).toInt * (b.extractLsb' 0 8).toInt + (a.extractLsb' 8 8).toInt * (b.extractLsb' 8 8).toInt +
    (a.extractLsb' 16 8).toInt * (b.extractLsb' 16 8).toInt + (a.extractLsb' 24 8).toInt * (b.extractLsb' 24 8).toInt

/-- The signed sum of products of the eight bytes of two registers. -/
def dot8 (a b : W64) : W64 :=
  ((List.range 8).map fun i => ((a >>> (8 * i)).setWidth 8).signExtend 64 * ((b >>> (8 * i)).setWidth 8).signExtend 64).foldl (· + ·) 0

/-- The accesses of a vector load or store of the near addresses in lanes of vA. -/
def nearLane (r : RArgs) (s : State) (i : Nat) : Nat := ((s.thr.getV r.a).lane i).toNat

end Sys2Proof.Claims

/-- R59, R97, R98: the retired majors have their Z3 effects, whole or not at all: LDP loads two words with one settle of both writes, MMA8
and VDOTQ their sums, BINDX the link bind.mad of the slot in X16, VLDE and VSTE move active lanes at near addresses after every active
lane has passed its checks; a nonzero FN is ILLEGAL_OPCODE, and a field that the form does not use RESERVED_FIELD. Those of the A-stream
wait until every older E-stream instruction has completed (R376). Where the spec is silent it states the choices of the model: log 12, log
27. -/
def Obligations.RetiredMajors : Prop :=
  (∀ fn (m : MArgs), RetiredRefuses (.ldp fn m) fn (m.sz ≠ 0 ∨ m.ord ≠ 0 ∨ m.scope ≠ 0 ∨ m.q ≠ 0 ∨ m.d = 63) State.trapA
    NoneOlderE) ∧
  (∀ fn (m : MArgs) (r : RArgs) (s : State) i, i ∈ [Instr.ldp fn m, .mma8 fn r, .bindx fn r] → s.thr.ePath ≠ [] → Fresh s →
    exec i s = .next (waiting s .other)) ∧
  (∀ (m : MArgs) (s : State), NoneOlderE s → m.sz = 0 → m.ord = 0 → m.scope = 0 → m.q = 0 → m.d ≠ 63 → s.thr.checkDest m.d = .ok () →
    s.thr.checkDest (m.d + 1) = .ok () →
    let va := (ea m s).toNat
    let as := [{ readAcc va 8 with align := 16 }, readAcc (va + 8) 8]
    (∀ e, s.checkAll s.agent as = .error (.trap e) → exec (.ldp 0 m) s = .next (s.trapA e)) ∧
    (∀ ts x y t, s.checkAll s.agent as = .ok ts → s.readAll s.agent as ts = .ok [x, y] →
      ((s.thr.setS m.d (BitVec.ofNat 64 x)).setS (m.d + 1) (BitVec.ofNat 64 y)).settleA (if m.d = 0 then [1] else [m.d, m.d + 1]) = .ok t →
      exec (.ldp 0 m) s = .next (doneA s 8 ((s.traffic false ts).setThr t)))) ∧
  (∀ fn (r : RArgs), RetiredRefuses (.mma8 fn r) fn (r.msk ≠ 0 ∨ r.ty ≠ 0 ∨ r.rm ≠ 0 ∨ r.x16 ≠ 0) State.trapA NoneOlderE) ∧
  (∀ (r : RArgs) (s : State), NoneOlderE s → r.msk = 0 → r.ty = 0 → r.rm = 0 → r.x16 = 0 →
    WritesAt (.mma8 0 r) 8 r.d (s.thr.getS r.c + dot8 (s.thr.getS r.a) (s.thr.getS r.b)) s) ∧
  (∀ fn (r : RArgs), RetiredRefuses (.bindx fn r) fn (r.msk ≠ 0 ∨ r.ty ≠ 0 ∨ r.rm ≠ 0 ∨ 32 ≤ r.x16) State.trapA NoneOlderE) ∧
  (∀ (r : RArgs) (s : State), NoneOlderE s → r.msk = 0 → r.ty = 0 → r.rm = 0 → r.x16 < 32 → BindsAt (.bindx 0 r) 8 r.x16
    { ek := false, edge := false, imm := false, ck := false, op := 2, d := r.d, a := r.a, c := r.c, sh := 0, opb := r.b } s) ∧
  (∀ fn (r : RArgs), RetiredRefuses (.vlde fn r) fn (emuBad r) (fun s e => s.takeTrap true e) (fun _ => True) ∧
    RetiredRefuses (.vste fn r) fn (emuBad r) (fun s e => s.takeTrap true e) (fun _ => True) ∧
    RetiredRefuses (.vdotq fn r) fn (r.c ≠ 0 ∨ r.ty ≠ 0 ∨ r.rm ≠ 0 ∨ r.x16 ≠ 0) (fun s e => s.takeTrap true e) (fun _ => True)) ∧
  (∀ (r : RArgs) (s : State), ¬emuBad r → s.thr.levelDest true r.d = none →
    let lanes := lanesOf (bothMasks r s.thr)
    let as := lanes.map fun i => readAcc (nearLane r s i) 4 (.lane i)
    (∀ e, s.checkAll s.agentE as = .error (.trap e) → exec (.vlde 0 r) s = .next (s.takeTrap true e)) ∧
    (∀ ts (xs : List Nat) (x : Lanes) t, s.checkAll s.agentE as = .ok ts → s.readAll s.agentE as ts = .ok xs →
      (∀ k i : Nat, lanes[k]? = some i → x.lane i = BitVec.ofNat 32 (xs[k]?.getD 0)) →
      (∀ i, i < 32 → (bothMasks r s.thr).getLsbD i = false → x.lane i = 0) →
      s.thr.writeV r.d (bothMasks r s.thr) x = .ok t → exec (.vlde 0 r) s = .next (doneE s 8 ((s.traffic false ts).setThr t)))) ∧
  (∀ (r : RArgs) (s : State), ¬emuBad r →
    let lanes := lanesOf (bothMasks r s.thr)
    let xs := lanes.map fun i =>
      ({ writeAcc (nearLane r s i) 4 (.lane i) with cover := lanes.map fun k => (nearLane r s k, 4) }, leBytes 4 ((s.thr.getV r.d).lane i).toNat)
    (∀ e, s.checkAll s.agentE (xs.map Prod.fst) = .error (.trap e) → exec (.vste 0 r) s = .next (s.takeTrap true e)) ∧
    (∀ ts, s.checkAll s.agentE (xs.map Prod.fst) = .ok ts →
      let ps := storesOf xs xs (ts.map Slot.ready)
      exec (.vste 0 r) s = .next (doneE s 8 ((storeLeft s ps).traffic true (ps.map fun p => .mem p.pa))))) ∧
  (∀ r : RArgs, r.c = 0 → r.ty = 0 → r.rm = 0 → r.x16 = 0 → ∀ s : State, s.thr.levelDest true r.d = none →
    ∀ (x : Lanes) t, (∀ k, k < 32 → x.lane k =
        clamp32 (((s.thr.getV r.d).lane k).toInt + exactDot4 ((s.thr.getV r.a).lane k) ((s.thr.getV r.b).lane k))) →
      s.thr.writeV r.d (bothMasks r s.thr) x = .ok t → exec (.vdotq 0 r) s = .next (doneE s 8 (s.setThr t)))

/-! ## Steps between instructions -/

namespace Sys2Proof.Claims

/-- The state with the thread of the request in focus; the context of the request in focus. -/
def here (s0 : State) : State := s0.focus s0.req.t
def hereCtx (s0 : State) : State := s0.focus { s0.req.t with vc := 0, th := 0 }

/-- The thread in focus runs: its context is live and not stopped, its core placed (R385, R389, R394). -/
def ThreadRuns (s : State) : Prop := s.ctx.runs = true ∧ s.ctx.hasVc s.vc.id = true ∧ s.thr.status = .running

/-- The thread with other stores, or another replay queue. -/
def withStores (s : State) (ps : List PStore) : State := { s with thr := { s.thr with stores := ps } }
def withReplay (s : State) (ps : List Parked) : State := { s with thr := { s.thr with replay := ps } }

/-- The accesses of a parked store as its replay checks them, with their bytes: each as at issue, lane by lane (R145, R151). -/
def replayOf (p : Parked) : List (Access × List Byte) :=
  p.accs.map fun x =>
    ({ writeAcc x.va x.bytes.length (match x.lane with | some i => .lane i | none => .scalar) with
        align := 1, cover := p.accs.map fun y => (y.va, y.bytes.length) }, x.bytes)

/-- A store that another one may not be performed before: of its 64 KiB region, or to one of its bytes by another address (R142, R252). -/
def Ahead (y x : PStore) : Prop :=
  y.va / 65536 = x.va / 65536 ∨ (paOf y.pa < paOf x.pa + x.bytes.length ∧ paOf x.pa < paOf y.pa + y.bytes.length)

/-- A replay that is held: by an older unfailed entry of a granule of its own, by a store that has left the thread, or by a remote command issued
before it that reads its bytes (R142, R211, R252). -/
def ReplayHeld (s : State) (before : List Parked) (p : Parked) (ps : List PStore) : Prop :=
  (∃ x ∈ before, x.failed = none ∧ ∃ a ∈ x.accs, ∃ b ∈ p.accs, ∃ g, ParkedOn s.vc.id a g ∧ ParkedOn s.vc.id b g) ∨
    (∃ x ∈ ps, ∃ y ∈ s.thr.stores, Ahead y x) ∨ ∃ x ∈ ps, s.mcmdReads p.order x.pa x.bytes.length = true

/-- The issued stores of a context go on: it runs, or its stop is not reported yet (R390). -/
def StoresGoOn (s : State) : Prop :=
  s.ctx.runs = true ∨ (s.ctx.live = true ∧ s.ctx.killed = false ∧ s.ctx.halted = true ∧ s.ctx.part ∈ s.stops)

/-- What the A-stream waits for on the E-stream, and the E-stream on the A-stream: a queue, or 8 for a wait with no queue (R155). -/
def AWaits (t : Thread) (a : Nat) : Prop :=
  ((t.waitA = .pop a ∨ t.waitA = .popFirst a) ∧ t.getQ a = []) ∨
  ((t.waitA = .push a ∨ ∃ x, t.waitA = .held a x) ∧ (t.getQ a).length = 16) ∨ (t.waitA = .estream ∧ t.ePath ≠ [] ∧ a = 8)
def EWaits (s : State) (e : Nat) : Prop :=
  (s.eReady = false ∧ e = 8) ∨
  (s.eReady = true ∧ ((s.thr.waitE = .pop e ∧ s.thr.getQ e = []) ∨ (s.thr.waitE = .push e ∧ (s.thr.getQ e).length = 16)))

end Sys2Proof.Claims

/-- R142, R145, R146, R155, R252: a store is performed before none of its own 64 KiB region or bytes that is older, and then exactly its bytes
change in memory, read under its key slot; a parked store whose accesses, those through the view that they had at issue to its backing block, pass
steps 6 to 8 under the tables of now is performed, and no older translation is left (R366); one that fails is kept to be reported with
REPLAY_FAILED; the oldest reserved queue entry becomes readable; two streams that wait on each other, one of them on a queue, raise STREAM_DEADLOCK
with both queues in its detail, and at no other time. -/
def Sys2Proof.Claims.StreamSteps : Prop :=
  (∀ (s : State) (p : PStore), Memory.wf s.mem → s.linkFails p.pa = none → Whole p.pa p.bytes.length →
    (s.performStore p).busRead p.pa p.bytes.length = p.bytes) ∧
  (∀ (s : State) (p : PStore), Memory.wf s.mem → s.linkFails p.pa = none → p.pa + p.bytes.length ≤ 0x80000000000 → p.bytes ≠ [] →
    ∀ a, (s.performStore p).mem.read a = if p.pa ≤ a ∧ a < p.pa + p.bytes.length then p.bytes[a - p.pa]?.getD 0 else s.mem.read a) ∧
  (∀ (s0 : State) before p after, (here s0).ctx.live = true → (here s0).thr.stores = before ++ p :: after → s0.req.n = before.length →
    ((∃ x ∈ before, Ahead x p) → exec .storePerformed s0 = .next s0) ∧
    ((∀ x ∈ before, ¬Ahead x p) →
      exec .storePerformed s0 = .next ((withStores (here s0) (before ++ after)).performStore p))) ∧
  (∀ (s0 : State) before p after, StoresGoOn (here s0) → (here s0).thr.replay = before ++ p :: after → s0.req.n = before.length →
    p.failed = none →
    let s := here s0
    let ag := { s.agent with thread := false, tlb := false }
    let failed := fun (c : Cause) (va : Nat) =>
      withReplay s (before ++ { p with failed := some ⟨.replayFailed, va, causeCode c⟩ } :: after)
    (∀ (x : PAcc) cover w pa, x.view = some w → s.checkMem ag ((x.access cover).backing w) = .ok pa →
      s.replaySlot ag cover x = .ok (.ready (.conv w pa))) ∧
    (∀ (x : PAcc) cover w e, x.view = some w → s.checkMem ag ((x.access cover).backing w) = .error (.trap e) →
      s.replaySlot ag cover x = .error (.trap { e with fdetail := x.va })) ∧
    (∀ (x : PAcc) cover pa, x.view = none → s.checkMem ag (x.access cover) = .ok pa → s.replaySlot ag cover x = .ok (.ready (.mem pa))) ∧
    (∀ (x : PAcc) cover e, x.view = none → s.checkMem ag (x.access cover) = .error e → s.replaySlot ag cover x = .error e) ∧
    (∀ sl, p.accs.mapM (s.replaySlot ag (p.accs.map fun y => (y.va, y.bytes.length))) = .ok sl →
      let ps := storesOf (replayOf p) (replayOf p) sl
      (ReplayHeld s before p ps → exec .parkedStoreReplay s0 = .next s0) ∧
      (¬ReplayHeld s before p ps →
        ((∀ x ∈ ps, s.linkFails x.pa = none) → exec .parkedStoreReplay s0 =
          .next (ps.foldl (fun s x => ((s.writePhys x.pa x.bytes).markLeaf x.va true).renew x.va)
            ((withReplay s (before ++ after)).traffic true (ps.map fun x => .mem x.pa)))) ∧
        (∀ b1 x a1 c d, ps = b1 ++ x :: a1 → (∀ y ∈ b1, s.linkFails y.pa = none) → s.linkFails x.pa = some (c, d) →
          exec .parkedStoreReplay s0 = .next (failed c x.va)))) ∧
    (∀ e, s.replayStores p = .error (.trap e) →
      (e.cause ≠ .pageFaultWrite ∨ s0.req.flag = false → exec .parkedStoreReplay s0 = .next (failed e.cause e.faddr)) ∧
      (e.cause = .pageFaultWrite → s0.req.flag = true → exec .parkedStoreReplay s0 = .next s0))) ∧
  (∀ (s0 : State) before e after, (here s0).ctx.live = true → (here s0).thr.status ≠ .free →
    (here s0).thr.getQ s0.req.n = before ++ e :: after → (∀ x ∈ before, x.ready = true) → e.ready = false →
    exec .queueEntryReadable s0 = .next (withQ (here s0) s0.req.n (before ++ { e with ready := true } :: after))) ∧
  (∀ (s0 : State) a e, ThreadRuns (here s0) → AWaits (here s0).thr a → EWaits (here s0) e → ¬(a = 8 ∧ e = 8) →
    exec .streamDeadlock s0 = .next ((here s0).takeTrap false ⟨.streamDeadlock, 0, a + 16 * e⟩)) ∧
  (∀ s0 : State, ThreadRuns (here s0) → (∀ a e, AWaits (here s0).thr a → EWaits (here s0) e → a = 8 ∧ e = 8) →
    exec .streamDeadlock s0 = .next s0)

namespace Sys2Proof.Claims

/-- The core of the request in focus, its maps up to date. -/
def hereCore (s0 : State) : State := (s0.focus { s0.req.t with th := 0 }).sync

/-- A thread of the core waits for a walk of the address. -/
def Misses (s : State) (k : AccKind) (va : Nat) : Prop := ∃ t ∈ s.vc.threads, t.2.waitA = .tlb va k ∨ t.2.waitE = .tlb va k

/-- A thread once its miss is served: it tries again. -/
def served (k : AccKind) (va : Nat) (t : Thread) : Thread :=
  { t with waitA := if t.waitA = .tlb va k then .none else t.waitA, waitE := if t.waitE = .tlb va k then .none else t.waitE }

/-- A write through a leaf that permits it while its D bit is clear (R361). -/
def SetsD (k : AccKind) (pte : Nat) : Prop := (k = .write ∨ k = .atomic) ∧ pte.testBit 3 = true ∧ pte.testBit 9 = false

/-- An entry of the L2 of the home of an address that serves an access of a kind. -/
def InHome (s : State) (k : AccKind) (va : Nat) (e : TlbEntry) : Prop :=
  (s.home (s.vc.phys / 288) s.ctx.id va, e) ∈ s.l2tlb ∧ e.ctx = s.ctx.id ∧ e.base ≤ va ∧ va < e.base + e.size ∧ ¬SetsD k e.pte

/-- The L1 TLB does not serve an access: it holds no entry for the page, or one through which a write is to set D first (R361, R363). -/
def L1Misses (s : State) (a : Access) : Prop :=
  ∀ e, tlbLookup (if a.kind = .fetch then s.vc.itlb else s.vc.dtlb) s.ctx.id a.va = some e → SetsD a.kind e.pte

/-- The TLB that an access looks in. -/
def tlbOf (k : AccKind) (v : VCore) : List TlbEntry := if k = .fetch then v.itlb else v.dtlb

/-- The physical address that a leaf of the tables, or a TLB entry of a size, gives (R358). -/
def leafPa (pte size va : Nat) : Nat := pte / 2 ^ 16 % 2 ^ 38 * 2 ^ 16 + va % size

/-- The trap of a walk that finds no leaf (R359, R363). -/
def walkTrap (k : AccKind) (va lv : Nat) (malformed : Bool) (lane : Nat) : TrapInfo :=
  ⟨if k = .read then .pageFaultRead else if k = .fetch then .fetchPageFault else .pageFaultWrite, va,
    lv + (if malformed then 8 else 0) + 2 ^ 32 * lane⟩

/-- A copy of a translation that agrees with the leaf p of a page, or lies outside that page (R366). -/
def Agrees (ctx base size p : Nat) (x : TlbEntry) : Prop :=
  x.ctx ≠ ctx ∨ x.base + x.size ≤ base ∨ base + size ≤ x.base ∨ x.pte = p ∨ x.pte = p + (x.base / 65536 * 65536 - base)

/-- Everything outside the two TLBs of a core and the waits of its threads. -/
def SameButTlb (k : AccKind) (va : Nat) (v v' : VCore) : Prop :=
  v' = { v with itlb := v'.itlb, dtlb := v'.dtlb, threads := v.threads.map fun t => (t.1, served k va t.2) }

end Sys2Proof.Claims

/-- R361, R363 to R365: a walker serves a miss: from the L2 of the home, else by a walk that sets A in the leaf, and D where a write is to
go through it, and fills the home with the granule and the L1 TLB with the page; every thread of the core that waited for the address
tries again, and a walk that finds no leaf leaves everything else as it was. Where the walk finds the page changed, no older copy of its
translation stays on the core or in the homes of its die (R366). An access of a thread takes its translation from the L1 TLB; where that does not
serve it, it waits for the walker, and faults where neither the home nor the tables have one; one that walks by itself takes the leaf. The home position is that of R364, with its example. Where the spec
is silent it states the choices of the model: log 12, log 13, log 15. -/
def Obligations.TableWalks : Prop :=
  (∀ c va, homePos c va =
    Nat.xor (Nat.xor (c * 0x01000193) (va / 2 ^ 16 % 2 ^ 40 % 2 ^ 32)) (va / 2 ^ 16 % 2 ^ 40 / 2 ^ 32) * 0x9E3779B1 % 2 ^ 32 % 288) ∧
  homePos 5 0x010009401000 = 239 ∧
  (∀ (s : State) (ag : Agent) (a : Access),
    (ag.tlb = true →
      (∀ e, tlbLookup (tlbOf a.kind s.vc) s.ctx.id a.va = some e → ¬SetsD a.kind e.pte →
        s.translate ag a = .ok (e.pte, leafPa e.pte e.size a.va)) ∧
      (L1Misses s a →
        (∀ e, InHome s a.kind a.va e → s.translate ag a = .error (.wait (.tlb a.va a.kind))) ∧
        (∀ pte lv pa, s.walk a.va = .leaf pte lv pa → s.translate ag a = .error (.wait (.tlb a.va a.kind))) ∧
        (∀ lv b, (∀ e, ¬InHome s a.kind a.va e) → s.walk a.va = .fault lv b →
          s.translate ag a = .error (.trap (walkTrap a.kind a.va lv b a.lane))))) ∧
    (ag.tlb = false →
      (∀ pte lv pa, s.walk a.va = .leaf pte lv pa → s.translate ag a = .ok (pte, leafPa pte (pageSize lv) a.va)) ∧
      (∀ lv b, s.walk a.va = .fault lv b → s.translate ag a = .error (.trap (walkTrap a.kind a.va lv b a.lane))))) ∧
  (∀ s0 : State,
    let s := hereCore s0
    let k := s0.req.kind
    let va := s0.req.n
    s.ctx.live = true → s.ctx.hasVc s.vc.id = true → Misses s k va →
    (∀ pa, s.walk va = .hole pa → exec .tlbWalk s0 = .fault (.physicalHole pa)) ∧
    ((∀ pa, s.walk va ≠ .hole pa) → ∃ s', exec .tlbWalk s0 = .next s' ∧ SameButTlb k va s.vc s'.vc ∧ s'.thr = served k va s.thr ∧
      s'.cores = (s.queryHome (s.home (s.vc.phys / 288) s.ctx.id va)).cores ∧
      (∀ e, InHome s k va e → s'.mem = s.mem ∧ s'.l2tlb = s.l2tlb ∧
        ∃ e', InHome s k va e' ∧ tlbLookup (tlbOf k s'.vc) s.ctx.id va = some e') ∧
      ((∀ e, ¬InHome s k va e) →
        (∀ pte lv pa, s.walk va = .leaf pte lv pa →
          ∃ p, (SetsD k pte → p = pte ||| 0x300) ∧ (¬SetsD k pte → p = pte ||| 0x100) ∧
            s'.mem = Memory.writeN s.mem pa (leBytes 8 p) ∧
            tlbLookup (tlbOf k s'.vc) s.ctx.id va =
              some { ctx := s.ctx.id, base := va / pageSize lv * pageSize lv, size := pageSize lv, pte := p } ∧
            (s.home (s.vc.phys / 288) s.ctx.id va,
              ({ ctx := s.ctx.id, base := va / 65536 * 65536, size := 65536
                 pte := p + (va / 65536 * 65536 - va / pageSize lv * pageSize lv) } : TlbEntry)) ∈ s'.l2tlb ∧
            (∀ x ∈ s'.vc.itlb ++ s'.vc.dtlb, Agrees s.ctx.id (va / pageSize lv * pageSize lv) (pageSize lv) p x) ∧
            ∀ x ∈ s'.l2tlb, x.1 / 288 = s.vc.phys / 288 → Agrees s.ctx.id (va / pageSize lv * pageSize lv) (pageSize lv) p x.2) ∧
        (∀ lv b, s.walk va = .fault lv b → s'.mem = s.mem ∧ s'.l2tlb = s.l2tlb ∧ s'.vc.itlb = s.vc.itlb ∧ s'.vc.dtlb = s.vc.dtlb))))

namespace Sys2Proof.Claims

/-- An older message of the handover class, a handover or a free message, is in flight from the sender of m to its recipient (R24). -/
def OlderInFlight (c : Ctx) (m : Handover) : Prop :=
  (∃ x ∈ c.handovers, x.sender = m.sender ∧ x.dest = m.dest ∧ x.seq < m.seq) ∨
    ∃ x ∈ c.freeMsgs, x.member = m.sender ∧ x.sender = m.dest ∧ x.seq < m.seq

/-- A sleeping WAITW reads for its thread, past the watchpoints, by a walk of its own (R264). -/
def sleeper (s : State) : Agent := { s.agent with tlb := false }
def sleeping (s : State) : State := { s with thr := { s.thr with watchPass := [0, 1, 2, 3] } }

/-- The recipient of a handover is the holder. -/
def handed (s : State) (m : Handover) (rest : List Handover) : State :=
  let s1 := { s with ctx := { s.ctx with handovers := rest } }
  match SMap.find s1.ctx.holdings m.holding with
  | some h => withHolding s1 m.holding { h with holder := m.dest, inflight := none }
  | none => s1

end Sys2Proof.Claims

/-- R10, R24, R264, R265, R281, R286: a sleeping WAITW that reads a value which satisfies its condition completes with what it reads then, and sleeps on
where it does not, and where its checks would not pass any more, since it has cleared them; a handover that arrives makes its recipient the holder, in order of
sending with the free messages of its class, and none arrives in a context that is halted; a TAKE that waited on a core which holds now
completes. -/
def Sys2Proof.Claims.WakeUps : Prop :=
  (∀ (s0 : State) fn (r : RArgs) len p bs, fn ≤ 2 → ThreadRuns (here s0) → (here s0).thr.waitA = .word →
    (here s0).instrAt (here s0).thr.apc = some (.waitw fn r, len) →
    let s := here s0
    let a := readAcc (s.thr.getS r.a).toNat 8
    s.thr.checkDest r.d = .ok () → (sleeping s).check (sleeper s) a = .ok p → (sleeping s).readTarget (sleeper s) a p = .ok bs →
    (wordHolds fn (BitVec.ofNat 64 (leNat bs)) (s.thr.getS r.b) = false → exec .waitwWake s0 = .next s0) ∧
    (wordHolds fn (BitVec.ofNat 64 (leNat bs)) (s.thr.getS r.b) = true →
      let u := (sleeping s).sawWord a p
      ∀ p' bs' t, u.check (sleeper u) a = .ok p' → u.readTarget (sleeper u) a p' = .ok bs' →
        wordHolds fn (BitVec.ofNat 64 (leNat bs')) (s.thr.getS r.b) = true → u.thr.writeS r.d (BitVec.ofNat 64 (leNat bs')) = .ok t →
        exec .waitwWake s0 = .next (doneA s 8 ((u.traffic false [p']).setThr t)))) ∧
  (∀ (s0 : State) fn (r : RArgs) len e, fn ≤ 2 → ThreadRuns (here s0) → (here s0).thr.waitA = .word →
    (here s0).instrAt (here s0).thr.apc = some (.waitw fn r, len) →
    (sleeping (here s0)).check (sleeper (here s0)) (readAcc ((here s0).thr.getS r.a).toNat 8) = .error (.trap e) →
    exec .waitwWake s0 = .next s0) ∧
  (∀ s0 : State, (here s0).thr.waitA ≠ .word → exec .waitwWake s0 = .next s0) ∧
  (∀ s0 : State, (hereCtx s0).ctx.halted = true → exec .handoverArrival s0 = .next s0) ∧
  (∀ (s0 : State) before m after, (hereCtx s0).ctx.live = true → (hereCtx s0).ctx.killed = false → (hereCtx s0).ctx.halted = false →
    (hereCtx s0).ctx.preempt ≠ .saved → (hereCtx s0).ctx.handovers = before ++ m :: after → s0.req.n = before.length →
    (OlderInFlight (hereCtx s0).ctx m → exec .handoverArrival s0 = .next s0) ∧
    (¬OlderInFlight (hereCtx s0).ctx m → 2 ^ 16 ≤ m.dest → exec .handoverArrival s0 = .next (handed (hereCtx s0) m (before ++ after))) ∧
    (¬OlderInFlight (hereCtx s0).ctx m → m.dest < 2 ^ 16 →
      let s1 := (handed (hereCtx s0) m (before ++ after)).receivedMsg m.dest 3
      exec .handoverArrival s0 = .next (if s1.ctx.runs then s1.wakeTakes m.dest else s1))) ∧
  (∀ (s : State) (r : RArgs) len x, s.thr.status = .running → s.thr.waitA = .take → s.instrAt s.thr.apc = some (.holdTake r, len) →
    holdingOf s r = some x → s.wakeTake = if x.heldBy s.vc.id then doneA s 8 s else s)

/-- Stores performed, parked stores replayed, deadlocks found, sleepers woken: `StreamSteps`, `WakeUps`. Where the spec is silent it
states the choices of the model: log 12, log 15, log 38, log 41. -/
def Obligations.StreamStepsAndWakeUps : Prop := Sys2Proof.Claims.StreamSteps ∧ Sys2Proof.Claims.WakeUps

/-! ## The launch unit -/

namespace Sys2Proof.Claims

/-- A state that has sent a report to the host. -/
def withReport (s : State) (r : Report) : State := { s with reports := s.reports ++ [r] }

/-- A report of no thread: THREAD 0xFF, STREAM 2 (R381). -/
def hostReport (c : Cause) (disp ctxid vcore faddr detail cycle : Nat) : Report where
  cause := c
  disp := disp
  thread := 255
  ctxid := ctxid
  vcore := vcore
  stream := 2
  epc := 0
  aepc := 0
  faddr := faddr
  fdetail := detail
  inst := 0
  cycle := cycle

/-- A queue that R309 calls stalled, by the 64 bytes of its control block (R307) and the TAIL that was read; FLAGS bits 31:2 count among its
reserved fields (log 31). -/
def BlockStalled (bs : List Byte) (tail : Nat) : Prop :=
  (∀ k, k < 16 → fld bs 8 4 ≠ 2 ^ (k + 1)) ∨ fld bs 0 8 % 64 ≠ 0 ∨ 4 ≤ fld bs 12 4 ∨ fld bs 40 24 ≠ 0 ∨ tail < fld bs 24 8 ∨
    fld bs 24 8 + fld bs 8 4 < tail

/-- FLAGS of a control block written: bits of `set` on, bits of `clear` off. -/
def putFlags (s : State) (block old set clear : Nat) : State := s.hwWrite (block + 12) (leBytes 4 (Nat.lor (old - Nat.land old clear) set))

/-- A launch slot's queue replaced. -/
def withSlot (s : State) (q : Nat) (x : LQueue) : State := { s with queues := SMap.put s.queues q x }

/-- A step held until the machine, the context or the partition takes it. -/
def held (s : State) (i : Instr) : State := { s with heldMoves := s.heldMoves ++ [(i, s.req)] }

/-- A queue stalled (R309): no packet is to be processed, ERROR is set, and LAUNCH_INVALID is reported with the index HEAD. -/
def stalledAt (s : State) (q old : Nat) (bs : List Byte) (x : LQueue) : State :=
  let s1 := withSlot (putFlags s x.block old 2 0) q { x with tail := fld bs 24 8 }
  withReport s1 (hostReport .launchInvalid 1 s1.ctx.id 0xFFFF 0 (fld bs 24 8) s1.now)

/-- TAIL read for a queue (R309): the packets up to it are to be processed, or the queue is stalled. -/
def TailRead (s : State) (q old : Nat) (bs : List Byte) (x : LQueue) (s' : State) : Prop :=
  (¬BlockStalled bs (fld bs 16 8) → s' = withSlot s q { x with tail := fld bs 16 8 }) ∧
  (BlockStalled bs (fld bs 16 8) → s' = stalledAt s q old bs x)

/-- A slot that firmware may give to another control block: it has none, or its queue has nothing left to do (log 28). -/
def SlotFree (s : State) (q : Nat) : Prop :=
  ∀ x, SMap.find s.queues q = some x → ∀ c, s.ctxAt x.ctx = some c →
    x.waits = [] ∧ (∀ e ∈ c.launches, e.2.queue = q → e.2.join = 0) ∧
      ∃ bs, (s.focus { ctx := x.ctx, vc := 0, th := 0 }).hwRead x.block 64 = some bs ∧ x.tail ≤ fld bs 24 8

/-- The control block of a slot unmapped: its SLOT reads 0xFFFF_FFFF (R307), and what its queue holds is kept (R92). -/
def slotCleared (s : State) (q : Nat) : State :=
  match SMap.find s.queues q with
  | none => s
  | some x =>
    let s1 := ((s.focus { ctx := x.ctx, vc := 0, th := 0 }).hwWrite (x.block + 36) (leBytes 4 0xFFFFFFFF)).focus s.tid
    { s1 with queues := SMap.del s1.queues q, unmapped := s1.unmapped ++ [x] }

/-- The queue of a control block that is to be mapped: what was kept when the block was unmapped, else a new one. -/
def queueKept (s : State) (a : Nat) : LQueue :=
  (s.unmapped.find? fun x => decide (x.ctx = s.ctx.id) && decide (x.block = a)).getD
    { ctx := s.ctx.id, block := a, tail := 0, refs := [], waits := [] }

/-- A control block mapped (R307, R309): PENDING is clear, SLOT names the slot, and the block waits for none. -/
def blockMapped (s : State) (q a old : Nat) : State :=
  let s1 := (putFlags (slotCleared s q) a old 0 1).hwWrite (a + 36) (leBytes 4 q)
  let x := queueKept s a
  { withSlot s1 q x with
    unmapped := s1.unmapped.filter fun y => !(decide (y.ctx = x.ctx) && decide (y.block = a))
    pendingBlocks := s1.pendingBlocks.filter fun y => decide (y ≠ (x.ctx, a)) }

/-- A control block left for firmware to map: PENDING is set. -/
def leftPending (s : State) (a old : Nat) : State :=
  let s1 := putFlags s a old 1 0
  { s1 with pendingBlocks := if s1.pendingBlocks.contains (s.ctx.id, a) then s1.pendingBlocks else s1.pendingBlocks ++ [(s.ctx.id, a)] }

/-- A kick that R309 drops. -/
def kickDropped (s : State) (a : Nat) : State := withReport s (hostReport .launchInvalid 1 0xFF 0xFFFF a (2 ^ 64 - 1) s.now)

end Sys2Proof.Claims

/-- R307, R309: a kick to a mapped block reads TAIL; one to an unmapped block sets PENDING, or maps the block to the slot that firmware
chooses, which unmaps the block that had it, writes SLOT, clears PENDING and reads TAIL; one that names no control block of a live context is dropped and reported; a stalled
queue is reported with ERROR; a kick before bring-up, or to a context that is halted or pre-empted, is held. -/
def Sys2Proof.Claims.LaunchKicks : Prop :=
  (∀ s : State, s.phase ≠ .up → exec .launchKick s = .next (held s .launchKick)) ∧
  (∀ s : State, s.phase = .up → (∀ c, s.ctxAt s.req.t.ctx = some c → c.killed = true) →
    exec .launchKick s = .next (kickDropped s s.req.k)) ∧
  (∀ (s : State) c, s.phase = .up → s.ctxAt s.req.t.ctx = some c → c.killed = false → c.halted = true ∨ c.preempt ≠ .none →
    exec .launchKick s = .next (held s .launchKick)) ∧
  (∀ (s0 : State) c, s0.phase = .up → s0.ctxAt s0.req.t.ctx = some c → c.killed = false → c.halted = false → c.preempt = .none →
    let s := hereCtx s0
    let a := s0.req.k
    (s.hwRead a 64 = none → exec .launchKick s0 = .next (kickDropped s a)) ∧
    (∀ bs, s.hwRead a 64 = some bs →
      (fld bs 32 4 ≠ c.id → exec .launchKick s0 = .next (kickDropped s a)) ∧
      (fld bs 32 4 = c.id →
        let s1 := s.markRange a 64
        let q := s0.req.m
        (∀ q x, s1.slotOf c.id a = some q → SMap.find s1.queues q = some x →
          ∃ s', exec .launchKick s0 = .next s' ∧ TailRead s1 q (fld bs 12 4) bs x s') ∧
        (s1.slotOf c.id a = none → 128 ≤ q ∨ ¬SlotFree s1 q → exec .launchKick s0 = .next (leftPending s1 a (fld bs 12 4))) ∧
        (s1.slotOf c.id a = none → q < 128 → SlotFree s1 q →
          ∃ s', exec .launchKick s0 = .next s' ∧
            TailRead (blockMapped s1 q a (fld bs 12 4)) q (fld bs 12 4 - Nat.land (fld bs 12 4) 1) bs (queueKept s1 a) s'))))

namespace Sys2Proof.Claims

/-- A queue with a packet to process: its context runs, its control block is sound, no SERIAL launch or UNLOAD of it waits, HEAD is below the
TAIL that was read, and the packet is read (R309, R311). -/
def PacketReady (s0 : State) (q : Nat) (x : LQueue) (s : State) (bs pk : List Byte) : Prop :=
  SMap.find s0.queues q = some x ∧ (∃ c, s0.ctxAt x.ctx = some c ∧ c.runs = true) ∧ s = s0.focus { ctx := x.ctx, vc := 0, th := 0 } ∧
    s.hwRead x.block 64 = some bs ∧ ¬BlockStalled bs x.tail ∧ (∀ w ∈ x.waits, w.blocks = false) ∧ fld bs 24 8 < x.tail ∧
    s.hwRead (fld bs 0 8 + 64 * (fld bs 24 8 % fld bs 8 4)) 64 = some pk

/-- The packet read, which sets A in its leaf (R361), and HEAD moved past it. -/
def taken (s : State) (x : LQueue) (bs : List Byte) : State :=
  (s.markRange (fld bs 0 8 + 64 * (fld bs 24 8 % fld bs 8 4)) 64).hwWrite (x.block + 24) (leBytes 8 ((fld bs 24 8 + 1) % 2 ^ 64))

/-- A packet refused (R311): ERROR set, 2^63 + cause written to DONEADDR, and the cause reported with the packet's index. -/
def Refused (s : State) (x : LQueue) (c : Cause) (pk : List Byte) (k : Nat) (s' : State) : Prop :=
  ∀ bs, s.hwRead x.block 64 = some bs → ∃ s1, s1 = (putFlags s x.block (fld bs 12 4) 2 0).completionWord (fld pk 40 8)
      (BitVec.ofNat 64 (2 ^ 63 + causeCode c)) ∧ s' = withReport s1 (hostReport c 1 s1.ctx.id 0xFFFF 0 k s1.now)

/-- A nonzero reserved field of a packet (R308). -/
def PacketBad (pk : List Byte) : Prop :=
  fld pk 56 8 ≠ 0 ∨ (fld pk 0 2 = 1 ∧ (128 ≤ fld pk 2 2 ∨ fld pk 36 4 ≠ 0)) ∨
    ((fld pk 0 2 = 2 ∨ fld pk 0 2 = 3) ∧ (fld pk 2 2 ≠ 0 ∨ fld pk 8 32 ≠ 0)) ∨ (fld pk 0 2 = 4 ∧ fld pk 2 38 ≠ 0)

/-- The root code of a LAUNCH: CODE, or with BYTYPE the handler of the message type (R90, R308). -/
def rootCode (o : Obj) (pk : List Byte) : Nat :=
  if (fld pk 2 2).testBit 6 then (((o.handlers.find? fun h => decide (h.1 = fld pk 8 8)).map Prod.snd).getD 0) else fld pk 8 8

/-- Root i of a LAUNCH (R310). -/
def rootOf (o : Obj) (pk : List Byte) (i : Nat) : TaskRec where
  rs := 0
  restart := false
  code := rootCode o pk
  fsize := fld pk 34 2
  count := 0
  frame := fld pk 20 4 + i * 16 * fld pk 32 2
  result := 0xFFFFFFFF
  join := 0xFFFFFFFE
  key := (fld pk 24 8 + (i * 2 ^ 32 + (fld pk 18 2 - 1)) / fld pk 18 2 * 2 ^ 32) % 2 ^ 64
def rootsOf (o : Obj) (pk : List Byte) : List TaskRec := (List.range (fld pk 18 2)).map (rootOf o pk)

/-- The virtual core of a root: HASH (R310, R323). -/
def rootCore (pk : List Byte) (t : TaskRec) : Nat := t.key / 2 ^ 32 * fld pk 16 2 / 2 ^ 32

/-- LAUNCH_INVALID of a LAUNCH whose object its queue references, but for the room of its roots (R311). -/
def LaunchBad (s : State) (o : Obj) (pk : List Byte) : Prop :=
  let features := (s.parts[s.ctx.part]?.map Part.features).getD 0
  let fs := s.ctx.framesize.toNat
  fld pk 16 2 = 0 ∨ s.partCores s.ctx.part < fld pk 16 2 ∨ s.ctx.nmax < fld pk 16 2 ∨ fld pk 18 2 = 0 ∨ 4096 < fld pk 18 2 ∨
    rootCode o pk ∉ o.entries ∨ fs % 16 ≠ 0 ∨ 0xFFFFFFF0 < fs ∨ fld pk 20 4 % 16 ≠ 0 ∨ 4095 < fld pk 34 2 ∨
    fs < fld pk 20 4 + (fld pk 18 2 - 1) * 16 * fld pk 32 2 + 16 * fld pk 34 2 ∨
    ((fld pk 2 2).testBit 0 = true ∧ features.testBit 8 = false) ∨ ((fld pk 2 2).testBit 1 = true ∧ features.testBit 9 = false) ∨
    ((fld pk 2 2).testBit 0 = true ∧ ∃ h ∈ o.linkages, (SMap.find s.ctx.holdings h).map Holding.cls ≠ some .sealed)

/-- The launch that an accepted LAUNCH makes: its join is ROOTS (R310). -/
def launchFrom (q : Nat) (pk : List Byte) : Launch where
  det := (fld pk 2 2).testBit 0
  replay := (fld pk 2 2).testBit 1
  prio := fld pk 2 2 / 4 % 8
  nv := fld pk 16 2
  join := fld pk 18 2
  queue := q
  object := fld pk 4 4
  doneAddr := fld pk 40 8
  doneVal := BitVec.ofNat 64 (fld pk 48 8)

/-- Every target core has room for its roots. -/
def RootsFit (s : State) (o : Obj) (pk : List Byte) : Prop :=
  ∀ v ∈ (rootsOf o pk).map (rootCore pk), s.fits v ((rootsOf o pk).filter fun t => decide (rootCore pk t = v)).length = true

/-- A launch started: registered with its join, and its roots enqueued core by core. -/
def started (s : State) (q : Nat) (o : Obj) (pk : List Byte) : State :=
  groupsTo (rootCore pk) (rootsOf o pk) s.nextId 0
    { s with ctx := { s.ctx with launches := SMap.put s.ctx.launches s.nextId (launchFrom q pk) }, nextId := s.nextId + 1 }

/-- Every launch of a queue has completed (R311). -/
def Idle (s : State) (q : Nat) : Prop := ∀ e ∈ s.ctx.launches, e.2.queue = q → e.2.join = 0

end Sys2Proof.Claims

/-- R308 to R311: a LAUNCH packet is consumed and either refused, with the cause that R311 chooses, or accepted: it starts at once, or a SERIAL
one once every earlier launch of its queue has completed; the started launch has its join at ROOTS and its roots on the cores that HASH
names; where they do not all fit it is refused and none is enqueued; a queue that a write to its control block has stalled since the kick
processes no packet: ERROR is set and LAUNCH_INVALID reported. -/
def Sys2Proof.Claims.LaunchPackets : Prop :=
  (∀ (s0 : State) x s bs pk, PacketReady s0 s0.req.m x s bs pk → fld pk 0 2 ≠ 2 → fld pk 0 2 ≠ 3 → fld pk 0 2 ≠ 4 →
    let q := s0.req.m
    let k := fld bs 24 8
    let s1 := taken s x bs
    (fld pk 0 2 ≠ 1 ∨ PacketBad pk → ∃ s', exec .launchPacket s0 = .next s' ∧ Refused s1 x .launchInvalid pk k s') ∧
    (fld pk 0 2 = 1 → ¬PacketBad pk →
      (fld pk 4 4 ∉ x.refs → ∃ s', exec .launchPacket s0 = .next s' ∧ Refused s1 x .launchNoObject pk k s') ∧
      (fld pk 4 4 ∈ x.refs → (∀ o ∈ s.ctx.objects, o.handle ≠ fld pk 4 4) →
        ∃ s', exec .launchPacket s0 = .next s' ∧ Refused s1 x .launchInvalid pk k s') ∧
      (∀ o, fld pk 4 4 ∈ x.refs → s.ctx.objects.find? (fun o => decide (o.handle = fld pk 4 4)) = some o →
        (LaunchBad s o pk → ∃ s', exec .launchPacket s0 = .next s' ∧ Refused s1 x .launchInvalid pk k s') ∧
        (¬LaunchBad s o pk →
          (¬RootsFit s1 o pk → ∃ s', exec .launchPacket s0 = .next s' ∧ Refused s1 x .launchInvalid pk k s') ∧
          (RootsFit s1 o pk → (fld pk 2 2).testBit 5 = true → ¬Idle s q →
            exec .launchPacket s0 = .next (withSlot s1 q { x with waits := x.waits ++ [.serial (packetOf (some o) k pk)] })) ∧
          (RootsFit s1 o pk → (fld pk 2 2).testBit 5 = false ∨ Idle s q → exec .launchPacket s0 = .next (started s1 q o pk)))))) ∧
  (∀ (s0 : State) x c o k pk before after, SMap.find s0.queues s0.req.m = some x → s0.ctxAt x.ctx = some c → c.runs = true →
    let p := packetOf (some o) k pk
    x.waits = before ++ .serial p :: after → (∀ w ∈ before, ∀ p', w ≠ .serial p') → (∀ w ∈ after, w ≠ .serial p) →
    let s := s0.focus { ctx := x.ctx, vc := 0, th := 0 }
    let x1 := { x with waits := before ++ after }
    let s1 := withSlot s s0.req.m x1
    (¬Idle s s0.req.m → exec .serialLaunchStart s0 = .next s0) ∧
    (Idle s s0.req.m → RootsFit s1 o pk → exec .serialLaunchStart s0 = .next (started s1 s0.req.m o pk)) ∧
    (Idle s s0.req.m → ¬RootsFit s1 o pk →
      ∃ s', exec .serialLaunchStart s0 = .next s' ∧ Refused s1 x1 .launchInvalid pk k s')) ∧
  (∀ (s0 : State) x c bs, SMap.find s0.queues s0.req.m = some x → s0.ctxAt x.ctx = some c → c.runs = true →
    let s := s0.focus { ctx := x.ctx, vc := 0, th := 0 }
    s.hwRead x.block 64 = some bs → BlockStalled bs x.tail → x.tail ≠ fld bs 24 8 → (∀ w ∈ x.waits, w.blocks = false) →
    exec .launchPacket s0 = .next (stalledAt s s0.req.m (fld bs 12 4) bs x))

namespace Sys2Proof.Claims

/-- A queue's wait list with one more wait. -/
def waitsMore (x : LQueue) (w : QWait) : LQueue := { x with waits := x.waits ++ [w] }

/-- The launches that a marker waits for have completed. -/
def LaunchesDone (s : State) (ids : List Nat) : Prop := ∀ i ∈ ids, ∀ l, SMap.find s.ctx.launches i = some l → l.join = 0

/-- The object of a handle no longer registered; its holdings go where no launch runs and no other object uses them. -/
def objectFreed (c : Ctx) (handle : Nat) : Ctx :=
  { c with
    objects := c.objects.filter fun o => decide (o.handle ≠ handle)
    holdings := if c.launches.any fun e => decide (e.2.join ≠ 0) then c.holdings else c.holdings.filter fun e =>
      !(c.objects.any fun o => decide (o.handle = handle) && o.holdings.contains e.1) ||
        c.objects.any fun o => decide (o.handle ≠ handle) && o.holdings.contains e.1 }

end Sys2Proof.Claims

/-- R92, R311: LOADREF gives its queue one reference to a loaded object, UNLOAD drops it once every earlier launch of the queue has completed
and frees the object where no queue of the context references it any more and the runtime asks for that, MARKER writes its value once the
launches before it have completed; each writes its completion word when it takes effect; a packet that R311 refuses changes nothing else. -/
def Sys2Proof.Claims.LaunchReferences : Prop :=
  (∀ (s0 : State) x s bs pk, PacketReady s0 s0.req.m x s bs pk →
    let q := s0.req.m
    let k := fld bs 24 8
    let s1 := taken s x bs
    let loaded := ∃ o ∈ s.ctx.objects, o.handle = fld pk 4 4
    (fld pk 0 2 = 2 →
      (PacketBad pk ∨ ¬loaded → ∃ s', exec .loadrefPacket s0 = .next s' ∧ Refused s1 x .launchInvalid pk k s') ∧
      (¬PacketBad pk → loaded → exec .loadrefPacket s0 = .next
        ((withSlot s1 q { x with refs := if fld pk 4 4 ∈ x.refs then x.refs else x.refs ++ [fld pk 4 4] }).completionWord (fld pk 40 8)
          (BitVec.ofNat 64 (fld pk 48 8))))) ∧
    (fld pk 0 2 = 3 →
      (PacketBad pk ∨ fld pk 4 4 ∉ x.refs → ∃ s', exec .unloadPacket s0 = .next s' ∧ Refused s1 x .launchInvalid pk k s') ∧
      (¬PacketBad pk → fld pk 4 4 ∈ x.refs → exec .unloadPacket s0 = .next
        (withSlot s1 q (waitsMore x (.unload (fld pk 4 4) (fld pk 40 8) (BitVec.ofNat 64 (fld pk 48 8))))))) ∧
    (fld pk 0 2 = 4 →
      (PacketBad pk → ∃ s', exec .markerPacket s0 = .next s' ∧ Refused s1 x .launchInvalid pk k s') ∧
      (¬PacketBad pk → exec .markerPacket s0 = .next (withSlot s1 q (waitsMore x (.marker (fld pk 40 8) (BitVec.ofNat 64 (fld pk 48 8))
        ((s.ctx.launches.filter fun e => decide (e.2.queue = q) && decide (e.2.join ≠ 0)).map Prod.fst))))))) ∧
  (∀ (s0 : State) x c before a v ids after, SMap.find s0.queues s0.req.m = some x → s0.ctxAt x.ctx = some c → c.runs = true →
    x.waits = before ++ .marker a v ids :: after →
    let s := s0.focus { ctx := x.ctx, vc := 0, th := 0 }
    (∀ w ∈ before, ∀ a' v' ids', w = .marker a' v' ids' → ¬LaunchesDone s ids') → LaunchesDone s ids →
    exec .markerComplete s0 = .next ((withSlot s s0.req.m { x with waits := before ++ after }).completionWord a v)) ∧
  (∀ (s0 : State) x c o a v before after, SMap.find s0.queues s0.req.m = some x → s0.ctxAt x.ctx = some c → c.halted = false →
    c.preempt ≠ .saved → x.waits = before ++ .unload o a v :: after → (∀ w ∈ before, ∀ o' a' v', w ≠ .unload o' a' v') →
    (∀ w ∈ after, w ≠ .unload o a v) →
    ((∃ e ∈ c.launches, e.2.queue = s0.req.m ∧ e.2.join ≠ 0) → exec .unloadTakesEffect s0 = .next s0) ∧
    ((∀ e ∈ c.launches, e.2.queue = s0.req.m → e.2.join = 0) →
      let s := withSlot (s0.focus { ctx := x.ctx, vc := 0, th := 0 }) s0.req.m
        { x with refs := x.refs.filter (fun r => decide (r ≠ o)), waits := before ++ after }
      let free := s0.req.flag = true ∧ (∀ e ∈ s.queues, e.2.ctx = x.ctx → o ∉ e.2.refs) ∧ ∀ y ∈ s.unmapped, y.ctx = x.ctx → o ∉ y.refs
      (free → exec .unloadTakesEffect s0 = .next ({ s with ctx := objectFreed s.ctx o }.completionWord a v)) ∧
      (¬free → exec .unloadTakesEffect s0 = .next (s.completionWord a v))))

/-- Kicks, launch packets and references to objects: `LaunchKicks`, `LaunchPackets`, `LaunchReferences`. Where the spec is silent it
states the choices of the model: log 15, log 28, log 31, log 32. -/
def Obligations.LaunchQueues : Prop := Sys2Proof.Claims.LaunchKicks ∧ Sys2Proof.Claims.LaunchPackets ∧ Sys2Proof.Claims.LaunchReferences

/-! ## Firings -/

namespace Sys2Proof.Claims

/-- A record waits so long for priority (R333): the effective priority of something that waits since a cycle. -/
def effective (s : State) (launch since : Nat) : Nat :=
  min 7 ((((SMap.find s.ctx.launches launch).map Launch.prio).getD 0) + (s.now - since) / 2 ^ s.ctx.agesh.toNat)

/-- The thread in focus may take up work: it is free, its context runs and is not pre-empted (R9, R385). -/
def MayTake (s : State) : Prop :=
  s.ctx.runs = true ∧ s.ctx.preempt = .none ∧ s.ctx.hasVc s.vc.id = true ∧ s.thr.id < 8 ∧ s.thr.status = .free

/-- A station can fire (R62, R326). -/
def CanFire (s : State) (x : Station) : Prop :=
  x.recs ≠ [] ∧ (x.recs.length = 32 ∨ x.expired = true ∨ (∃ r ∈ x.recs, s.ctx.gather.toNat ≤ s.now - r.entered) ∨
    ∀ r ∈ s.vc.deque, placeStation s.now r s.vc.stations = none)

/-- The cycle since which the oldest record of a station waits. -/
def oldest (x : Station) : Nat := (x.recs.map DRec.since).foldl min ((x.recs.map DRec.since).headD 0)

/-- Nothing that the core could take up comes before something with this priority and wait: a station that can fire, a parked firing. -/
def First (s : State) (prio since : Nat) : Prop :=
  (∀ x ∈ s.vc.stations, CanFire s x → effective s x.launch (oldest x) < prio ∨ (effective s x.launch (oldest x) = prio ∧ since ≤ oldest x)) ∧
  (∀ p ∈ s.vc.parks, effective s p.thr.launch p.since < prio ∨ (effective s p.thr.launch p.since = prio ∧ since ≤ p.since))

/-- The registers at the first instruction of a firing (R327). -/
def FiringStart (t t' : Thread) (framebase : W64) (x : Station) (firing : Nat) : Prop :=
  t'.status = .running ∧ t'.id = t.id ∧ t'.apc = BitVec.ofNat 64 x.code ∧ t'.launch = x.launch ∧ t'.firing = firing ∧
    t'.lanes = x.recs.map (fun r => ⟨r.task, false⟩) ∧
    (∀ n, n < 64 → t'.getS n = if n = 1 then BitVec.ofNat 64 x.code else if n = 2 then BitVec.ofNat 64 x.recs.length
      else if n = 3 then framebase else 0) ∧
    (∀ n k, n < 64 → k < 32 → (t'.getV n).lane k = if n = 0 then BitVec.ofNat 32 ((x.recs[k]?.map fun r => r.task.frame).getD 0)
      else if n = 1 then BitVec.ofNat 32 ((x.recs[k]?.map fun r => r.task.key).getD 0) else 0) ∧
    (∀ n, n < 8 → t'.getM n = if n = 0 then BitVec.ofNat 32 (2 ^ x.recs.length - 1) else 0) ∧
    (∀ n, n < 8 → t'.getQ n = [] ∧ t'.getK n = Token.zero) ∧ (∀ n, n < 32 → t'.getL n = none) ∧
    t'.handler = false ∧ t'.fpflags = 0 ∧ t'.fpen = 0 ∧ t'.rmode = 0 ∧ t'.stores = [] ∧ t'.replay = [] ∧ t'.ePath = [] ∧ t'.hprio = 0

/-- A record's task may run on the core in focus: its number is below the launch's Nv (R2). -/
def MayRunHere (s : State) (r : DRec) : Prop := ∃ l, SMap.find s.ctx.launches r.launch = some l ∧ s.vc.id < l.nv

/-- The core in focus serves a named queue (R330, R331): its entry holds the bytes `bs`, and the queue's oldest record may run there. -/
def Serves (s : State) (q : Nat) (bs : List Byte) : Prop :=
  s.hwRead (s.ctx.qtable.toNat + 64 * q) 64 true = some bs ∧ fld bs 24 2 ≤ s.vc.id ∧ s.vc.id < fld bs 24 2 + fld bs 26 2 ∧
    ∃ r rest, s.ctx.queue q = r :: rest ∧ MayRunHere s r

/-- The entries of named queues that a search has read: A is set in their leaves, and the reads count as messages (R25, R361). -/
def searched (s : State) (qs : List Nat) : State := qs.foldl (fun s q => s.coreSaw (s.ctx.qtable.toNat + 64 * q) 64) s

/-- Where the k-th record of a named queue stands, of which p have been popped, by the bytes of its entry (R330, R331). -/
def queueSlot (bs : List Byte) (p k : Nat) : Nat :=
  if k < p + fld bs 8 4 ∨ fld bs 12 4 = 0 then fld bs 0 8 + 32 * (k % fld bs 8 4) else fld bs 16 8 + 32 * (k % fld bs 12 4)

/-- The oldest record of a named queue popped (R330, R331): it is read, the ring takes in the head of the spill area, and POPPED is written. -/
def queuePopped (s : State) (q : Nat) (bs : List Byte) : State :=
  let p := fld bs 40 8
  let k := p + fld bs 8 4
  let s0 := s.coreSaw (queueSlot bs p p) 32
  let s1 := match (s.ctx.queue q)[fld bs 8 4]? with
    | some r => (s0.coreSaw (queueSlot bs p k) 32).coreWrite (queueSlot bs (p + 1) k) r.task.bytes
    | none => s0
  let s2 := s1.coreWrite (s1.ctx.qtable.toNat + 64 * q + 40) (leBytes 8 ((fld bs 40 8 + 1) % 2 ^ 64))
  { s2 with ctx := { s2.ctx with queued := SMap.put s2.ctx.queued q ((s2.ctx.queue q).drop 1) } }

/-- A record that the core in focus has got: it enters its deque as a group of its own, and waits from now on (R333). -/
def takenIn (s : State) (r : DRec) : State :=
  let s1 := s.changeDeque s.vc.id fun v =>
    { v with deque := v.deque ++ [{ r with group := s.nextId, since := s.now, entered := 0, slot := none }] }
  { s1 with nextId := s1.nextId + 1 }

/-- A record as it was enqueued: without where the core keeps it. -/
def bare (r : DRec) : DRec := { r with slot := none, entered := 0 }

/-- The records of a core that no thread has taken up. -/
def waitingRecs (v : VCore) : List DRec := v.deque ++ (v.stations.map Station.recs).flatten

end Sys2Proof.Claims

/-- R304: the fields of a record in its 32 bytes, each way. -/
def Sys2Proof.Claims.RecordLayout : Prop :=
  ∀ bs : List Byte, bs.length = 32 → fld bs 0 8 / 2 ^ 57 % 8 = 0 → fld bs 0 8 % 32 = 0 →
    let t := taskOf bs
    t.bytes = bs ∧ t.rs = fld bs 0 8 / 2 ^ 60 ∧ t.restart = (fld bs 0 8).testBit 56 ∧ t.code = fld bs 0 8 % 2 ^ 56 ∧
      t.count = fld bs 8 4 % 2 ^ 20 ∧ t.fsize = fld bs 8 4 / 2 ^ 20 ∧ t.frame = fld bs 12 4 ∧ t.result = fld bs 16 4 ∧
      t.join = fld bs 20 4 ∧ t.key = fld bs 24 8

/-- R325, R328: above 1,024 records on chip the oldest move to the spill area of the core, and at 512 or fewer the oldest spilled ones
return until 768 are on chip; a change of a deque reads the records that return and writes those that it spills to their places, each access with
its messages (R25); neither that nor the gather unit drops a record. Which place of the area a record gets is the model's choice (log 55). -/
def Sys2Proof.Claims.DequeSpills : Prop :=
  (∀ (v : VCore) (size : Nat),
    let u := v.respill size
    { u with deque := v.deque } = v ∧ u.deque.map bare = v.deque.map bare ∧
    (512 < v.onChip.length → v.onChip.length ≤ 1024 → u = v) ∧
    (v.onChip.length ≤ 512 → u.onChip.length = min 768 v.deque.length ∧
      u.deque.filter (fun r => r.slot.isSome) = (v.deque.filter fun r => r.slot.isSome).drop (768 - v.onChip.length)) ∧
    (1024 < v.onChip.length → v.spillBase ≠ 0 → v.deque.length ≤ 1024 + size → v.slots.Nodup → (∀ k ∈ v.slots, k < size) →
      u.onChip = v.onChip.drop (v.onChip.length - 1024) ∧ u.slots.Nodup ∧ (∀ k ∈ u.slots, k < size) ∧
        ∀ (i : Nat) (r : DRec), v.deque[i]? = some r → r.slot.isSome = true → u.deque[i]? = some r)) ∧
  (∀ (v : VCore) (size now : Nat), (v.deque.map DRec.group).Pairwise (· ≤ ·) →
    List.Perm ((waitingRecs (v.gather size now)).map bare) ((waitingRecs v).map bare)) ∧
  (∀ (s : State) (n : Nat) (f : VCore → VCore) x y, s.vcAt n = some x →
    let s1 := s.onVc n fun v => ((f v).respill s.ctx.spillsize.toNat).gather s.ctx.spillsize.toNat (s.nowOf n)
    let at_ := fun r : DRec => y.spillBase + 32 * r.slot.getD 0
    s1.vcAt n = some y → s.changeDeque n f = (y.deque.filter fun r => r.slot.isSome && !x.deque.contains r).foldl
      (fun u r => (u.hwTraffic y.phys true (at_ r)).hwWrite (at_ r) r.task.bytes)
      ((x.deque.filter fun r => r.slot.isSome && !y.deque.contains r).foldl
        (fun u r => (u.hwTraffic y.phys false (at_ r)).markLeaf (at_ r) false) s1))

/-- R2, R317, R325 to R327, R329, R331, R333, R385: a station that can fire and comes first starts a firing of all its records on a free thread,
with the registers of R327, and is free; its wait limit makes it count as expired; a parked firing that comes first is taken up; an idle
core pops the lowest named queue that it serves, else takes the oldest stealable record of another core whose task may run on it;
`RecordLayout` and `DequeSpills` say how records lie in memory and on chip. Where the spec is silent it states the choices of the model:
log 15, log 28, log 55. -/
def Obligations.FiringSteps : Prop :=
  Sys2Proof.Claims.RecordLayout ∧ Sys2Proof.Claims.DequeSpills ∧
  (∀ (s0 : State) x, (here s0).vc.stations[s0.req.n]? = some x → MayTake (here s0) → CanFire (here s0) x →
    (First (here s0) (effective (here s0) x.launch (oldest x)) (oldest x) →
      ∃ t, FiringStart (here s0).thr t (here s0).ctx.framebase x (here s0).nextId ∧ exec .stationFire s0 = .next
        (({ here s0 with thr := t, nextId := (here s0).nextId + 1 }).changeDeque (here s0).vc.id fun v =>
          { v with stations := v.stations.set s0.req.n Station.empty })) ∧
    (¬First (here s0) (effective (here s0) x.launch (oldest x)) (oldest x) → exec .stationFire s0 = .next s0)) ∧
  (∀ (s0 : State) x, (here s0).vc.stations[s0.req.n]? = some x → ¬(MayTake (here s0) ∧ CanFire (here s0) x) →
    exec .stationFire s0 = .next s0) ∧
  (∀ (s0 : State) x, (here s0).vc.stations[s0.req.n]? = some x → (here s0).ctx.runs = true → (here s0).ctx.hasVc (here s0).vc.id = true →
    (∃ r ∈ x.recs, (here s0).ctx.gather.toNat ≤ (here s0).now - r.entered) →
    exec .gatherLimitExpiry s0 = .next { here s0 with
      vc := { (here s0).vc with stations := (here s0).vc.stations.set s0.req.n { x with expired := true } } }) ∧
  (∀ (s0 : State) p, (here s0).vc.parks[s0.req.n]? = some p → MayTake (here s0) →
    First (here s0) (effective (here s0) p.thr.launch p.since) p.since →
    exec .parkedFiringResume s0 = .next { here s0 with
      thr := { p.thr with id := (here s0).thr.id, status := .running, singleStep := (here s0).thr.singleStep }
      vc := { (here s0).vc with parks := (here s0).vc.parks.eraseIdx s0.req.n } }) ∧
  (∀ s0 : State,
    let s := s0.focus { s0.req.t with th := 0 }
    let idle := s.ctx.runs = true ∧ s.ctx.preempt = .none ∧ s.ctx.hasVc s.vc.id = true ∧ s.anyFree = true ∧ s.vc.deque = [] ∧
      ∀ x ∈ s.vc.stations, x.recs = []
    let full := (s.ctx.queued.filter fun e => !e.2.isEmpty).map Prod.fst
    let stealable := fun (v : VCore) (r : DRec) => sameDomain r.domain v.phys s.vc.phys = true ∧ MayRunHere s r
    (¬idle → exec .lookForWork s0 = .next s0) ∧
    (idle →
      (∀ before q rest bs r tail, full = before ++ q :: rest → (∀ p ∈ before, ∀ b, ¬Serves s p b) → Serves s q bs → s.ctx.queue q = r :: tail →
        exec .lookForWork s0 = .next (takenIn (queuePopped (searched s (before ++ [q])) q bs) r)) ∧
      ((∀ p ∈ full, ∀ b, ¬Serves s p b) → ∀ v, SMap.find s.ctx.vcores s0.req.n = some v →
        (s0.req.n = s.vc.id ∨ (∀ r ∈ v.deque, ¬stealable v r) → exec .lookForWork s0 = .next (searched s full)) ∧
        (∀ before r after, s0.req.n ≠ s.vc.id → v.deque = before ++ r :: after → (∀ x ∈ before, ¬stealable v x) → stealable v r →
          exec .lookForWork s0 = .next
            (takenIn ((searched s full).changeDeque s0.req.n fun y => { y with deque := y.deque.eraseIdx before.length }) r)))))

/-! ## Objects -/

namespace Sys2Proof.Claims

/-- A state that has answered a request of the host. -/
def replied (s : State) (r : Reply) : State := { s with replies := s.replies ++ [r] }

/-- A load that fails with a status: nothing is placed, and nothing changes but the answer (R91). -/
def LoadFails (s : State) (n : Nat) : Prop := exec .objectLoad s = .next (replied s (.loaded n 0 []))

/-- BAD_HEADER and BAD_GENERATION (R72, R91). -/
def HeaderBad (f : List Byte) : Prop :=
  f.length < 64 ∨ fld f 0 4 ≠ 0x014F4E5A ∨ fld f 4 2 ≠ 1 ∨ fld f 6 2 ≠ 64 ∨ fld f 24 4 ≠ 48 ∨ 2 ≤ fld f 12 4 ∨ fld f 40 24 ≠ 0
def GenerationBad (f : List Byte) : Prop := fld f 8 4 = 0 ∨ 4 < fld f 8 4

/-- The bytes of a requested object. -/
def fileOf (s : State) : List Byte := s.req.l1.map (BitVec.ofNat 8)

/-- The section of entry i of the section table (R73). -/
def fileSec (f : List Byte) (i : Nat) : Sec :=
  let e := (f.drop (fld f 20 4 + 48 * i)).take 48
  { index := i
    kind := fld e 0 4
    flags := fld e 4 4
    offset := fld e 8 8
    size := fld e 16 8
    address := fld e 24 8
    align := fld e 32 4
    link := fld e 36 4
    name := fld e 40 4
    info := fld e 44 4
    body := if fld e 0 4 = 4 then [] else (f.drop (fld e 8 8)).take (fld e 16 8) }
def fileSecs (f : List Byte) : List Sec := (List.range (fld f 16 4)).map (fileSec f)

/-- The section table is not where the header says, or not of its size. -/
def TableBad (f : List Byte) : Prop :=
  fld f 16 4 = 0 ∨ 65535 < fld f 16 4 ∨ fld f 20 4 % 8 ≠ 0 ∨ f.length < fld f 20 4 + 48 * fld f 16 4 ∨ fld f 32 8 ≠ f.length

/-- A section of a type stands at an index. -/
def IsAt (secs : List Sec) (i kind : Nat) : Prop := ∃ x, secs[i]? = some x ∧ x.kind = kind

/-- BAD_SECTION of R73, R74 and R76 for a section of a known type. -/
def SecBad (n : Nat) (secs : List Sec) (x : Sec) : Prop :=
  x.flags % 8 ≠ (if x.kind = 1 then 3 else if x.kind = 2 ∨ x.kind = 5 ∨ x.kind = 6 then 1 else if x.kind = 3 ∨ x.kind = 4 then 5 else 0) ∨
  32 ≤ x.flags ∨ (x.flags.testBit 4 = true ∧ x.kind ≠ 3 ∧ x.kind ≠ 4) ∨ (x.kind ≠ 4 ∧ n < x.offset + x.size) ∨ 30 < x.align ∨
  (x.flags.testBit 4 = true ∧ (0x3C0000 < x.address + x.size ∨ x.address % 2 ^ x.align ≠ 0)) ∨ (x.flags.testBit 4 = false ∧ x.address ≠ 0) ∨
  (x.kind = 9 ∧ ((¬∃ y, secs[x.link]? = some y ∧ ((1 ≤ y.kind ∧ y.kind ≤ 13 ∧ y.flags.testBit 0 = true) ∨ y.kind = 12)) ∨
    ¬IsAt secs (x.info / 256 % 65536) 7 ∨ x.info / 2 ^ 24 ≠ 0)) ∨
  (x.kind = 7 ∧ (¬IsAt secs x.link 8 ∨ 256 ≤ x.info)) ∨ (x.kind ≠ 9 ∧ x.kind ≠ 7 ∧ (x.link ≠ 0 ∨ 256 ≤ x.info))

/-- What a section fails a load with (R74, R75). -/
def SecFails (f : List Byte) (x : Sec) (n : Nat) : Prop :=
  ((1 ≤ x.kind ∧ x.kind ≤ 13) ∧ SecBad f.length (fileSecs f) x ∧ n = 3) ∨ (¬(1 ≤ x.kind ∧ x.kind ≤ 13) ∧ x.flags.testBit 3 = true ∧ n = 4)

/-- The first section that fails a load, and its status. -/
def TableFails (f : List Byte) (n : Nat) : Prop :=
  ∃ before x after, fileSecs f = before ++ x :: after ∧ (∀ y ∈ before, ∀ m, ¬SecFails f y m) ∧ SecFails f x n

/-- STRSEC names no STRTAB, or the file has not exactly one IMAGES section. -/
def NamesBad (f : List Byte) : Prop :=
  ¬IsAt (fileSecs f) (fld f 28 4) 8 ∨ ((fileSecs f).filter fun x => decide (x.kind = 11)).length ≠ 1

/-- The contents of the IMAGES section. -/
def imagesOf (f : List Byte) : List Byte := (((fileSecs f).find? fun x => decide (x.kind = 11)).map Sec.body).getD []

/-- The features of the context's partition. -/
def featuresOf (s : State) : Nat := (s.parts[s.ctx.part]?.map Part.features).getD 0

/-- A section of the image, or a common one. -/
def Ours (im : ObjImage) (x : Sec) : Prop := 1 ≤ x.kind ∧ x.kind ≤ 13 ∧ (x.info % 256 = im.index ∨ x.info % 256 = 255)

/-- BAD_SECTION of a handler table (R90): of a broken one, log 30, or a TYPE that stands twice. -/
def HandlersBad (im : ObjImage) (secs : List Sec) : Prop :=
  (∃ x ∈ secs, Ours im x ∧ x.kind = 12 ∧
    (x.body.length % 16 ≠ 0 ∨ ∃ k, k < x.body.length / 16 ∧ (fld (x.body.drop (16 * k)) 4 4 ≠ 0 ∨ fld (x.body.drop (16 * k)) 0 4 = 0))) ∨
  ¬(((secs.filter fun x => x.of im && decide (x.kind = 12)).map fun x =>
      (List.range (x.body.length / 16)).map fun k => fld (x.body.drop (16 * k)) 0 4).flatten).Nodup

/-- BAD_SECTION of a symbol table (log 30). -/
def SymtabBad (im : ObjImage) (secs : List Sec) : Prop :=
  ∃ x ∈ secs, Ours im x ∧ x.kind = 7 ∧ (x.body.length % 24 ≠ 0 ∨ ∃ k, k < x.body.length / 24 ∧
    (fld (x.body.drop (24 * k)) 22 2 ≠ 0 ∨ 2 ≤ fld (x.body.drop (24 * k)) 20 1 ∨ 6 ≤ fld (x.body.drop (24 * k)) 21 1))

/-- The symbols of the image, table by table. -/
def symbolsOf (im : ObjImage) (secs : List Sec) : List RawSym :=
  ((secs.filter fun x => x.of im && decide (x.kind = 7)).map (symsOf secs)).flatten

/-- Two ranges share a byte. -/
def Share (a n b m : Nat) : Prop := a < b + m ∧ b < a + n

/-- NEAR_CONFLICT (R76). -/
def NearMeets (c : Ctx) (near : List Place) : Prop :=
  ∃ p ∈ near, p.sec.size ≠ 0 ∧ ∃ o ∈ c.objects, ∃ r ∈ o.nears, r.2 ≠ 0 ∧ Share p.addr p.sec.size r.1 r.2

/-- A page has the permissions that R76 asks for a section's type; W = 1 for LINKAGE is log 30. -/
def PageFits (s : State) (kind va : Nat) : Prop :=
  ∃ pte lv pa, s.walk va = .leaf pte lv pa ∧ (kind = 1 → pte.testBit 4 = true ∧ pte.testBit 3 = false) ∧
    (kind = 2 ∨ kind = 5 → pte.testBit 3 = false) ∧ (kind ≠ 1 → kind ≠ 2 → kind ≠ 5 → pte.testBit 3 = true)

/-- Where the runtime's choice for a section is one that R76 allows, and every page of it is reached. -/
def PlaceOk (s : State) (p : Place) : Prop :=
  p.lsize ≤ 40 ∧ p.addr % 2 ^ p.lsize = 0 ∧ p.addr % 2 ^ p.sec.align = 0 ∧ 0x1000000 ≤ p.addr ∧ p.addr + 2 ^ p.lsize ≤ 2 ^ 56 ∧
    (∀ e ∈ s.ctx.holdings, ¬Share p.addr (2 ^ p.lsize) e.2.base (2 ^ e.2.lsize)) ∧
    ∀ k, k < max 1 ((p.sec.size + 65535) / 65536) →
      PageFits s p.sec.kind (p.addr + 65536 * k) ∧ ∃ b, s.hwAddr (p.addr + 65536 * k) = .ok b

/-- The holding of a section outside near memory (R76, R95). -/
def placedHolding (c : Ctx) (eager : Bool) (p : Place) : Holding where
  base := p.addr
  lsize := p.lsize
  cls := if p.sec.kind = 3 ∨ p.sec.kind = 4 then .exclusive else if p.sec.kind = 6 ∧ eager = false then .common else .sealed
  holder := if p.sec.kind = 3 ∨ p.sec.kind = 4 then 0x20000 + c.hosts.headD 0 else 0x30000
  inflight := none

/-- The holdings of near blocks on every core of the context. -/
def nearHoldings (c : Ctx) (near : List Place) : List Holding :=
  ((List.range c.nmax).map fun n => (nearBlocks near).map (nearHolding n)).flatten

/-- EAGER (R72). -/
def eagerOf (f : List Byte) : Bool := (fld f 12 4).testBit 0

/-- What relocation looks at. -/
def linkEnv (s : State) (f : List Byte) : LinkEnv where
  secs := fileSecs f
  globals := (s.ctx.objects.map Obj.globals).flatten
  stub := s.ctx.stub
  eager := eagerOf f

/-- The object that a load registers (R77, R81, R90, R91). -/
def loadedObj (s : State) (im : ObjImage) (secs : List Sec) (far near ps : List Place) (ks ns : List Nat) (pool : Option Sec) : Obj :=
  let handlers := if im.kind = 0 then [] else ((ps.filter fun p => decide (p.sec.kind = 12)).map fun p => handlerRows p.bytes).flatten
  { handle := s.nextId % 2 ^ 32
    entries := if im.kind = 0 then entriesOf (far ++ near) (symbolsOf im secs) else handlers.map Prod.snd
    pool := (pool.bind fun x => (far.find? fun p => decide (p.sec.index = x.index)).map Place.addr).getD 0
    poolCount := (pool.map fun x => x.size / 32).getD 0
    handlers := handlers
    globals := globalsOf (far ++ near) (symbolsOf im secs)
    linkages := ((far.zip ks).filter fun x => decide (x.1.sec.kind = 6)).map Prod.snd
    holdings := ks ++ ns
    nears := near.map fun p => (p.addr, p.sec.size) }

/-- The state after a load: the sections written, the object registered, and ctl.spillsize raised to what its notes ask for (R85). -/
def loadedState (s : State) (c : Ctx) (o : Obj) (notes : Notes) (ps : List Place) : State :=
  let s1 := ps.foldl State.putPlace { s with
    ctx := { c with
      objects := c.objects ++ [o]
      spillsize := if c.spillsize.toNat < notes.spillMin then BitVec.ofNat 64 notes.spillMin else c.spillsize }
    nextId := s.nextId + 1 }
  { s1 with replies := s1.replies ++ [.loaded 0 o.handle notes.buildId] }

/-- A native image that the loader does not discard (R88). -/
def Usable (features : Nat) (i : ObjImage) : Prop := i.kind = 0 ∧ i.generation ≤ 4 ∧ ∀ b, features.testBit b = false → i.features.testBit b = false

/-- BAD_SECTION of an IMAGES section: a reserved KIND (R88), or what log 30 names. -/
def ImagesBad (bs : List Byte) : Prop :=
  bs.length % 16 ≠ 0 ∨ (∃ i, i < bs.length / 16 ∧ (2 ≤ (objImage bs i).kind ∨ (objImage bs i).generation = 0 ∨ fld (bs.drop (16 * i)) 4 4 ≠ 0)) ∨
    ∃ i j, i < j ∧ j < bs.length / 16 ∧ (objImage bs i).kind = 1 ∧ (objImage bs j).kind = 1

/-- The bytes that a note takes up, and what the first note fails a load with (R85; of a broken one, log 30). -/
def noteSize (bs : List Byte) : Nat := 16 + (fld bs 8 4 + 7) / 8 * 8
def NoteFails (bs : List Byte) (n : Nat) : Prop :=
  let broken := bs.length < noteSize bs ∨ 2 ≤ fld bs 4 4 ∨ fld bs 12 4 ≠ 0
  (broken ∧ n = 3) ∨ (¬broken ∧
    ((fld bs 0 4 = 2 ∧ (fld bs 8 4 = 0 ∨ 32 < fld bs 8 4) ∧ n = 3) ∨ ((fld bs 0 4 = 3 ∨ fld bs 0 4 = 4) ∧ fld bs 8 4 ≠ 4 ∧ n = 3) ∨
      (fld bs 0 4 = 4 ∧ fld bs 8 4 = 4 ∧ Config.firmwareVersion < fld bs 16 4 ∧ n = 5) ∨
      ((fld bs 0 4 = 0 ∨ 4 < fld bs 0 4) ∧ fld bs 4 4 = 1 ∧ n = 5)))

/-- What a note that is read says. -/
def noted (bs : List Byte) (a : Notes) : Notes :=
  { buildId := if fld bs 0 4 = 2 then (bs.drop 16).take (fld bs 8 4) else a.buildId
    spillMin := if fld bs 0 4 = 3 then max a.spillMin (fld bs 16 4) else a.spillMin }

/-- A signed 64-bit number that fits 32 bits. -/
def Fits32 (x : Int) : Prop := -2147483648 ≤ x ∧ x ≤ 2147483647

/-- The word at a relocation's offset. -/
def wordAt (p : Place) (r : Reloc) (k : Nat) : Nat := fld p.bytes (r.off + k) 4

/-- S + A, and S + A - P, modulo 2^64. -/
def sumSA (r : Reloc) (v : Nat) : W64 := BitVec.ofNat 64 v + BitVec.ofInt 64 r.addend
def sumSAP (p : Place) (r : Reloc) (v : Nat) : W64 := sumSA r v - BitVec.ofNat 64 (p.addr + r.off)

/-- The places with the bytes of a section replaced from an offset on: those of a ZERO section, of which the file holds none, are zero. -/
def patched (ps : List Place) (sec off : Nat) (xs : List Byte) : List Place :=
  ps.map fun p =>
    if p.sec.index = sec then
      { p with bytes := p.bytes.take off ++ List.replicate (off - p.bytes.length) 0 ++ xs ++ p.bytes.drop (off + xs.length) }
    else p

/-- What a relocation writes, where the patched section has room for it and no earlier relocation has written one of its bytes. -/
def Writes (e : LinkEnv) (ps : List Place) (before : List (Nat × Nat × Nat)) (r : Reloc) (p : Place) (off : Nat) (xs : List Byte) : Prop :=
  let clash := p.sec.size < off + xs.length ∨ ∃ d ∈ before, d.1 = r.sec ∧ Share off xs.length d.2.1 d.2.2
  (clash → applyReloc e ps before r = .error 7) ∧
  (¬clash → applyReloc e ps before r = .ok (patched ps r.sec off xs, (r.sec, off, xs.length) :: before))

/-- The entry of R94: TARGET, SYMBOL and STATE. -/
def linkBytes (target sym state : Nat) : List Byte := leBytes 8 target ++ leBytes 4 sym ++ leBytes 4 state

end Sys2Proof.Claims

/-- R72 to R76, R88 to R91: OBJECT_LOAD checks in the order of R91 and reports the first failure, with nothing placed or changed; a load
that passes every check writes its sections, makes their holdings, registers the object under its new handle and answers LOADED. A context
that is killed, or saved off its cores, takes no object (log 30). -/
def Sys2Proof.Claims.LoadOrder : Prop :=
  (∀ s : State, (∀ c, s.ctxAt s.req.t.ctx = some c → c.killed = true ∨ c.preempt = .saved) → exec .objectLoad s = .next (replied s .refused)) ∧
  (∀ (s0 : State) c, s0.ctxAt s0.req.t.ctx = some c → c.killed = false → c.preempt ≠ .saved →
    let s := s0.focus { s0.req.t with th := 0 }
    let f := fileOf s0
    let secs := fileSecs f
    (HeaderBad f → LoadFails s0 1) ∧
    (¬HeaderBad f → GenerationBad f → LoadFails s0 2) ∧
    (¬HeaderBad f → ¬GenerationBad f → TableBad f → LoadFails s0 3) ∧
    (¬HeaderBad f → ¬GenerationBad f → ¬TableBad f →
      (∀ n, TableFails f n → LoadFails s0 n) ∧
      ((∀ n, ¬TableFails f n) →
        (NamesBad f → LoadFails s0 3) ∧
        (¬NamesBad f →
          (∀ n, notesOf secs = .error n → LoadFails s0 n) ∧
          (∀ notes, notesOf secs = .ok notes →
            (∀ n, selectImage (featuresOf s) (imagesOf f) = .error n → LoadFails s0 n) ∧
            (∀ im, selectImage (featuresOf s) (imagesOf f) = .ok im →
              (∀ n, poolOf im secs = .error n → LoadFails s0 n) ∧
              (∀ pool, poolOf im secs = .ok pool →
                let far := farPlaces im secs s0.req.l2
                let near := nearPlaces im secs
                (HandlersBad im secs ∨ SymtabBad im secs → LoadFails s0 3) ∧
                (¬(HandlersBad im secs ∨ SymtabBad im secs) →
                  (∀ n, profileCheck im secs (symbolsOf im secs) = .error n → LoadFails s0 n) ∧
                  (profileCheck im secs (symbolsOf im secs) = .ok () →
                    (NearMeets s.ctx near → LoadFails s0 10) ∧
                    (¬NearMeets s.ctx near →
                      let fits := (∀ p ∈ far, PlaceOk s p) ∧ far.Pairwise fun p q => ¬Share p.addr (2 ^ p.lsize) q.addr (2 ^ q.lsize)
                      let added := Ctx.addHoldings false (far.map (placedHolding s.ctx (eagerOf f))) s.ctx
                      (¬fits ∨ added = none → LoadFails s0 11) ∧
                      (∀ c1 ks, fits → added = some (c1, ks) →
                        (Ctx.addHoldings true (nearHoldings s.ctx near) c1 = none → LoadFails s0 11) ∧
                        (∀ c2 ns, Ctx.addHoldings true (nearHoldings s.ctx near) c1 = some (c2, ns) →
                          let linked := relocate (linkEnv s f) (relocsOf im secs) (far ++ near ++ handlerPlaces im secs)
                          (∀ n, linked = .error n → LoadFails s0 n) ∧
                          (∀ ps, linked = .ok ps → exec .objectLoad s0 = .next
                            (loadedState s c2 (loadedObj s im secs far near ps ks ns pool) notes ps))))))))))))))

/-- R80, R85, R88: the steps of `LoadOrder` that may fail of themselves: the notes of a section are read one after the other; the image
selected is the usable native image of the highest PREF, among equals the lowest number, else the portable one, else NO_IMAGE; the pool is
the image's own POOL section, else the common one, and two candidates fail the load. -/
def Sys2Proof.Claims.LoadSteps : Prop :=
  (∀ (m : Nat) (bs : List Byte) (a : Notes), bs ≠ [] →
    (∀ n, NoteFails bs n → noteLoop (m + 1) bs a = .error n) ∧
    ((∀ n, ¬NoteFails bs n) → noteLoop (m + 1) bs a = noteLoop m (bs.drop (noteSize bs)) (noted bs a))) ∧
  (∀ m a, noteLoop m [] a = .ok a) ∧
  (∀ features bs,
    (ImagesBad bs → selectImage features bs = .error 3) ∧
    (¬ImagesBad bs → (∀ j, j < bs.length / 16 → ¬Usable features (objImage bs j) ∧ (objImage bs j).kind ≠ 1) → selectImage features bs = .error 6) ∧
    (∀ n, selectImage features bs = .error n → ImagesBad bs ∨ ∀ j, j < bs.length / 16 → ¬Usable features (objImage bs j) ∧ (objImage bs j).kind ≠ 1) ∧
    (∀ i, selectImage features bs = .ok i →
      i.index < bs.length / 16 ∧ i = objImage bs i.index ∧
      ((Usable features i ∧ ∀ j, j < bs.length / 16 → Usable features (objImage bs j) →
          (objImage bs j).pref < i.pref ∨ ((objImage bs j).pref = i.pref ∧ i.index ≤ j)) ∨
        (i.kind = 1 ∧ ∀ j, j < bs.length / 16 → ¬Usable features (objImage bs j))))) ∧
  (∀ (im : ObjImage) (secs : List Sec),
    let own := secs.filter fun x => decide (x.kind = 5 ∧ x.info % 256 = im.index)
    let may := if own = [] then secs.filter (fun x => decide (x.kind = 5 ∧ x.info % 256 = 255)) else own
    (may = [] → poolOf im secs = .ok none) ∧
    (∀ x, may = [x] → x.size ≤ 131072 → poolOf im secs = .ok (some x)) ∧
    (∀ x, may = [x] → 131072 < x.size → poolOf im secs = .error 3) ∧
    (2 ≤ may.length → poolOf im secs = .error 3))

/-- R76, R369: a section outside near memory goes to the address that the runtime chose, in a block of the least power of two of at least
4 KiB, and its holding takes the lowest free number; a section in near memory is written into, or zeroed in, the slice of every core of the
context, and its holdings are the smallest blocks that cover it. A ZERO section is zeroed before what relocations put into it is written. The writes
set A and D in the leaves (R361). -/
def Sys2Proof.Claims.Placement : Prop :=
  (∀ (im : ObjImage) (secs : List Sec) (at_ : List Nat) p, p ∈ farPlaces im secs at_ →
    p.sec ∈ secs ∧ Ours im p.sec ∧ p.sec.flags.testBit 0 = true ∧ p.sec.flags.testBit 4 = false ∧ p.bytes = p.sec.body ∧
      (p.sec.size ≤ 2 ^ 40 → 12 ≤ p.lsize ∧ p.sec.size ≤ 2 ^ p.lsize ∧ (p.lsize = 12 ∨ 2 ^ (p.lsize - 1) < p.sec.size)) ∧
      (2 ^ 40 < p.sec.size → 40 < p.lsize)) ∧
  (∀ (im : ObjImage) (secs : List Sec),
    (nearPlaces im secs).map (fun p => (p.sec, p.addr, p.bytes)) =
      (secs.filter fun x => x.of im && x.flags.testBit 0 && x.flags.testBit 4).map fun x => (x, x.address, x.body)) ∧
  (∀ (c : Ctx) (h : Holding),
    ((∃ e ∈ c.holdings, Share h.base (2 ^ h.lsize) e.2.base (2 ^ e.2.lsize)) ∨ (∀ k, k < 4096 → SMap.find c.holdings k ≠ none) →
      c.addHolding false h = none) ∧
    (∀ k, k < 4096 → (∀ e ∈ c.holdings, ¬Share h.base (2 ^ h.lsize) e.2.base (2 ^ e.2.lsize)) → SMap.find c.holdings k = none →
      (∀ j, j < k → SMap.find c.holdings j ≠ none) →
      c.addHolding false h = some ({ c with holdings := SMap.put c.holdings k h }, k))) ∧
  (∀ (s : State) (p : Place), p.sec.kind = 3 → p.sec.flags.testBit 0 = true → p.sec.flags.testBit 4 = true →
    s.putPlace p = (List.range s.ctx.nmax).foldl (fun u n => u.writePhys (u.physOf n * 0x400000 + p.addr) p.bytes) s) ∧
  (∀ (s : State) (p : Place), p.sec.kind = 4 → p.sec.flags.testBit 0 = true → p.sec.flags.testBit 4 = true →
    (s.putPlace p = (List.range s.ctx.nmax).foldl (fun u n =>
      State.writePhys { u with mem := Memory.zeroN u.mem (u.physOf n * 0x400000 + p.addr) p.sec.size } (u.physOf n * 0x400000 + p.addr) p.bytes) s) ∧
    (Memory.wf s.mem → p.bytes = [] → (∀ n, n < s.ctx.nmax → s.physOf n * 0x400000 + p.addr < 0x80000000000) → ∀ a, (s.putPlace p).mem.read a =
      if ∃ n, n < s.ctx.nmax ∧ s.physOf n * 0x400000 + p.addr ≤ a ∧ a < s.physOf n * 0x400000 + p.addr + p.sec.size then 0 else s.mem.read a)) ∧
  (∀ (s : State) (p : Place) b, p.sec.kind = 4 → p.sec.flags.testBit 4 = false → p.sec.size ≠ 0 → p.addr % 65536 + p.sec.size ≤ 65536 →
    p.bytes = [] → s.hwAddr p.addr = .ok b → b < 0x80000000000 →
    s.putPlace p = State.markLeaf { s with mem := Memory.zeroN s.mem b p.sec.size } p.addr true) ∧
  (∀ (s : State) (p : Place), p.sec.kind ≠ 4 → p.sec.kind ≠ 12 → p.sec.flags.testBit 4 = false → p.bytes ≠ [] →
    (p.addr % 65536 + p.bytes.length ≤ 65536 → ∀ b, s.hwAddr p.addr = .ok b → s.putPlace p = (s.writePhys b p.bytes).markLeaf p.addr true) ∧
    (65536 < p.addr % 65536 + p.bytes.length → ∀ b, s.hwAddr p.addr = .ok b →
      let k := 65536 - p.addr % 65536
      s.putPlace p = ((s.writePhys b (p.bytes.take k)).markLeaf p.addr true).putPlace { p with addr := p.addr + k, bytes := p.bytes.drop k }))

/-- R77 to R79, R94, R95: relocations apply in their order, an EAGER object's linkage entries last; each is BAD_RELOC where its entry is broken
or its section is not placed (log 30), where what it would write leaves the section or meets an earlier one; an undefined symbol is the first
global of that name of the objects loaded before; a linkage entry holds the resolver stub, and under EAGER its symbol's value and BOUND. -/
def Sys2Proof.Claims.Linking : Prop :=
  (∀ (e : LinkEnv) (ps : List Place) before (r : Reloc),
    let tab := secAt e.secs r.tab
    let y := rawSym e.secs tab r.sym
    let unplaced := ∀ p ∈ ps, p.sec.index ≠ r.sec
    (r.reserved ≠ 0 ∨ tab.body.length / 24 ≤ r.sym ∨ unplaced → applyReloc e ps before r = .error 7) ∧
    (∀ p, r.reserved = 0 → r.sym < tab.body.length / 24 → ps.find? (fun p => decide (p.sec.index = r.sec)) = some p →
      (∀ n, symValue ps e.globals y = .error n → applyReloc e ps before r = .error n) ∧
      (∀ v, symValue ps e.globals y = .ok v →
        (r.kind ≠ 7 → v = none → applyReloc e ps before r = .error 8) ∧
        (∀ x kind, r.kind ≠ 7 → v = some (x, kind) →
          (∀ n, relocWrite p r x kind = .error n → applyReloc e ps before r = .error n) ∧
          (∀ off n z, relocWrite p r x kind = .ok (off, n, z) → Writes e ps before r p off (leBytes n z))) ∧
        (r.kind = 7 → p.sec.kind ≠ 6 ∨ r.off % 16 ≠ 0 → applyReloc e ps before r = .error 7) ∧
        (r.kind = 7 → p.sec.kind = 6 → r.off % 16 = 0 →
          (v = none → e.eager = true → applyReloc e ps before r = .error 8) ∧
          (v = none → e.eager = false → Writes e ps before r p r.off (linkBytes e.stub r.sym 0)) ∧
          (∀ x kind, v = some (x, kind) →
            (kind ≠ 1 → kind ≠ 3 → applyReloc e ps before r = .error 7) ∧
            (kind = 1 ∨ kind = 3 → e.eager = false → Writes e ps before r p r.off (linkBytes e.stub r.sym 0)) ∧
            (kind = 1 ∨ kind = 3 → e.eager = true → Writes e ps before r p r.off (linkBytes x r.sym 1))))))) ∧
  (∀ (ps : List Place) (globals : List Sym) (y : RawSym),
    (y.sec = 0xFFFFFFFE → symValue ps globals y = .ok (some (y.value, y.kind))) ∧
    (∀ before g after, y.sec = 0xFFFFFFFF → globals = before ++ g :: after → g.name = y.name → (∀ x ∈ before, x.name ≠ y.name) →
      symValue ps globals y = .ok (some (g.value, g.kind))) ∧
    (y.sec = 0xFFFFFFFF → (∀ x ∈ globals, x.name ≠ y.name) → symValue ps globals y = .ok none) ∧
    (∀ before p after, y.sec < 0xFFFFFFFE → ps = before ++ p :: after → p.sec.index = y.sec → p.sec.kind ≠ 12 →
      (∀ x ∈ before, x.sec.index ≠ y.sec ∨ x.sec.kind = 12) → symValue ps globals y = .ok (some ((p.addr + y.value) % 2 ^ 64, y.kind))) ∧
    (y.sec < 0xFFFFFFFE → (∀ x ∈ ps, x.sec.index ≠ y.sec ∨ x.sec.kind = 12) → symValue ps globals y = .error 7)) ∧
  (∀ e r rest ps before, applyAll e [] ps before = .ok (ps, before) ∧
    (∀ n, applyReloc e ps before r = .error n → applyAll e (r :: rest) ps before = .error n) ∧
    (∀ x, applyReloc e ps before r = .ok x → applyAll e (r :: rest) ps before = applyAll e rest x.1 x.2)) ∧
  (∀ e rs ps,
    let first := rs.filter fun r => decide (e.eager = false ∨ r.kind ≠ 7)
    let last := rs.filter fun r => decide (e.eager = true ∧ r.kind = 7)
    (∀ n, applyAll e first ps [] = .error n → relocate e rs ps = .error n) ∧
    (∀ x n, applyAll e first ps [] = .ok x → applyAll e last x.1 x.2 = .error n → relocate e rs ps = .error n) ∧
    (∀ x z, applyAll e first ps [] = .ok x → applyAll e last x.1 x.2 = .ok z → relocate e rs ps = .ok z.1)) ∧
  (∀ (im : ObjImage) (secs : List Sec) (k : Nat) (x : Sec), x ∈ secs → Ours im x → x.kind = 9 → Ours im (secAt secs x.link) →
    k < x.body.length / 24 → relocAt x k ∈ relocsOf im secs) ∧
  (∀ (x : Sec) (k : Nat), k < x.body.length / 24 →
    let e := x.body.drop (24 * k)
    relocAt x k =
      ⟨x.link, fld e 0 8, (BitVec.ofNat 64 (fld e 8 8)).toInt, fld e 16 4, fld e 20 2, fld e 22 2, x.info / 256 % 65536⟩)

/-- R78, R79: what each relocation type but ZR_LINKSLOT (`Linking`) writes, where, and the checks that make it BAD_RELOC. -/
def Sys2Proof.Claims.Relocations : Prop :=
  ∀ (p : Place) (r : Reloc) (v kind : Nat), v < 2 ^ 64 →
    (r.kind = 1 → relocWrite p r v kind = .ok (r.off, 8, (sumSA r v).toNat)) ∧
    (r.kind = 2 → patchesJ (wordAt p r 0) = true →
      ((sumSAP p r v).toInt % 4 = 0 ∧ Fits32 ((sumSAP p r v).toInt / 4) →
        relocWrite p r v kind = .ok (r.off + 4, 4, (BitVec.ofInt 32 ((sumSAP p r v).toInt / 4)).toNat)) ∧
      (¬((sumSAP p r v).toInt % 4 = 0 ∧ Fits32 ((sumSAP p r v).toInt / 4)) → relocWrite p r v kind = .error 7)) ∧
    (r.kind = 2 → patchesJ (wordAt p r 0) = false →
      (isLi 2 (wordAt p r 0) = true ∧ Fits32 (sumSAP p r v).toInt →
        relocWrite p r v kind = .ok (r.off + 4, 4, (BitVec.ofInt 32 (sumSAP p r v).toInt).toNat)) ∧
      (¬(isLi 2 (wordAt p r 0) = true ∧ Fits32 (sumSAP p r v).toInt) → relocWrite p r v kind = .error 7)) ∧
    (r.kind = 3 →
      (patchesM (wordAt p r 0) = true ∧ -524288 ≤ (sumSA r v).toInt ∧ (sumSA r v).toInt ≤ 524287 →
        relocWrite p r v kind = .ok (r.off + 4, 4, wordAt p r 4 % 4096 + 4096 * (BitVec.ofInt 20 (sumSA r v).toInt).toNat)) ∧
      (¬(patchesM (wordAt p r 0) = true ∧ -524288 ≤ (sumSA r v).toInt ∧ (sumSA r v).toInt ≤ 524287) → relocWrite p r v kind = .error 7)) ∧
    (r.kind = 4 → (patchesI (wordAt p r 0) = true → relocWrite p r v kind = .ok (r.off + 4, 4, ((sumSA r v).setWidth 32).toNat)) ∧
      (patchesI (wordAt p r 0) = false → relocWrite p r v kind = .error 7)) ∧
    (r.kind = 5 → (isLi 1 (wordAt p r 0) = true → relocWrite p r v kind = .ok (r.off + 4, 4, (sumSA r v).toNat / 2 ^ 32)) ∧
      (isLi 1 (wordAt p r 0) = false → relocWrite p r v kind = .error 7)) ∧
    (r.kind = 6 → (p.sec.kind = 5 ∧ r.off % 32 = 0 ∧ (fld p.bytes (r.off + 10) 2).testBit 0 = false →
        relocWrite p r v kind = .ok (r.off, 8, (sumSA r v).toNat)) ∧
      (¬(p.sec.kind = 5 ∧ r.off % 32 = 0 ∧ (fld p.bytes (r.off + 10) 2).testBit 0 = false) → relocWrite p r v kind = .error 7)) ∧
    (r.kind = 8 → (kind = 3 ∧ v % 32 = 0 ∧ r.addend = 0 → relocWrite p r v kind = .ok (r.off, 8, v)) ∧
      (¬(kind = 3 ∧ v % 32 = 0 ∧ r.addend = 0) → relocWrite p r v kind = .error 7)) ∧
    (r.kind = 0 ∨ 8 < r.kind → relocWrite p r v kind = .error 7)

/-- OBJECT_LOAD, where it puts sections and what relocations write: `LoadOrder`, `LoadSteps`, `Placement`, `Linking`, `Relocations`. Where the
spec is silent it states the choices of the model: log 30. -/
def Obligations.ObjectLoading : Prop :=
  Sys2Proof.Claims.LoadOrder ∧ Sys2Proof.Claims.LoadSteps ∧ Sys2Proof.Claims.Placement ∧ Sys2Proof.Claims.Linking ∧ Sys2Proof.Claims.Relocations

/-! ## Management requests -/

namespace Sys2Proof.Claims

/-- A request answered as done, or refused. -/
def done (s : State) : Host.Outcome State Fault Refusal := .next (replied s .done)
def refused (s : State) : Host.Outcome State Fault Refusal := .next (replied s .refused)

/-- The context of the request in focus, at its core 0 and thread 0. -/
def atCtx (s : State) (c : Nat) : State := s.focus { ctx := c, vc := 0, th := 0 }

/-- A context that is not listed as live. -/
def NoContext (s : State) : Prop := s.ctxAt s.req.t.ctx = none

/-- The requests that name a context and are refused where none lives under that number. -/
def contextRequests : List Instr :=
  [.contextDestroy, .holdingAdd, .hostHandover, .shootdown, .debugAccess, .preempt, .contextRestore, .threadResume, .contextKill]

/-- The parameters of CONTEXT_CREATE that R354 allows: a free number below 64, an NMAX up to the enabled cores of the partition, one free enabled
core of the partition for each virtual core, a table root, save area, spill areas, key slots and host nodes that exist, and values for the
registers of the context (R34). -/
def CreateOk (s : State) (p : CtxParams) (part : Nat) : Prop :=
  p.id < 64 ∧ s.ctxAt p.id = none ∧ 1 ≤ p.nmax ∧ p.nmax ≤ s.partCores part ∧ p.phys.length = p.nmax ∧ p.phys.Nodup ∧
    (∀ x ∈ p.phys, (SMap.find s.cores x).isSome = true ∧ s.partOf (x / 288) = some part ∧ x ∉ s.usedCores) ∧
    p.root % 4096 = 0 ∧ p.savebase % 65536 = 0 ∧ (∀ k ∈ p.keys, k < 1024) ∧ (∀ h ∈ p.hosts, h < 4096) ∧
    (∀ a ∈ p.spills, a = 0 ∨ (0x100000000000 ≤ a ∧ a < 0x500000000000 ∧ a % 32 = 0)) ∧
    ∀ x ∈ p.regs, x.1 = 0x005 ∨ (0x030 ≤ x.1 ∧ x.1 ≤ 0x033) ∨ x.1 = 0x040 ∨ x.1 = 0x041

/-- A register of the context given a value (R34): no more bits than the register has. -/
def withCtxReg (s : State) (x : Nat × W64) : State :=
  let c := s.ctx
  let low := fun w => BitVec.ofNat 64 (x.2.toNat % 2 ^ w)
  if x.1 = 0x005 then { s with ctx := { c with trapvec := x.2 } }
  else if x.1 = 0x030 then { s with ctx := { c with framebase := x.2 } }
  else if x.1 = 0x031 then { s with ctx := { c with framesize := x.2 } }
  else if x.1 = 0x032 then { s with ctx := { c with spillsize := low 32 } }
  else if x.1 = 0x033 then { s with ctx := { c with qtable := x.2 } }
  else if x.1 = 0x040 then { s with ctx := { c with gather := low 16 } }
  else { s with ctx := { c with agesh := low 5 } }

/-- The 24 bytes of the resolver stub (R96). -/
def stubWords : List Byte := ([0x00000188, 0xFFFF0000, 0x03EF9900, 0x00000320, 0x03E00888, 0].map (leBytes 4)).flatten

/-- An address where a holding can begin, in a page for code that the tables map: there the stub can be placed (log 60). -/
def StubFits (s : State) (va : Nat) : Prop :=
  va % 4096 = 0 ∧ (∃ b, s.hwAddr va = .ok b) ∧ ∃ pte lv pa, s.walk va = .leaf pte lv pa ∧ pte.testBit 4 = true ∧ pte.testBit 3 = false

/-- The stub placed at its address, at the beginning of a SEALED holding of its own. -/
def StubPlaced (s : State) (va : Nat) (t : State) : Prop :=
  ∀ b, s.hwAddr va = .ok b →
    let u := (s.writePhys b stubWords).markLeaf va true
    t = { u with ctx := { u.ctx with holdings := SMap.put u.ctx.holdings 4095 ⟨va, 12, .sealed, 0x30000, none⟩ } }

/-- A context at its creation, before its registers are set (R34, R201, R328, R354, R374). -/
def Created (p : CtxParams) (part : Nat) (c : Ctx) : Prop :=
  c.id = p.id ∧ c.live = true ∧ c.killed = false ∧ c.halted = false ∧ c.part = part ∧ c.nmax = p.nmax ∧ c.hosts = p.hosts ∧ c.root = p.root ∧
    c.savebase = p.savebase ∧ c.trapvec = 0 ∧ c.framebase = 0 ∧ c.framesize = 0 ∧ c.spillsize = 0 ∧ c.qtable = 0 ∧ c.gather = 256 ∧
    c.agesh = 10 ∧ (∀ w ∈ c.windows.toList, w.isSet = false) ∧ c.objects = [] ∧ c.launches = [] ∧ c.preempt = .none ∧
    c.vcores.map (fun v => (v.1, v.2.phys)) = (List.range p.nmax).zip p.phys ∧
    ∀ v ∈ c.vcores, v.2.mkeys = Vector.replicate 4 0 ∧ v.2.bank0 = none ∧ v.2.bank1 = none ∧ v.2.acc = [] ∧ v.2.table = none ∧ v.2.deque = [] ∧
      v.2.spillBase = p.spills[v.1]?.getD 0 ∧ v.2.threads.map Prod.fst = List.range 8 ∧ ∀ t ∈ v.2.threads, t.2.status = .free

/-- A byte of the usable part of one of these slices. -/
def InSlices (phys : List Nat) (a : Nat) : Prop := ∃ x ∈ phys, x * 0x400000 ≤ a ∧ a < x * 0x400000 + 0x3C0000

end Sys2Proof.Claims

/-- R96, R201, R307, R354, R355, R374: CONTEXT_CREATE makes a context that R354 allows, its virtual cores on the cores of the request with
cleared arrays and slices, its keys 0, sets its registers as the runtime asks, places its stub, and leaves every other context and byte as
it was; any other request is refused, and one whose stub cannot be placed. CONTEXT_DESTROY takes away a live context, its launch queues, whose control blocks are unmapped, its
translations and its place in the key slots. A request that names no live context is refused. -/
def Sys2Proof.Claims.Contexts : Prop :=
  (∀ (s : State) i, i ∈ contextRequests → NoContext s → exec i s = refused s) ∧
  (∀ (s : State) part, s.req.params.phys.head?.bind (fun x => s.partOf (x / 288)) = some part →
    (¬CreateOk s s.req.params part → exec .contextCreate s = refused s) ∧
    (CreateOk s s.req.params part → ∃ t : State,
      (¬StubFits t s.req.params.stub → exec .contextCreate s = refused s) ∧
      (StubFits t s.req.params.stub → ∃ t', exec .contextCreate s = done t' ∧
        StubPlaced (s.req.params.regs.foldl withCtxReg t) s.req.params.stub t') ∧ t.ctx.id = s.req.params.id ∧
      Created s.req.params part t.ctx ∧ SMap.find t.ctxs s.req.params.id = some t.ctx ∧
      (∀ c, c ≠ s.req.params.id → SMap.find t.ctxs c = SMap.find s.sync.ctxs c) ∧
      (∀ a, InSlices s.req.params.phys a → t.mem.read a = 0) ∧ (Memory.wf s.mem → ∀ a, ¬InSlices s.req.params.phys a → t.mem.read a = s.mem.read a) ∧
      (∀ k, k ∈ s.req.params.keys → ∃ x, SMap.find t.keySlots k = some x ∧ s.req.params.id ∈ x.ctxs))) ∧
  (∀ s : State, s.req.params.phys.head?.bind (fun x => s.partOf (x / 288)) = none → exec .contextCreate s = refused s) ∧
  (∀ (s : State) c, s.ctxAt s.req.t.ctx = some c → ∃ t u, exec .contextDestroy s = done t ∧ t = s.destroy c.id ∧
    u = ((s.sync.queues.filter fun q => decide (q.2.ctx = c.id)).map Prod.fst).foldl slotCleared s.sync ∧ t.mem = u.mem ∧
    ((s.sync.ctxs.map Prod.fst).Pairwise (· < ·) → SMap.find t.ctxs c.id = none) ∧ (∀ k, k ≠ c.id → SMap.find t.ctxs k = SMap.find u.sync.ctxs k) ∧
    ((s.queues.map Prod.fst).Pairwise (· < ·) → ∀ q ∈ t.queues, q.2.ctx ≠ c.id) ∧ (∀ q ∈ t.unmapped, q.ctx ≠ c.id) ∧
    (∀ b ∈ t.pendingBlocks, b.1 ≠ c.id) ∧ (∀ e ∈ t.l2tlb, e.2.ctx ≠ c.id) ∧ (∀ k ∈ t.keySlots, c.id ∉ k.2.ctxs))

namespace Sys2Proof.Claims

/-- The classes by their codes (R367). -/
def classes : List (Nat × HClass) := [(0, .exclusive), (1, .localOnly), (2, .common), (3, .frame), (4, .queue), (5, .sealed)]

/-- An entry that R367 allows at a free index. -/
def HoldingOk (c : Ctx) (n : Nat) (h : HoldingReq) (cls : HClass) : Prop :=
  (h.cls, cls) ∈ classes ∧ n < 4096 ∧ SMap.find c.holdings n = none ∧ 12 ≤ h.lsize ∧ h.lsize ≤ 40 ∧ h.base % 2 ^ h.lsize = 0 ∧
    0x1000000 ≤ h.base ∧ h.base + 2 ^ h.lsize ≤ 2 ^ 56 ∧ h.holder < 2 ^ 18 ∧
    (∀ e ∈ c.holdings, ¬Share h.base (2 ^ h.lsize) e.2.base (2 ^ e.2.lsize)) ∧
    (cls = .exclusive ∨ cls = .localOnly → NamesAgent c h.holder)

/-- A translation that covers an address of a range. -/
def EntryMeets (e : TlbEntry) (a b : Nat) : Prop := a < e.base + e.size ∧ e.base ≤ b

/-- A management message that every core of the context receives (R22, R25). -/
def toldCores (s : State) : State := s.ctx.vcores.foldl (fun u v => u.countAt v.2.phys 3 0 1) s

/-- No TLB of a context holds a translation that a condition picks. -/
def NoEntries (s : State) (p : TlbEntry → Prop) : Prop :=
  (∀ e ∈ s.vc.itlb ++ s.vc.dtlb, ¬p e) ∧ (∀ v ∈ s.ctx.vcores, ∀ e ∈ v.2.itlb ++ v.2.dtlb, ¬p e) ∧
    ∀ e ∈ s.l2tlb, e.2.ctx = s.ctx.id → ¬p e.2

end Sys2Proof.Claims

/-- R285, R366, R367, R369, R394: HOLDING_ADD adds an entry that R367 allows, removes one while the context runs no launch, and refuses what
overlaps; HOST_HANDOVER sends a holding that the host node holds; SHOOTDOWN performs every store of the context and leaves no translation of
the range; CONTEXT_KILL contains the context with CONTEXT_KILLED. -/
def Sys2Proof.Claims.ContextRequests : Prop :=
  (∀ (s : State) c h, s.ctxAt s.req.t.ctx = some c → s.req.holding = some h →
    (∀ cls, HoldingOk c s.req.n h cls → exec .holdingAdd s =
      done (withHolding (atCtx s c.id) s.req.n { base := h.base, lsize := h.lsize, cls := cls, holder := h.holder, inflight := none })) ∧
    ((∀ cls, ¬HoldingOk c s.req.n h cls) → exec .holdingAdd s = refused s)) ∧
  (∀ (s : State) c, s.ctxAt s.req.t.ctx = some c → s.req.holding = none →
    let running := ∃ l ∈ c.launches, l.2.join ≠ 0
    (SMap.find c.holdings s.req.n = none ∨ running → exec .holdingAdd s = refused s) ∧
    (SMap.find c.holdings s.req.n ≠ none → ¬running → exec .holdingAdd s =
      done { atCtx s c.id with ctx := { (atCtx s c.id).ctx with holdings := SMap.del (atCtx s c.id).ctx.holdings s.req.n } })) ∧
  (∀ (s : State) c, s.ctxAt s.req.t.ctx = some c →
    (∀ h, SMap.find c.holdings s.req.m = some h → h.heldBy (0x20000 + s.req.n) = true → NamesAgent c s.req.k →
      exec .hostHandover s = done { ((withHolding (atCtx s c.id) s.req.m { h with inflight := some s.req.k }).updCtx fun x =>
        { x with handovers := x.handovers ++ [⟨0x20000 + s.req.n, s.req.m, s.req.k, s.nextId⟩] }) with nextId := s.nextId + 1 }) ∧
    ((∀ h, SMap.find c.holdings s.req.m = some h → h.heldBy (0x20000 + s.req.n) = false ∨ ¬NamesAgent c s.req.k) →
      exec .hostHandover s = refused s) ∧
    (∃ t, exec .shootdown s = done t ∧ NoEntries t (fun e => EntryMeets e s.req.n s.req.m) ∧ t.mem = (toldCores (atCtx s c.id)).flushCtx.mem ∧
      t.keySlots = s.keySlots) ∧
    (c.killed = true → exec .contextKill s = refused s) ∧
    (c.killed = false → exec .contextKill s = done (s.kill c.id (hostReport .contextKilled 2 c.id 0xFFFF 0 0 s.now))))

/-- Contexts, holdings, handovers, shootdowns and kills by request: `Contexts`, `ContextRequests`. Where the spec is silent it states the
choices of the model: log 12, log 15, log 33, log 48, log 60. -/
def Obligations.Contexts : Prop := Sys2Proof.Claims.Contexts ∧ Sys2Proof.Claims.ContextRequests

namespace Sys2Proof.Claims

/-- The error log of a number: of the slice, the accumulators, the scalar and the vector register file (R393). -/
def logs : List (Nat × ErrLog) := [(0, .slice), (1, .acc), (2, .sregs), (3, .vregs)]

/-- A log entry in its 32 bytes (R393). -/
def logBytes (e : LogEntry) : List Byte :=
  leBytes 8 e.addr ++ leBytes 4 e.syndrome.toNat ++ [BitVec.ofNat 8 e.ctxid] ++
    [BitVec.ofNat 8 ((if e.uncorrected then 1 else 0) + (if e.arrayFailed then 2 else 0))] ++ leBytes 2 0 ++ leBytes 8 e.cycle ++ leBytes 8 0

/-- The context in focus is stopped for a debugger: halted, and its stop reported (R375, R390). -/
def Stopped (s : State) : Prop := s.ctx.halted = true ∧ s.ctx.part ∉ s.stops

/-- A thread of a core of a halted context, and its state in focus. -/
def HaltedAt (s : State) (v t : Nat) (u : State) : Prop :=
  Stopped s ∧ s.ctx.hasVc v = true ∧ t < 8 ∧ u = s.focus ⟨s.ctx.id, v, t⟩

/-- The control registers of R34. -/
def IsCtl (n : Nat) : Prop :=
  n ≤ 0x007 ∨ (0x010 ≤ n ∧ n ≤ 0x012) ∨ (0x020 ≤ n ∧ n ≤ 0x025) ∨ (0x030 ≤ n ∧ n ≤ 0x033) ∨ n = 0x040 ∨ n = 0x041 ∨
    (0x050 ≤ n ∧ n ≤ 0x053) ∨ (0x060 ≤ n ∧ n ≤ 0x067) ∨ n = 0x070

/-- Field k of an entry of the window table (R234), and the entry with that field replaced. -/
def WindowField (w : Window) (k x : Nat) : Prop :=
  (k = 0 ∧ x = if w.isSet then 1 else 0) ∨ (k = 1 ∧ x = w.version.toNat) ∨ (k = 2 ∧ x = w.base) ∨ (k = 3 ∧ x = w.lsize) ∨ (k = 4 ∧ x = w.kind) ∨
    (k = 5 ∧ x = w.fmt) ∨ (6 ≤ k ∧ k < 19 ∧ x = w.par (k - 6)) ∨ (19 ≤ k ∧ w.freq[k - 19]? = some x)
def WindowPut (w : Window) (k x : Nat) (w' : Window) : Prop :=
  (k = 0 ∧ w' = { w with isSet := x.testBit 0 }) ∨ (k = 1 ∧ w' = { w with version := BitVec.ofNat 32 x }) ∨
    (k = 2 ∧ w' = { w with base := x % 2 ^ 56 }) ∨ (k = 3 ∧ w' = { w with lsize := x % 256 }) ∨ (k = 4 ∧ w' = { w with kind := x % 256 }) ∨
    (k = 5 ∧ w' = { w with fmt := x % 256 }) ∨
    (6 ≤ k ∧ k < 19 ∧ w' = { w with p := ((List.range 13).map w.par).set (k - 6) (x % 2 ^ 32) }) ∨
    (19 ≤ k ∧ k - 19 < w.freq.length ∧ w' = { w with freq := w.freq.set (k - 19) (x % 2 ^ 32) })

/-- Block b of column n of a loaded bank of the core in focus. -/
def BlockAt (s : State) (bank n b : Nat) (k : Bank) (col : List WBlock) (w : WBlock) : Prop :=
  (if bank = 0 then s.vc.bank0 else s.vc.bank1) = some k ∧ k.cols[n]? = some col ∧ col[b]? = some w

/-- The context without an entry of its holding table. -/
def withoutHolding (s : State) (n : Nat) : State := { s with ctx := { s.ctx with holdings := SMap.del s.ctx.holdings n } }

/-- A debug request that reads, with the value; one that writes, with the state (R375, R391): of a halted context its registers, positions,
tokens, queues, links, lane records, slice, accumulators, weight banks, lantern table, windows and holdings; of any context its single-step bits, watchpoints and code pages, and the error logs. -/
def DebugReads (s : State) : DebugReq → Nat → Prop
  | .readCtl v t n, x => ∃ u, HaltedAt s v t u ∧ IsCtl n ∧ x = (u.ctlRead n).toNat
  | .readPos v t false, x => ∃ u, HaltedAt s v t u ∧ x = u.thr.apc.toNat
  | .readPos v t true, x => ∃ u, HaltedAt s v t u ∧
      ((∀ p rest, u.thr.ePath = p :: rest → x = p.toNat) ∧ (u.thr.ePath = [] → x = (if u.thr.eNext = 0 then u.thr.apc else u.thr.eNext).toNat))
  | .readToken v t k, x => ∃ u, HaltedAt s v t u ∧
      x = (u.thr.getK k).count + 2 ^ 32 * (if (u.thr.getK k).err then 1 else 0) + 2 ^ 48 * (u.thr.getK k).cause + 2 ^ 64 * (u.thr.getK k).addr
  | .readQueue v t q i lane, x => ∃ u e, HaltedAt s v t u ∧ (u.thr.getQ q)[i]? = some e ∧ x = (e.lanes.lane lane).toNat
  | .readQueueMask v t q i, x => ∃ u e, HaltedAt s v t u ∧ (u.thr.getQ q)[i]? = some e ∧ x = e.mask.toNat
  | .readLink v t n, x => ∃ u, HaltedAt s v t u ∧ x = linkDescr (u.thr.getL n)
  | .readRow v row, x => ∃ u, HaltedAt s v 0 u ∧ row < 256 ∧
      x = (u.vc.row row).e.toNat + 2 ^ 10 * (if (u.vc.row row).pair then 1 else 0) + 2 ^ 11 * (if (u.vc.row row).anchor then 1 else 0)
  | .readRowFlags v row kind, x => ∃ u, HaltedAt s v 0 u ∧ row < 256 ∧
      ((kind = 0 ∧ x = (u.vc.row row).nan.toNat) ∨ (kind = 1 ∧ x = (u.vc.row row).posInf.toNat) ∨ (kind = 2 ∧ x = (u.vc.row row).negInf.toNat))
  | .readLog v kind i, x => s.ctx.hasVc v = true ∧
      ∃ k e, (kind, k) ∈ logs ∧ ((s.focus ⟨s.ctx.id, v, 0⟩).core.logOf k)[i]? = some e ∧ x = leNat (logBytes e)
  | .readS v t n, x => Stopped s ∧ s.ctx.hasVc v = true ∧ t < 8 ∧ x = ((s.focus ⟨s.ctx.id, v, t⟩).thr.getS n).toNat
  | .readV v t n k, x => Stopped s ∧ s.ctx.hasVc v = true ∧ t < 8 ∧ x = (((s.focus ⟨s.ctx.id, v, t⟩).thr.getV n).lane k).toNat
  | .readM v t n, x => Stopped s ∧ s.ctx.hasVc v = true ∧ t < 8 ∧ x = ((s.focus ⟨s.ctx.id, v, t⟩).thr.getM n).toNat
  | .readNear v a, x => Stopped s ∧ s.ctx.hasVc v = true ∧ a < 0x3C0000 ∧
      x = (s.mem.read ((s.focus ⟨s.ctx.id, v, 0⟩).vc.phys * 0x400000 + a)).toNat
  | .readAcc v row col, x => Stopped s ∧ s.ctx.hasVc v = true ∧ row < 256 ∧ col < 128 ∧
      x = (((s.focus ⟨s.ctx.id, v, 0⟩).vc.row row).col col).toNat
  | .readTable v k, x => Stopped s ∧ s.ctx.hasVc v = true ∧
      ∃ t b, (s.focus ⟨s.ctx.id, v, 0⟩).vc.table = some t ∧ t.entries[k]? = some b ∧ x = b.toNat
  | .readWindow n k, x => Stopped s ∧ n < 16 ∧ WindowField (windowAt s n) k x
  | .readHolding n, x => Stopped s ∧ ∃ h code, SMap.find s.ctx.holdings n = some h ∧ (code, h.cls) ∈ classes ∧
      x = h.base + 2 ^ 56 * h.lsize + 2 ^ 62 * code + 2 ^ 65 * (h.inflight.getD h.holder) + 2 ^ 83 * (if h.inflight = none then 0 else 1)
  | .readBank v bank n b i, x => ∃ u k col w, HaltedAt s v 0 u ∧ BlockAt u bank n b k col w ∧
      ((i = 32 ∧ x = w.scale % 2 ^ 64) ∨ (i ≠ 32 ∧ ∃ y, w.weights[i]? = some y ∧ x = (BitVec.ofInt 64 y).toNat))
  | .readLane v t i k, x => ∃ u l, HaltedAt s v t u ∧ u.thr.lanes[i]? = some l ∧
      ((k < 4 ∧ x = fld l.task.bytes (8 * k) 8) ∨ (k = 4 ∧ x = if l.joined then 1 else 0))
  | _, _ => False

def DebugWrites (s : State) : DebugReq → State → Prop
  | .writeCtl v t n x, u => ∃ w y, HaltedAt s v t w ∧ ctlEntry n = some y ∧ y.2 ≠ .hw ∧ u = w.ctlWrite n y.1 x
  | .writeToken v t k count err cause addr, u => ∃ w, HaltedAt s v t w ∧ u = w.setThr (w.thr.setK k ⟨count, err, cause, addr⟩)
  | .writeQueue v t q i lanes mask, u => ∃ w, HaltedAt s v t w ∧ q < 8 ∧ i < 16 ∧
      let e : QEntry := ⟨Lanes.make fun k => lanes[k]?.getD 0, mask, true⟩
      (i < (w.thr.getQ q).length ∧ u = w.setThr (w.thr.setQ q ((w.thr.getQ q).set i e))) ∨
        (i = (w.thr.getQ q).length ∧ u = w.setThr (w.thr.setQ q (w.thr.getQ q ++ [e])))
  | .popQueue v t q, u => ∃ w, HaltedAt s v t w ∧ u = w.setThr (w.thr.setQ q ((w.thr.getQ q).drop 1))
  | .writeLink v t n x, u => ∃ w, HaltedAt s v t w ∧ u = w.setThr (w.thr.setL n (linkOfDescr x.toNat))
  | .writeRow v row e pair anchor, u => ∃ w, HaltedAt s v 0 w ∧ row < 256 ∧
      u = { w with vc := w.vc.setRow row { w.vc.row row with e := e, pair := pair, anchor := anchor } }
  | .writeRowFlags v row kind x, u => ∃ w, HaltedAt s v 0 w ∧ row < 256 ∧
      ((kind = 0 ∧ u = { w with vc := w.vc.setRow row { w.vc.row row with nan := x } }) ∨
        (kind = 1 ∧ u = { w with vc := w.vc.setRow row { w.vc.row row with posInf := x } }) ∨
        (kind = 2 ∧ u = { w with vc := w.vc.setRow row { w.vc.row row with negInf := x } }))
  | .writeS v t n x, u => Stopped s ∧ s.ctx.hasVc v = true ∧ t < 8 ∧
      u = (s.focus ⟨s.ctx.id, v, t⟩).setThr ((s.focus ⟨s.ctx.id, v, t⟩).thr.setS n x)
  | .writeM v t n x, u => Stopped s ∧ s.ctx.hasVc v = true ∧ t < 8 ∧
      u = (s.focus ⟨s.ctx.id, v, t⟩).setThr ((s.focus ⟨s.ctx.id, v, t⟩).thr.setM n x)
  | .writeV v t n k x, u => Stopped s ∧ s.ctx.hasVc v = true ∧ t < 8 ∧
      u = (s.focus ⟨s.ctx.id, v, t⟩).setThr
        ((s.focus ⟨s.ctx.id, v, t⟩).thr.setV n (((s.focus ⟨s.ctx.id, v, t⟩).thr.getV n).setIfInBounds k x))
  | .writePos v t pos, u => Stopped s ∧ s.ctx.hasVc v = true ∧ t < 8 ∧
      u = (s.focus ⟨s.ctx.id, v, t⟩).setThr { (s.focus ⟨s.ctx.id, v, t⟩).thr with apc := pos, eNext := 0, waitA := .none }
  | .writeNear v a b, u => Stopped s ∧ s.ctx.hasVc v = true ∧ a < 0x3C0000 ∧
      u = (s.focus ⟨s.ctx.id, v, 0⟩).writePhys ((s.focus ⟨s.ctx.id, v, 0⟩).vc.phys * 0x400000 + a) [b]
  | .writeAcc v row col b, u => Stopped s ∧ s.ctx.hasVc v = true ∧ row < 256 ∧ col < 128 ∧ ∃ x : AccRow,
      u = { s.focus ⟨s.ctx.id, v, 0⟩ with vc := (s.focus ⟨s.ctx.id, v, 0⟩).vc.setRow row x } ∧
      x = { (s.focus ⟨s.ctx.id, v, 0⟩).vc.row row with x := SMap.set 0 ((s.focus ⟨s.ctx.id, v, 0⟩).vc.row row).x col b }
  | .writeTable v k b, u => Stopped s ∧ s.ctx.hasVc v = true ∧ ∃ t, (s.focus ⟨s.ctx.id, v, 0⟩).vc.table = some t ∧
      u = { s.focus ⟨s.ctx.id, v, 0⟩ with
        vc := { (s.focus ⟨s.ctx.id, v, 0⟩).vc with table := some { t with entries := t.entries.set k b } } }
  | .singleStep v t on, u => s.ctx.hasVc v = true ∧ t < 8 ∧
      u = (s.focus ⟨s.ctx.id, v, t⟩).setThr { (s.focus ⟨s.ctx.id, v, t⟩).thr with singleStep := on }
  | .watchpoint n base lsize rd wr, u => n < 4 ∧ 3 ≤ lsize ∧ lsize ≤ 40 ∧ base % 2 ^ lsize = 0 ∧
      u = { s with ctx := { s.ctx with watch := s.ctx.watch.setIfInBounds n (if rd = true ∨ wr = true then some ⟨base, lsize, rd, wr⟩ else none) } }
  | .writeCode va word, u => ∃ pte lv a, s.walk va = .leaf pte lv a ∧ va % 4 = 0 ∧ pte.testBit 4 = true ∧
      (leafAddr pte lv va < 0x80000000000 ∨ s.keyLoaded (pte / 2 ^ 54 % 1024) s.ctx.id = true) ∧
      u = s.writePhys (busOf (pte / 2 ^ 54 % 1024) (leafAddr pte lv va)) (leBytes 4 word.toNat)
  | .writeEPos v t pos, u => ∃ w, HaltedAt s v t w ∧ u = w.setThr { w.thr with
      ePath := if pos ∈ w.thr.ePath then w.thr.ePath.dropWhile fun x => decide (x ≠ pos) else [pos], eNext := 0, waitE := .none }
  | .writeWindow n k x, u => Stopped s ∧ n < 16 ∧ ∃ w, WindowPut (windowAt s n) k x w ∧ u = withWindow s n w
  | .writeHolding n none, u => Stopped s ∧ u = withoutHolding s n
  | .writeHolding n (some h), u => Stopped s ∧ ∃ cls, HoldingOk (withoutHolding s n).ctx n h cls ∧
      u = withHolding (withoutHolding s n) n { base := h.base, lsize := h.lsize, cls := cls, holder := h.holder, inflight := none }
  | .writeBank v bank n b i x, u => ∃ t k col w w', HaltedAt s v 0 t ∧ BlockAt t bank n b k col w ∧
      ((i = 32 ∧ w' = { w with scale := (x % 256).toNat }) ∨
        (i < w.weights.length ∧ i ≠ 32 ∧ ∃ y : Int, w' = { w with weights := w.weights.set i y } ∧
          y = if k.wsplit = true ∧ n % 2 = 0 then (x.toNat : Int) % 2 ^ k.wp else (BitVec.ofInt k.wp x.toNat).toInt)) ∧
      u = withBank t bank (some { k with cols := k.cols.set n (col.set b w') })
  | .writeLane v t i k x, u => ∃ w l l', HaltedAt s v t w ∧ w.thr.lanes[i]? = some l ∧
      ((k < 4 ∧ l' = { l with task := taskOf (l.task.bytes.take (8 * k) ++ leBytes 8 x.toNat ++ l.task.bytes.drop (8 * k + 8)) }) ∨
        (k = 4 ∧ l' = { l with joined := x.getLsbD 0 })) ∧
      u = w.setThr { w.thr with lanes := w.thr.lanes.set i l' }
  | _, _ => False

/-- The requests that reach a halted context only. -/
def NeedsHalt : DebugReq → Prop
  | .singleStep _ _ _ | .watchpoint _ _ _ _ _ | .writeCode _ _ | .readLog _ _ _ => False
  | _ => True

/-- A partition layout that R353 allows, with features of R87. -/
def LayoutOk (rs : List PartReq) : Prop :=
  (∀ r ∈ rs, r.k ≤ 3 ∧ (r.m + 1) * 2 ^ r.k ≤ 8 ∧ r.features < 1024) ∧
    ∀ d, d < 8 → (rs.filter fun r => decide (d / 2 ^ r.k = r.m)).length ≤ 1

end Sys2Proof.Claims

/-- R353, R372, R373, R375, R391: ATTEST answers a nonce of 64 bytes with the report and its signature, LOAD_KEY loads a slot with the key
that firmware unwraps, UNLOAD_KEY shoots its translations down and clears it, keeping the assignment; DEBUG_ACCESS reads and writes a
halted context's state, and one that a module node sends is refused; PARTITION_CONFIG installs a layout that R353 allows while no context lives on an affected die. The signature and
the unwrapped key are free values of the model (log 10). Where the spec is silent it states the choices of the model: log 15, log 33, log
34, log 35. -/
def Obligations.KeysDebugPartitions : Prop :=
  (∀ s : State, (s.req.l1.length = 64 → exec .attest s =
      .next (replied s (.attest (s.attestReport s.req.l1) (Config.attestSignature (s.attestReport s.req.l1))))) ∧
    (s.req.l1.length ≠ 64 → exec .attest s = refused s)) ∧
  (∀ s : State,
    (∀ k, s.req.n < 1024 → Config.unwrapKey s.req.l2 = some k →
      exec .loadKey s = done { s with keySlots := SMap.put s.keySlots s.req.n { key := k, loaded := true, ctxs := s.req.l1 } }) ∧
    (1024 ≤ s.req.n ∨ Config.unwrapKey s.req.l2 = none → exec .loadKey s = refused s)) ∧
  (∀ s : State, (SMap.find s.keySlots s.req.n = none → exec .unloadKey s = refused s) ∧
    (∀ k, SMap.find s.keySlots s.req.n = some k → ∃ t, exec .unloadKey s = done t ∧
      SMap.find t.keySlots s.req.n = some { k with key := 0, loaded := false } ∧
      ∀ n, n ≠ s.req.n → SMap.find t.keySlots n = SMap.find s.keySlots n)) ∧
  (∀ s : State, s.req.flag = true → exec .debugAccess s = refused s) ∧
  (∀ (s : State) c, s.ctxAt s.req.t.ctx = some c → s.req.flag = false →
    (∀ x, DebugReads (atCtx s c.id) s.req.dbg x → exec .debugAccess s = .next (replied (atCtx s c.id) (.value x))) ∧
    (∀ u, DebugWrites (atCtx s c.id) s.req.dbg u → exec .debugAccess s = done u) ∧
    (¬Stopped (atCtx s c.id) → NeedsHalt s.req.dbg → exec .debugAccess s = refused s)) ∧
  (∀ s : State,
    let s1 := s.sync
    let parts := s.req.parts.map (newPart s1.parts)
    let stays := fun c : Ctx => ∃ p, s1.parts[c.part]? = some p ∧ p ∈ parts
    (¬LayoutOk s.req.parts ∨ (∃ c ∈ s1.ctxs, c.2.live = true ∧ ¬stays c.2) → exec .partitionConfig s = refused s) ∧
    (LayoutOk s.req.parts → (∀ c ∈ s1.ctxs, c.2.live = true → stays c.2) → ∃ t, exec .partitionConfig s = done t ∧ t.parts = parts ∧
      t.mem = s.mem ∧ t.ctxs.map Prod.fst = s1.ctxs.map Prod.fst ∧
      ∀ n c, SMap.find s1.ctxs n = some c → c.live = true →
        ∃ d, SMap.find t.ctxs n = some d ∧ d = { c with part := d.part } ∧ parts[d.part]? = s1.parts[c.part]?))

/-! ## Pre-emption, save and restore -/

namespace Sys2Proof.Claims

/-- A thread that has stopped for a save: not running, or between two steps of MTILE or RSTEP; and no copy of it is in flight (R385). -/
def AtRest (t : Thread) : Prop :=
  (t.status = .running → t.waitA = .mtile ∨ t.waitA = .rstep) ∧ ∀ k ∈ t.k.toList, k.count = 0

/-- The save of a context can start (R385): pre-emption is pending, every thread has stopped and drained, every array command has completed,
every free message and mailbox increment has been delivered. -/
def SaveStarts (c : Ctx) : Prop :=
  c.live = true ∧ c.killed = false ∧ c.halted = false ∧ (∃ ds, c.preempt = .pending ds) ∧ c.mcmds = [] ∧ c.freeMsgs = [] ∧
    ∀ v ∈ c.vcores, v.2.outstanding = [] ∧ (∀ t ∈ v.2.threads, AtRest t.2) ∧ (∀ p ∈ v.2.parks, ∀ k ∈ p.thr.k.toList, k.count = 0) ∧
      ∀ x ∈ v.2.copyms, x.members ≠ []

/-- The context of the request with every store performed. -/
def stilled (s : State) (c : Ctx) : State := (atCtx s c.id).flushCtx.sync

/-- A limit of the pre-emption has expired (R386). -/
def LimitPassed (s : State) (c : Ctx) : Prop := ∃ ds, c.preempt = .pending ds ∧ ∃ d ∈ ds, d ≤ s.clock

/-- Every page of the region of a virtual core is reached. -/
def RegionReached (s : State) (n : Nat) : Prop :=
  ∀ g, g < 80 → (s.hwAddr (s.ctx.savebase + n * 0x500000 + 65536 * g)).toBool = true

/-- A word of a page to be saved that cannot be corrected. -/
def BadSaved (v : VCore) (w : Nat) : Prop := w / 0x400000 = v.phys ∧ w % 0x400000 / 4096 < 960 ∧ w % 0x400000 / 4096 ∉ v.dead

/-- A region that has no translation or no loaded key; a word of a page to be saved that cannot be corrected, which is logged (R386, R393,
R396): the cause, its detail and the state. -/
def RegionFails (s : State) (v : VCore) (c : Cause) (d : Nat) (t : State) : Prop :=
  (¬RegionReached s v.id ∧ c = .saveAbandoned ∧ d = v.id ∧ t = s) ∨
  (RegionReached s v.id ∧ ∃ before w after, s.badWords = before ++ w :: after ∧ (∀ x ∈ before, ¬BadSaved v x) ∧ BadSaved v w ∧
    c = .sramUncorrectable ∧ d = s.logIndex .slice v.phys ∧ t = s.logError .slice v.phys w s.ctx.id true)

/-- The last liveness record of a stopped thread or of a parked firing names a row (R387). -/
def NamesRow (t : Thread) (r : Nat) : Prop := t.status ≠ .free ∧ t.liveRows.1 ≤ r ∧ r < t.liveRows.1 + t.liveRows.2
def RowKept (v : VCore) (r : Nat) : Prop := (∃ t ∈ v.threads, NamesRow t.2 r) ∨ ∃ p ∈ v.parks, NamesRow p.thr r

/-- What a save keeps of a virtual core: everything but the weight banks, the running commands, the translations, and the rows that no
stopped thread's last record names, which are cleared (R385, R387). -/
def Kept (v w : VCore) : Prop :=
  w.id = v.id ∧ w.phys = v.phys ∧
    w.bank0 = none ∧ w.bank1 = none ∧ w.tile = none ∧ w.rule = none ∧ w.itlb = [] ∧ w.dtlb = [] ∧ w.mkeys = v.mkeys ∧ w.table = v.table ∧
    w.deque = v.deque ∧ w.stations = v.stations ∧ w.parks = v.parks ∧ w.frees = v.frees ∧ w.copyms = v.copyms ∧ w.dead = v.dead ∧
    w.threads = v.threads.map (fun t => (t.1, { t.2 with waitA := .none, waitE := .none })) ∧
    ∀ r, r < 256 → (RowKept v r → w.row r = v.row r) ∧ (¬RowKept v r → w.row r = wiped (v.row r))

/-- A save region written: its parts, then the pages of the near range that are not dead (R387). -/
def regionWritten (s : State) (v : VCore) : State :=
  let base := s.ctx.savebase + v.id * 0x500000
  let s1 := (v.pieces s.ctx).foldl (fun u p => u.placeBytes 82 (base + p.1) p.2) s
  ((List.range 960).filter fun p => !v.dead.contains p).foldl (fun u p =>
    u.placeBytes 2 (base + 0x112000 + 4096 * p) ((List.range 4096).map fun i => u.mem.read (v.phys * 0x400000 + 4096 * p + i))) s1

/-- Every region written, and then every header (R386, R387). -/
def regionsWritten (s : State) (vs : List VCore) (seq : Nat) : State :=
  vs.foldl (fun u v => u.placeBytes 2 (u.ctx.savebase + v.id * 0x500000) (v.header u.ctx seq)) (vs.foldl regionWritten s)

/-- A running MTILE and RSTEP stopped at their step boundaries, on every core of the context (R233, R350, R385). -/
def jobsGone (v : VCore) : VCore :=
  { v with
    tile := none
    rule := none
    groupLock := none
    lantern := match v.rule with | some j => v.lantern.filter fun t => decide (t ≠ j.thread) | none => v.lantern }
def jobsStopped (s : State) : State :=
  { s with vc := jobsGone s.vc, ctx := { s.ctx with vcores := s.ctx.vcores.map fun v => (v.1, jobsGone v.2) } }

/-- The context of the request with a pre-emption pending, of which its cores have been told. -/
def toPreempt (s : State) (c : Nat) (ds : List Nat) : State :=
  let u := jobsStopped (toldCores (atCtx s c))
  { u with ctx := { u.ctx with preempt := .pending ds } }

end Sys2Proof.Claims

/-- R385 to R388, R395: PREEMPT makes a request pending or joins the pending one with its own limit, and a running MTILE or RSTEP stops;
CONTEXT_SAVE saves a context whose threads have all stopped and drained into its regions, frees its cores and reports PREEMPT once with
the save's number, or kills it where a region fails; a limit that expires before the save starts kills with WATCHDOG, during it with
SAVE_ABANDONED. Where the spec is silent it states the choices of the model: log 12, log 15, log 36. -/
def Obligations.PreemptAndSave : Prop :=
  (∀ (s : State) c, s.ctxAt s.req.t.ctx = some c →
    (c.killed = true ∨ c.preempt = .saved → exec .preempt s = refused s) ∧
    (c.killed = false → c.preempt = .none → exec .preempt s =
      done (toPreempt s c.id [s.clock + s.req.n])) ∧
    (∀ ds, c.killed = false → c.preempt = .pending ds → exec .preempt s = done (toPreempt s c.id (ds ++ [s.clock + s.req.n])))) ∧
  (∀ (s0 : State) c, s0.ctxAt s0.req.t.ctx = some c →
    let s := stilled s0 c
    (¬SaveStarts s.ctx → exec .contextSave s0 = .next s0) ∧
    (∀ before v after cause d u, SaveStarts s.ctx → s.ctx.vcores = before ++ v :: after → (∀ x ∈ before, ∀ k e w, ¬RegionFails s x.2 k e w) →
      RegionFails s v.2 cause d u → exec .contextSave s0 = .next (u.kill s.ctx.id (hostReport cause 2 s.ctx.id 0xFFFF 0 d s.now))) ∧
    (SaveStarts s.ctx → (∀ x ∈ s.ctx.vcores, ∀ k e w, ¬RegionFails s x.2 k e w) →
      ∃ t : State, exec .contextSave s0 = .next (t.sync.load s.tid) ∧ t.ctx.preempt = .saved ∧ t.ctx.vcores = [] ∧
        t.ctx.saveSeq = s.ctx.saveSeq + 1 ∧ t.ctx.saved.length = s.ctx.vcores.length ∧
        (∀ (k : Nat) (x : Nat × VCore) (w : VCore), s.ctx.vcores[k]? = some x → t.ctx.saved[k]? = some w → Kept x.2 w) ∧
        t.ctx.holdings = s.ctx.holdings ∧ t.ctx.windows = s.ctx.windows ∧ t.ctx.launches = s.ctx.launches ∧
        t.mem = (regionsWritten s t.ctx.saved (s.ctx.saveSeq + 1)).mem ∧
        ∃ n, t.reports = s.reports ++ [hostReport .preempt 1 s.ctx.id 0xFFFF 0 (s.ctx.saveSeq + 1) n]) ∧
    (LimitPassed s0 c → c.killed = false → ¬SaveStarts s.ctx →
      exec .watchdogStopExpiry s0 = .next (s0.kill c.id (hostReport .watchdog 2 c.id 0xFFFF 0 1 s0.now))) ∧
    (¬LimitPassed s0 c ∨ SaveStarts s.ctx → exec .watchdogStopExpiry s0 = .next s0) ∧
    (SaveStarts s.ctx → LimitPassed s s.ctx → s.ctx.hasVc s0.req.n = true →
      exec .watchdogSaveExpiry s0 =
        .next (s.kill s.ctx.id (hostReport .saveAbandoned 2 s.ctx.id s0.req.n 0 s0.req.n s.now))) ∧
    (¬SaveStarts s.ctx → exec .watchdogSaveExpiry s0 = .next s0))

namespace Sys2Proof.Claims

/-- The bit of a core's firing in THREADS (R387). -/
def HoldsFiring (v : VCore) (n : Nat) : Prop := ∃ t, (n, t) ∈ v.threads ∧ t.status ≠ .free

end Sys2Proof.Claims

/-- R387: the parts of a save region stand at their offsets with their sizes, its header holds the fields of the header's table, and a thread
image holds registers, masks, tokens, link descriptors, lane records and vector registers at theirs. (How the rest of an image is packed is
the model's choice, log 44.) -/
def Sys2Proof.Claims.SaveRegions : Prop :=
  (∀ (v : VCore) (c : Ctx),
    (v.pieces c).map (fun p => (p.1, p.2.length)) =
      [(0x40, 128), (0xC0, 64), (0x100, 1536), (0x700, 128), (0x1000, 147456), (0x25000, 34816), (0x2E000, 65536), (0x3E000, 65536),
       (0x4E000, 802816), (0x4D2000, 163840)]) ∧
  (∀ (v : VCore) (c : Ctx) seq, v.threads.map Prod.fst = List.range 8 → v.parks.length ≤ 4 →
    let h := v.header c seq
    h.length = 64 ∧ fld h 0 4 = 1 ∧ fld h 4 2 = v.id % 2 ^ 16 ∧ fld h 6 1 = c.id % 2 ^ 8 ∧ fld h 8 8 = seq % 2 ^ 64 ∧
      fld h 16 1 = 2 ^ v.parks.length - 1 ∧ fld h 17 3 = 0 ∧ fld h 20 4 = ((List.range 960).filter fun p => !v.dead.contains p).length ∧
      fld h 24 40 = 0 ∧ ∀ n, n < 8 → ((fld h 7 1).testBit n = true ↔ HoldsFiring v n)) ∧
  (∀ t : Thread,
    let b := threadImage t
    b.length = 12288 ∧ (∀ n, n < 64 → fld b (8 * n) 8 = (t.s[n]?.getD 0).toNat) ∧ (∀ n, n < 8 → fld b (0x200 + 4 * n) 4 = (t.getM n).toNat) ∧
      (∀ n, n < 8 → fld b (0x220 + 16 * n) 4 = (t.getK n).count % 2 ^ 32 ∧ fld b (0x224 + 16 * n) 2 = (if (t.getK n).err then 1 else 0) ∧
        fld b (0x226 + 16 * n) 2 = (t.getK n).cause % 2 ^ 16 ∧ fld b (0x228 + 16 * n) 8 = (t.getK n).addr % 2 ^ 64) ∧
      (∀ n, n < 32 → fld b (0x2A0 + 8 * n) 8 = linkDescr (t.getL n)) ∧
      (∀ n l, n < 32 → t.lanes[n]? = some l → (b.drop (0x400 + 32 * n)).take 32 = l.task.bytes) ∧
      (∀ n k, n < 64 → k < 32 → fld b (0x1000 + 128 * n + 4 * k) 4 = ((t.getV n).lane k).toNat))

namespace Sys2Proof.Claims

/-- Every region of a context is VALID, names its core, and has the same SAVESEQ (R388). -/
def RegionsValid (s : State) : Prop :=
  ∃ q, ∀ n, n < max 1 s.ctx.nmax → RegionReached s n ∧
    ∃ bs, s.hwRead (s.ctx.savebase + n * 0x500000) 64 = some bs ∧ fld bs 0 4 = 1 ∧ fld bs 4 2 = n ∧ fld bs 8 8 = q

/-- `n` bytes of the region of virtual core `v` from an offset on; a byte that is not reached is 0. -/
def regionAt (s : State) (v off n : Nat) : List Byte :=
  (List.range n).map fun i => match s.hwAddr (s.ctx.savebase + v * 0x500000 + off + i) with | .ok b => s.busByte b | .error _ => 0

/-- A firing that its image gives: registers, tokens, links, positions, trap and floating-point registers, and the lane records (R387). -/
def FromImage (t t' : Thread) (b : List Byte) : Prop :=
  (∀ n, n < 64 → t'.s[n]?.map BitVec.toNat = some (fld b (8 * n) 8)) ∧ (∀ n, n < 8 → (t'.getM n).toNat = fld b (0x200 + 4 * n) 4) ∧
  (∀ n, n < 8 → t'.getK n = ⟨fld b (0x220 + 16 * n) 4, (fld b (0x224 + 16 * n) 2).testBit 0, fld b (0x226 + 16 * n) 2, fld b (0x228 + 16 * n) 8⟩) ∧
  (∀ n, n < 32 → t'.getL n = linkOfDescr (fld b (0x2A0 + 8 * n) 8)) ∧
  [t'.apc, t'.cause, t'.epc, t'.faddr, t'.fdetail, t'.einst, t'.aepc, t'.hsave].map BitVec.toNat =
    [0x3A0, 0x3B8, 0x3C0, 0x3C8, 0x3D0, 0x3D8, 0x3E0, 0x3E8].map (fun k => fld b k 8) ∧
  [t'.fpflags, t'.fpen, t'.rmode].map BitVec.toNat = [0x3F0, 0x3F4, 0x3F8].map (fun k => fld b k 4) ∧
  t'.handler = (fld b 0x3B0 8).testBit 0 ∧ t'.donePending = (fld b 0x3B0 8).testBit 1 ∧
  t'.ePos.toNat = fld b 0x3A8 8 ∧
  t'.lanes.map LaneRec.task = (List.range t.lanes.length).map (fun n => taskOf ((b.drop (0x400 + 32 * n)).take 32)) ∧
  t'.lanes.map LaneRec.joined = t.lanes.map LaneRec.joined ∧
  (∀ n k, n < 64 → k < 32 → ((t'.getV n).lane k).toNat = fld b (0x1000 + 128 * n + 4 * k) 4) ∧ t'.status = t.status ∧ t'.id = t.id ∧
  t'.launch = t.launch

/-- A parked store that the record `rc` of 224 bytes gives (R387, log 44): base, mask, size, form, number of accesses, stride, then offsets in
form 1, then the data. -/
def FromRecord (p : Parked) (rc : List Byte) : Prop :=
  let lanes := (List.range 32).filter (fld rc 8 4).testBit
  let off := if fld rc 13 1 = 1 then 24 + 4 * fld rc 14 2 else 24
  p.accs.length = fld rc 14 2 ∧
    ∀ (i : Nat) (a : PAcc), p.accs[i]? = some a → a.bytes = ((rc.drop off).drop (fld rc 12 1 * i)).take (fld rc 12 1) ∧
      (a.lane = if fld rc 8 4 = 0 then none else lanes[i]?) ∧
      (fld rc 13 1 = 0 → (a.va : Int) = ((fld rc 0 8 : Int) + (BitVec.ofNat 64 (fld rc 16 8)).toInt * ((lanes[i]?.getD 0 : Int) - (lanes.headD 0 : Int))) % 2 ^ 64) ∧
      (fld rc 13 1 = 1 → (a.va : Int) = ((fld rc 0 8 : Int) + (BitVec.ofNat 32 (fld rc (24 + 4 * i) 4)).toInt) % 2 ^ 64)

/-- The queues and the parked stores that the image and the stream state of a thread give. -/
def FromStream (t' : Thread) (b st : List Byte) : Prop :=
  (∀ q, q < 8 → (t'.getQ q).length = min 16 (fld b (0x800 + 2 * q) 2) ∧
    ∀ (j : Nat) (e : QEntry), (t'.getQ q)[j]? = some e → e.mask.toNat = fld st (2112 * q + 132 * j + 128) 4 ∧
      e.ready = !(fld b (0x812 + 2 * q) 2).testBit j ∧ ∀ k, k < 32 → (e.lanes.lane k).toNat = fld st (2112 * q + 132 * j + 4 * k) 4) ∧
  t'.replay.length = min 16 (fld b 0x810 2) ∧
  ∀ (i : Nat) (p : Parked), t'.replay[i]? = some p → FromRecord p ((st.drop (16896 + 224 * i)).take 224)

/-- An accumulator row that a RAW row of 128 columns gives (R222). -/
def FromRaw (r : AccRow) (b : List Byte) : Prop :=
  (∀ j, j < 128 → (r.col j).toNat = fld b (64 + 24 * j) 24) ∧ r.nan.toNat = fld b 16 16 ∧ r.posInf.toNat = fld b 32 16 ∧
    r.negInf.toNat = fld b 48 16 ∧ r.e.toNat = fld b 0 2 % 1024 ∧ r.pair = (fld b 2 1).testBit 0 ∧ r.anchor = (fld b 2 1).testBit 1

/-- A lantern table that a region gives: none where its loaded flag is clear (R387). -/
def FromTable (w : VCore) (f bs : List Byte) : Prop :=
  (fld f 3 1 = 0 → w.table = none) ∧
    (fld f 3 1 ≠ 0 → ∃ u, w.table = some u ∧ (u.kind = if fld f 0 1 = 0 then .full else .total) ∧ u.hood = fld f 1 1 ∧ u.bits = fld f 2 1 ∧
      u.entries = bs.take (tableSize u.kind u.hood u.bits))

/-- The pending frees and COPYMs that a region gives: unused entries are zero (R387). -/
def FromBooks (w : VCore) (fs cs : List Byte) : Prop :=
  (w.frees.length ≤ 96 ∧ (w.frees.length < 96 → fld fs (16 * w.frees.length) 8 = 0) ∧
    ∀ (k : Nat) (f : PendingFree), w.frees[k]? = some f → f.key = fld fs (16 * k) 8 ∧ f.key ≠ 0 ∧ f.sender = fld fs (16 * k + 8) 4 ∧
      f.order % 2 ^ 32 = fld fs (16 * k + 12) 4) ∧
  w.copyms.length ≤ 4 ∧ (w.copyms.length < 4 → fld cs (32 * w.copyms.length + 8) 8 = 0) ∧
    ∀ (k : Nat) (x : OutCopym), w.copyms[k]? = some x → x.mailbox = fld cs (32 * k + 8) 8 ∧ x.scope = fld cs (32 * k + 16) 8 ∧
      x.order = fld cs (32 * k + 24) 8 ∧ ∀ m, m ∈ x.members ↔ ∃ n, n < 24 ∧ (fld cs (32 * k) 8).testBit n = true ∧ m = 24 * (w.id / 24) + n

/-- A thread slot of a virtual core that its image gives, where the header's THREADS names a firing there (R387, R388). -/
def FromSlot (used : Bool) (x y : Thread) (b st : List Byte) : Prop :=
  (used = false → y = if x.status = .free then x else x.freed) ∧
  (used = true → ∃ t, (y = if t.status = .stopped then { t with status := .running } else t) ∧
    FromImage (if x.status = .free then { x with status := .running } else x) t b ∧ FromStream t b st)

/-- A virtual core as its region gives it on a physical core; what the layout has no place for is as it was saved (log 44). -/
def FromRegion (s : State) (v w : VCore) (phys : Nat) : Prop :=
  let at' := regionAt s v.id
  w.id = v.id ∧ w.phys = phys ∧ w.spillBase = v.spillBase ∧ w.bank0 = v.bank0 ∧ w.bank1 = v.bank1 ∧
  (∀ p, p < 960 → (p ∈ w.dead ↔ (leNat (at' 0x40 128)).testBit p = false)) ∧
  (∀ n, n < 4 → w.mkeys[n]?.map BitVec.toNat = some (fld (at' 0xC0 32) (8 * n) 8)) ∧
  (∀ r, r < 256 → FromRaw (w.row r) (at' (0x4E000 + 3136 * r) 3136)) ∧
  FromTable w (at' 0xE0 4) (at' 0x3E000 65536) ∧ FromBooks w (at' 0x100 1536) (at' 0x700 128) ∧
  w.threads.map Prod.fst = v.threads.map Prod.fst ∧
  (∀ (k : Nat) (x y : Nat × Thread), v.threads[k]? = some x → w.threads[k]? = some y →
    FromSlot ((fld (at' 0 64) 7 1).testBit x.1) x.2 y.2 (at' (0x1000 + 12288 * x.1) 12288) (at' (0x4D2000 + 20480 * x.1) 20480)) ∧
  (∀ q ∈ w.parks, ∃ (k : Nat) (p : ParkSlot), v.parks[k]? = some p ∧ (fld (at' 0 64) 16 1).testBit k = true ∧
    FromImage p.thr q.thr (at' (0x1000 + 12288 * (8 + k)) 12288)) ∧
  ∀ (k : Nat) (p : ParkSlot), v.parks[k]? = some p → (fld (at' 0 64) 16 1).testBit k = true → ∃ q ∈ w.parks,
    FromImage p.thr q.thr (at' (0x1000 + 12288 * (8 + k)) 12288)

/-- Every page of every region read, with A set in its leaf (R361, R398). -/
def regionsRead (s : State) (n : Nat) : State := (List.range n).foldl (fun u k => u.markRange (s.ctx.savebase + k * 0x500000) 0x500000) s

/-- Cores that a context can be placed on (R2, R354). -/
def CoresFree (s : State) (part : Nat) (phys : List Nat) : Prop :=
  phys.Nodup ∧ ∀ x ∈ phys, (SMap.find s.cores x).isSome = true ∧ s.partOf (x / 288) = some part ∧ x ∉ s.usedCores

/-- A thread with a report goes on where the report says (R381). -/
def unparked (t : Thread) (r : Report) : Thread :=
  { t with status := .running, apc := BitVec.ofNat 64 (if r.stream = 1 then r.aepc else r.epc), waitA := .none, waitE := .none,
           watchPass := if r.cause = .watchpoint then t.watchPass ++ [r.fdetail + (if r.stream = 1 then 4 else 0)] else t.watchPass }

/-- The steps that were held, to be taken after the agenda. -/
def released (s : State) : State :=
  { s with heldMoves := [], agenda := s.agenda ++ s.heldMoves.map fun x => .event x.1 x.2 }

end Sys2Proof.Claims

/-- R381, R388: CONTEXT_RESTORE kills a context whose regions are not all valid with one number, and is refused where the cores of the request
cannot take it; else each region gives its core's registers, rows, tables, threads and dead pages, the slices read zero in pages that its page
map leaves out and as the region says in the others, slice-view leaves name the new cores, every thread continues, one that stopped at a PPT after it, a parked one still
parked, and what was held is acted on. THREAD_RESUME continues a parked thread at the positions of its report. -/
def Sys2Proof.Claims.RestoreAndResume : Prop :=
  (∀ (s0 : State) c, s0.ctxAt s0.req.t.ctx = some c →
    let s := regionsRead (atCtx s0 c.id) c.nmax
    (c.killed = true ∨ c.preempt ≠ .saved → exec .contextRestore s0 = refused s0) ∧
    (c.killed = false → c.preempt = .saved →
      (¬RegionsValid s → exec .contextRestore s0 = .next (s.kill c.id (hostReport .containment 2 c.id 0xFFFF 0 c.id s.now))) ∧
      (RegionsValid s → s0.req.l1.length ≠ c.nmax ∨ ¬CoresFree s c.part s0.req.l1 → exec .contextRestore s0 = refused s0) ∧
      (RegionsValid s → s0.req.l1.length = c.nmax → CoresFree s c.part s0.req.l1 →
        let views := (c.saved.zip s0.req.l1).map fun x => (x.1.id, x.2)
        ∃ t : State, exec .contextRestore s0 = .next
            (released (replied (t.ctx.vcores.foldl (fun u v => u.changeDeque v.1 id) t) .done)) ∧
          t.agenda = s0.agenda ∧ t.heldMoves = s0.heldMoves ∧ t.ctx.preempt = .none ∧ t.ctx.saved = [] ∧ t.ctx.holdings = s.ctx.holdings ∧
          t.ctx.launches = s.ctx.launches ∧ (∀ e ∈ t.l2tlb, e.2.ctx ≠ c.id) ∧
          t.mem = ((c.saved.zip s0.req.l1).foldl (fun u x => u.loadSlice x.1 x.2) (s.rewriteViews views)).mem ∧
          t.ctx.vcores.map Prod.fst = (c.saved.zip s0.req.l1).map (fun x => x.1.id) ∧
          ∀ (k : Nat) (x : VCore × Nat) (w : Nat × VCore), (c.saved.zip s0.req.l1)[k]? = some x → t.ctx.vcores[k]? = some w →
            FromRegion (s.rewriteViews views) x.1 w.2 x.2))) ∧
  (∀ (s : State) (v : VCore) phys p k, Memory.wf s.mem → p < 960 → (leNat (regionAt s v.id 0x40 128)).testBit p = false → k < 4096 →
    (s.loadSlice v phys).mem.read (phys * 0x400000 + 4096 * p + k) = 0) ∧
  (∀ (s : State) (v : VCore) phys, s.loadSlice v phys = ((List.range 960).filter (leNat (regionAt s v.id 0x40 128)).testBit).foldl
    (fun u p => { u with mem := Memory.writeN u.mem (phys * 0x400000 + 4096 * p) (regionAt u v.id (0x112000 + 4096 * p) 4096) })
    { s with mem := Memory.zeroN s.mem (phys * 0x400000) 0x3C0000 }) ∧
  (∀ (s : State) n phys g pte lv pa,
    let va := 0x10000000000 + n * 0x400000 + 65536 * g
    s.walk va = .leaf pte lv pa →
    (leafAddr pte lv va = phys * 0x400000 + 65536 * g → s.confirmLeaf n phys g = s) ∧
    (leafAddr pte lv va ≠ phys * 0x400000 + 65536 * g → s.confirmLeaf n phys g = { s with mem := Memory.writeN s.mem pa (leBytes 8 (pte - 1)) }) ∧
    (∀ base, base + va % pageSize lv = phys * 0x400000 + 65536 * g → base % pageSize lv = 0 →
      s.rewriteLeaf n phys g =
        { s with mem := Memory.writeN s.mem pa (leBytes 8 (pte - pte / 2 ^ 16 % 2 ^ 38 * 2 ^ 16 + base)) })) ∧
  (∀ (s0 : State) c, s0.ctxAt s0.req.t.ctx = some c → c.killed = false → c.preempt ≠ .saved →
    let s := here s0
    (∀ r, s.ctx.hasVc s.vc.id = true → s.thr.status = .parked r → s.ctx.preempt = .none →
      exec .threadResume s0 = done (s.setThr (unparked s.thr r))) ∧
    (∀ r, s.ctx.hasVc s.vc.id = true → s.thr.status = .parked r → s.ctx.preempt ≠ .none →
      exec .threadResume s0 = done (s.setThr { unparked s.thr r with status := .stopped })) ∧
    ((s.ctx.hasVc s.vc.id = false ∨ ∀ r, s.thr.status ≠ .parked r) → exec .threadResume s0 = refused s0)) ∧
  (∀ (s0 : State) c, s0.ctxAt s0.req.t.ctx = some c → c.killed = false → c.preempt = .saved →
    (∃ v ∈ c.saved, v.id = s0.req.t.vc ∧ ∃ t ∈ v.threads, t.1 = s0.req.t.th ∧ ∃ r, t.2.status = .parked r) →
    exec .threadResume s0 = done { atCtx s0 c.id with ctx := { (atCtx s0 c.id).ctx with
      saved := (atCtx s0 c.id).ctx.saved.map fun v => v.unparkAt s0.req.t.vc s0.req.t.th } })

/-- What a save region holds, CONTEXT_RESTORE and THREAD_RESUME: `SaveRegions`, `RestoreAndResume`. Where the spec is silent it states the
choices of the model: log 36, log 44, log 57. -/
def Obligations.SaveAndRestore : Prop := Sys2Proof.Claims.SaveRegions ∧ Sys2Proof.Claims.RestoreAndResume

/-! ## The belfry and the hardware -/

namespace Sys2Proof.Claims

/-- The two stops of the belfry and their causes (R389). -/
def stops : List (Instr × Cause) := [(.gangStop, .gangStop), (.debugHalt, .debugHalt)]

/-- No copy of the contexts of a partition is left. -/
def CopiesComplete (s : State) (n : Nat) : Prop :=
  ∀ e ∈ s.sync.ctxs, e.2.live = true → e.2.killed = false → e.2.part = n → e.2.copies = []

/-- A stop of a partition answered, once its copies have completed; until then it is pending. -/
def StopAnswered (s : State) (n : Nat) (u : State) : Prop :=
  (CopiesComplete s n → u = replied { s with stops := s.stops.filter fun k => decide (k ≠ n) } .done) ∧ (¬CopiesComplete s n → u = s)

/-- The contexts of a partition that a stop reaches. -/
def ctxsOf (s : State) (n : Nat) : List Ctx :=
  (s.sync.ctxs.filter fun c => c.2.live && !c.2.killed && decide (c.2.part = n)).map Prod.snd

end Sys2Proof.Claims

/-- R389, R390: a stop of a partition completes its copies and stores, reports every running thread with its cause and no stream, freezes its
contexts and fills the halt record of each of its cores; it is answered once every copy of the partition has completed, and stays pending until
then. A partition that stands still is refused. The resume of a gang stop or debug halt that was answered releases the partition and delivers
what was held. -/
def Sys2Proof.Claims.BelfryStops : Prop :=
  (∀ (s : State) i c, (i, c) ∈ stops →
    (s.req.n ∈ s.stops → ∃ t, exec i s = .next t ∧ StopAnswered s s.req.n t) ∧
    (s.req.n ∉ s.stops → s.parts[s.req.n]? = none → exec i s = refused s) ∧
    (∀ p, s.req.n ∉ s.stops → s.parts[s.req.n]? = some p → p.stopped ≠ none → exec i s = refused s) ∧
    (∀ p, s.req.n ∉ s.stops → s.parts[s.req.n]? = some p → p.stopped = none →
      let u := ((ctxsOf s s.req.n).foldl (fun s x => s.haltCtx c x) s).focus s.tid
      ∃ t v : State, exec i s = .next v ∧ StopAnswered t s.req.n v ∧
        t = { u with parts := u.parts.set s.req.n { p with stopped := some c }, stops := u.stops ++ [s.req.n], cores := t.cores } ∧
        (∀ k x, SMap.find u.cores k = some x → SMap.find t.cores k =
          some (if p.hasDie (dieOf k) then { x with halt := some ⟨x.cycle, x.sent, x.recv⟩ } else x)))) ∧
  (∀ (s : State) c x, (s.haltCtx c x).ctx.halted = true) ∧
  (∀ (s : State) c, s.thr.status = .running →
    s.haltReport c = withReport s { reportAt s false s.thr.apc ⟨c, 0, 0⟩ 1 with stream := 2 }) ∧
  (∀ (s : State) c, s.thr.status ≠ .running → s.haltReport c = s) ∧
  (∀ s : State,
    (s.parts[s.req.n]? = none → exec .belfryResume s = refused s) ∧
    (∀ p, s.parts[s.req.n]? = some p → p.stopped ≠ some .gangStop → p.stopped ≠ some .debugHalt → exec .belfryResume s = refused s) ∧
    (∀ p, s.parts[s.req.n]? = some p → s.req.n ∈ s.stops → exec .belfryResume s = refused s) ∧
    (∀ p, s.parts[s.req.n]? = some p → s.req.n ∉ s.stops → p.stopped = some .gangStop ∨ p.stopped = some .debugHalt →
      ∃ t : State, exec .belfryResume s = .next (released (replied t .done)) ∧ t.parts = s.parts.set s.req.n { p with stopped := none } ∧
        t.mem = s.mem ∧ t.agenda = s.agenda ∧ t.heldMoves = s.heldMoves ∧
        (∀ k c, SMap.find s.sync.ctxs k = some c → SMap.find t.ctxs k = some (if c.part = s.req.n then { c with halted := false } else c))))

namespace Sys2Proof.Claims

/-- A context killed for a reason of the module, with its report (R32, R394). -/
def killedFor (s : State) (c : Ctx) (cause : Cause) (d : Nat) : State := s.kill c.id (hostReport cause 2 c.id 0xFFFF 0 d s.now)

/-- Where the traffic of a far address leaves, by the model's own hash (log 9). -/
def farPort (s : State) (b : Nat) : Nat := Config.spanPort s.liveSpans (Config.farNode (paOf b))

/-- A store of a thread that a failed span link loses. -/
def LostStore (s : State) (port : Nat) (p : PStore) : Prop := isFar p.pa = true ∧ farPort s p.pa = port

/-- An address that the tables map to far memory behind a port. -/
def FarBehind (s : State) (port va : Nat) : Prop :=
  ∃ pte lv a, s.walk va = .leaf pte lv a ∧ isFar (leafAddr pte lv va) = true ∧ farPort s (leafAddr pte lv va) = port

/-- A page of a range outside every window, or a backing page of a view over it, lies in far memory behind a port. -/
def RangeBehind (s : State) (ws : List Window) (port : Nat) (r : Nat × Nat) : Prop :=
  r.2 ≠ 0 ∧ ∃ va, (va = r.1 ∨ va % 65536 = 0) ∧ r.1 ≤ va ∧ va < r.1 + r.2 ∧
    ((findWindow ws va = none ∧ FarBehind s port va) ∨
      ∃ w, findWindow ws va = some w ∧ w.kind = 6 ∧ ∃ k, k < (65536 / (w.backing va).2) * (mxKind (w.par 2)).2.2.2 / 65536 + 2 ∧
        FarBehind s port ((w.backing (va / 65536 * 65536)).1 + 65536 * k))

/-- A copy that has begun and reaches memory behind a port: by its source, its destination or its completion word. -/
def CopyBehind (s : State) (port : Nat) (j : CopyJob) : Prop :=
  j.pos ≠ 0 ∧ (RangeBehind s j.windows port j.src.range ∨ (j.members = none ∧ RangeBehind s [] port j.dst.range) ∨
    (j.word ≠ 0 ∧ RangeBehind s [] port (j.word, 8)))

end Sys2Proof.Claims

/-- R26 to R28, R31 to R33: BRING_UP starts the firmware that bears a good signature, marks the banks that its self-test finds, then publishes
the enabled cores and acts on what was held; a droop stretches a die's clock, and its cores
count only the cycles that occur; a trip stops the die's partition and kills each of its contexts with THERMAL_TRIP; a failed span link
leaves the hash, the stores and begun copies on it are lost and reported, and the nodes that it alone reached are unreachable; a failed CXL
link makes the accesses on it fault until a partition reset, which destroys the partition's contexts and interleaves the pool anew. Where
the spec is silent it states the choices of the model: log 3, log 7, log 9, log 10, log 15, log 35, log 39. -/
def Obligations.ClocksAndLinks : Prop :=
  (∀ s : State, s.phase = .up → exec .bringUp s = .next s) ∧
  (∀ s : State, s.phase = .reset → (Config.firmwareSigned = true → exec .bringUp s = .next { s with phase := .started }) ∧
    (Config.firmwareSigned = false → exec .bringUp s = .next s)) ∧
  (∀ s : State, s.phase = .started → ∃ t : State, exec .bringUp s = .next t ∧ t = { s with phase := .tested, failedBanks := t.failedBanks } ∧
    ∀ b, b ∈ t.failedBanks ↔ b ∈ s.req.l1.zip s.req.l2 ∧ b.1 < 2304 ∧ b.2 < 16) ∧
  (∀ s : State, s.phase = .tested → ∃ t : State, exec .bringUp s = .next (released t) ∧ t.phase = .up ∧ t.mem = s.mem ∧ t.agenda = s.agenda ∧
    t.heldMoves = s.heldMoves ∧
    (∀ c, SMap.find t.cores c = if c < 2304 ∧ c ∉ s.fused then some PCore.fresh else none) ∧ t.enabled = BitVec.ofNat 64 t.cores.length) ∧
  (∀ s : State, (s.req.n < 8 → s.req.n ∉ s.stretched → exec .supplyDroop s = .next { s with stretched := s.stretched ++ [s.req.n] }) ∧
    exec .supplyRecovery s = .next { s with stretched := s.stretched.filter fun d => decide (d ≠ s.req.n) }) ∧
  (∀ (s : State) c x, SMap.find s.cores c = some x → SMap.find s.tick.cores c = some
    (if c / 288 ∈ s.stretched then x else { x with cycle := x.cycle + 1 })) ∧
  (∀ s : State, s.req.n < 8 → s.req.n ∉ s.tripped →
    let u := { s with tripped := s.tripped ++ [s.req.n] }
    (s.partOf s.req.n = none → exec .thermalTrip s = .next u) ∧
    (∀ n, s.partOf s.req.n = some n → exec .thermalTrip s = .next ((ctxsOf u n).foldl (fun s c => killedFor s c .thermalTrip u.req.n)
      { u with parts := u.parts.modify n fun p => { p with stopped := some .thermalTrip } }))) ∧
  (∀ s : State, s.req.n < 24 → s.req.n ∉ s.spanDown → ∃ t, exec .spanLinkDown s = .next t ∧ t.spanDown = s.spanDown ++ [s.req.n] ∧
    t.mem = s.mem ∧ ∀ n, n ∈ t.farLost ↔ n ∈ s.farLost ∨ n ∈ s.req.l1) ∧
  (∀ (s : State) b, isFar b = true → ((∀ p, p < 24 → p ∈ s.spanDown) ∨ Config.farNode (paOf b) ∈ s.farLost →
      s.linkFails b = some (.farUnreachable, Config.farNode (paOf b))) ∧
    ((∃ p, p < 24 ∧ p ∉ s.spanDown) → Config.farNode (paOf b) ∉ s.farLost → s.linkFails b = none)) ∧
  (∀ (s : State) b, paOf b < 0x80000000000 → s.linkFails b = none) ∧
  (∀ (s : State) port,
    let u := s.ctxLinkLost port
    (u.thr.stores = s.thr.stores.filter fun p => !(isFar p.pa && decide (farPort s p.pa = port))) ∧
    (∀ p ∈ s.thr.stores, LostStore s port p → ⟨.spanLinkDown, p.va, p.view.getD port⟩ ∈ u.thr.storeErr) ∧
    (∀ k j, (k, j) ∈ s.ctx.copies →
      (CopyBehind s port j → (k, { j with stop := some ⟨.spanLinkDown, 0, port⟩, suspended := false }) ∈ u.ctx.copies) ∧
      (¬CopyBehind s port j → (k, j) ∈ u.ctx.copies))) ∧
  (∀ s : State, s.req.n < 16 → s.req.n ∉ s.cxlDown → exec .poolLinkDown s = .next { s with cxlDown := s.cxlDown ++ [s.req.n] }) ∧
  (∀ (s : State) pa, isPool pa = true → s.portOf pa ∈ s.cxlDown → s.linkFails pa = some (.poolLinkDown, s.portOf pa)) ∧
  (∀ (s : State) pa, isPool pa = true → s.portOf pa ∉ s.cxlDown → s.linkFails pa = none) ∧
  (∀ s : State, (s.parts[s.req.n]? = none → exec .partitionReset s = refused s) ∧
    (∀ p, s.parts[s.req.n]? = some p → ∃ t, exec .partitionReset s = done t ∧ t.parts = s.parts.set s.req.n { p with stopped := none } ∧
      t.mem = (((s.sync.ctxs.filter fun c => c.2.live && decide (c.2.part = s.req.n)).map Prod.fst).foldl State.destroy s).mem ∧
      ((s.sync.ctxs.map Prod.fst).Pairwise (· < ·) → ∀ e ∈ t.ctxs, e.2.live = true → e.2.part ≠ s.req.n) ∧ s.req.n ∉ t.stops ∧
      t.poolPorts = ((List.range 16).filter fun x => decide (x ∉ s.cxlDown)) ∧
      t.tripped = (s.tripped.filter fun d => decide (d / 2 ^ p.k ≠ p.m))))

namespace Sys2Proof.Claims

/-- The word of 16 bytes around an address (R392). -/
def wordOf (pa : Nat) : Nat := pa / 16 * 16

/-- A thread that an error reaches: of a live context that is not killed, placed and not free. -/
def ErrorReaches (s : State) : Prop := s.ctx.live = true ∧ s.ctx.killed = false ∧ s.ctx.hasVc s.vc.id = true ∧ s.thr.status ≠ .free

/-- A firing that R396 replays: REPLAY is set, every lane is RESTARTABLE, and it has not changed the array. -/
def Replays (s : State) (c : Cause) : Prop :=
  (c = .sramUncorrectable ∨ c = .accUncorrectable ∨ c = .regfileUncorrectable ∨ c = .machineCheck) ∧
    (∃ l, SMap.find s.ctx.launches s.thr.launch = some l ∧ l.replay = true) ∧ s.thr.lanes ≠ [] ∧
    (∀ l ∈ s.thr.lanes, l.task.restart = true) ∧ s.thr.touchedArray = false

/-- Whether an error lies in the state of a context or in its cores' slices (R375). -/
def ErrorIn (c : Ctx) : HwError → Prop
  | .sram pa => ∃ v ∈ c.vcores, v.2.phys = pa / 0x400000
  | .corrected core _ | .correctedAcc core _ _ => ∃ v ∈ c.vcores, v.2.phys = core
  | .acc t _ _ _ | .regfile t _ | .machineCheck t | .correctedReg t _ => t.ctx = c.id
  | .firmware ctx _ => ctx = c.id

/-- An entry that a log of a core gets (R393): 16 are kept, and the newest replaces the oldest. -/
def Logged (s u : State) (core : Nat) (k : ErrLog) (addr ctxid : Nat) (unc : Bool) : Prop :=
  u = { s with cores := u.cores, freeCtr := u.freeCtr } ∧ (∀ n, n ≠ core → SMap.find u.cores n = SMap.find s.cores n) ∧
  (SMap.find s.cores core = none → SMap.find u.cores core = none) ∧
  ∀ x, SMap.find s.cores core = some x → ∃ y e, SMap.find u.cores core = some y ∧
    y.logOf k = (if 16 ≤ (x.logOf k).length then (x.logOf k).drop 1 else x.logOf k) ++ [e] ∧
    e.addr = addr ∧ e.uncorrected = unc ∧ e.ctxid = ctxid ∧ e.cycle = x.cycle.toNat ∧
    (e.arrayFailed = true ↔ k = .slice ∧ ∃ n, (core, n) ∈ s.failedArrays) ∧
    (∀ l, l ≠ k → y.logOf l = x.logOf l) ∧ y.cycle = x.cycle ∧ y.sent = x.sent ∧ y.recv = x.recv ∧ y.halt = x.halt

/-- A command of a thread that touches a row and has no error yet. -/
def TouchesRow (t : Tid) (row : Nat) (c : ArrayCmd) : Prop :=
  c.vcore = t.vc ∧ c.thread = t.th ∧ c.err = none ∧ c.first ≤ row ∧ row < c.first + c.count

/-- A context that uses the link whose failure a cause names (R394, log 39), by its port, or by any where a view address stands in the port's
place (R244): a store on its way over it, an error that the failure left to be
reported, or a copy that it stopped or that begins over it. -/
def OnLink (s : State) (i : TrapInfo) (x : Ctx) : Prop :=
  let same := fun d : Nat => d = i.fdetail ∨ 24 ≤ d ∨ 24 ≤ i.fdetail
  let on := fun b => i.cause = .poolLinkDown ∧ isPool b = true ∧ s.portOf b ∈ s.cxlDown ∧ same (s.portOf b)
  let lost := fun e : LateErr => e.cause = i.cause ∧ same e.fdetail
  let reaches := fun va => ∃ pte lv a, walkFrom s.mem va 5 1 x.root = .leaf pte lv a ∧ on (leafAddr pte lv va)
  x.live = true ∧ x.killed = false ∧
    ((∃ v ∈ x.vcores, ∃ t ∈ v.2.threads, (∃ p ∈ t.2.stores, on p.pa) ∨ ∃ e ∈ t.2.storeErr ++ t.2.deferred, lost e) ∨
      ∃ j ∈ x.copies, (∃ e, j.2.stop = some e ∧ lost e) ∨ reaches j.2.src.base ∨ reaches j.2.dst.base)

/-- A context that shares the pool memory in which an access found an error: its page tables map the first word from there on that cannot be
corrected (R356, R394, log 39). -/
def OnBadWord (s : State) (i : TrapInfo) (x : Ctx) : Prop :=
  x.live = true ∧ x.killed = false ∧ ∃ w, s.badPoolWord i.faddr = some w ∧ mapsFrom s.mem w 5 1 x.root = true

/-- The contexts killed with the link or the pool memory that failed; their reports name the context whose access found it (R382). -/
def withShared (s : State) (i : TrapInfo) : State :=
  (s.sync.ctxs.filter fun x => if i.cause = .poolError then s.sharesWord i x.2 else s.usesLink i x.2).foldl
    (fun u x => u.kill x.1 (hostReport .containment 2 x.1 0xFFFF 0 s.ctx.id u.now)) s

/-- A firing replayed (R396): discarded, a pre-emption requested, its records enqueued again, and the cause reported. -/
def replayed (s : State) (r : Report) : State :=
  let u := jobsStopped (freedThr s)
  withReport (State.enqueue { u with ctx := { u.ctx with preempt := if u.ctx.preempt = .none then .pending [] else u.ctx.preempt } }
    s.vc.id s.thr.launch 0 (s.thr.lanes.map LaneRec.task)) r

/-- An access from outside that the core of a slice serves (R25): a request and the data of a store received, a response sent. -/
def servedTo (s : State) (store : Bool) (b : Nat) : State :=
  if b < 0x240000000 then
    let u := (s.countAt (b / 0x400000) 0 0 1).countAt (b / 0x400000) 2 1 0
    if store then u.countAt (b / 0x400000) 1 0 1 else u
  else s

/-- A stretch of physical memory that a host node can reach: it exists and lies in slices or the pool, on links that work. -/
def Reachable (s : State) (pa n : Nat) : Prop :=
  physExists pa = true ∧ physExists (pa + n - 1) = true ∧ isFar pa = false ∧ isFar (pa + n - 1) = false ∧ s.linkFails pa = none

end Sys2Proof.Claims

/-- R375, R381, R392 to R396: a word that cannot be corrected stays so, and a scrub logs and corrects what can be; an error that a thread
meets is logged in a 16-entry log of its core (a machine check in the slice's, which is the model's choice, log 39) and kills its context,
with those that use a link or map the pool memory that failed, but for a replayable firing, whose records are enqueued again while a pre-emption is requested; an
accumulator error that a command of the thread meets is deferred; an injected error names a context, reaches only its state, and has every
effect of a real one. Where the spec is silent it states the choices of the model: log 15, log 39. -/
def Obligations.HardwareErrors : Prop :=
  (∀ s : State, (∀ c, s.sync.ctxAt s.req.t.ctx = some c → ¬ErrorIn c s.req.err) →
    exec .errorInjection s = .next (replied s .refused)) ∧
  (∀ (s : State) c, s.sync.ctxAt s.req.t.ctx = some c → ErrorIn c s.req.err →
    ∃ t, exec .uncorrectableError s = .next t ∧ exec .errorInjection s = .next (replied t .done)) ∧
  (∀ s : State, ∃ t, exec .uncorrectableError s = .next t) ∧
  (∀ (s : State) k core addr ctxid unc, Logged s (s.logError k core addr ctxid unc) core k addr ctxid unc) ∧
  (∀ (s : State) pa, s.req.err = .sram pa → ∃ t, exec .uncorrectableError s = .next t ∧ wordOf pa ∈ t.badWords ∧ t.mem = s.mem ∧
    ∀ w, w ≠ wordOf pa → (w ∈ t.badWords ↔ w ∈ s.badWords)) ∧
  (∀ (s : State) c a, s.req.err = .corrected c a → ∃ t, exec .uncorrectableError s = .next t ∧ t.mem = s.mem ∧
    ((∀ k, (c, k) ∉ s.failedArrays) → t.badWords = s.badWords ∧
      (wordOf (c * 0x400000 + a % 0x400000) ∈ t.softWords ∨ wordOf (c * 0x400000 + a % 0x400000) ∈ s.badWords))) ∧
  (∀ (s : State) core row col, s.req.err = .correctedAcc core row col → exec .uncorrectableError s =
    .next { s with softAccs := if (core, row, col) ∈ s.softAccs then s.softAccs else s.softAccs ++ [(core, row, col)] }) ∧
  (∀ (s : State) tid vector, s.req.err = .correctedReg tid vector →
    (¬ErrorReaches (s.focus tid) → exec .uncorrectableError s = .next s) ∧
    (ErrorReaches (s.focus tid) → exec .uncorrectableError s =
      .next ((s.focus tid).logError (if vector = true then .vregs else .sregs) (s.focus tid).vc.phys 0 (s.focus tid).ctx.id false))) ∧
  (∀ (s : State) ctx code, s.req.err = .firmware ctx code →
    (∀ c, s.ctxAt ctx = some c → c.killed = false →
      exec .uncorrectableError s = .next (s.kill ctx (hostReport .firmwareError 2 ctx 0xFFFF 0 code s.now))) ∧
    ((∀ c, s.ctxAt ctx = some c → c.killed = true) → exec .uncorrectableError s = .next s)) ∧
  (∀ (s : State) tid (c : Cause) (k : ErrLog),
      (s.req.err = .regfile tid false ∧ c = .regfileUncorrectable ∧ k = .sregs) ∨
      (s.req.err = .regfile tid true ∧ c = .regfileUncorrectable ∧ k = .vregs) ∨
      (s.req.err = .machineCheck tid ∧ c = .machineCheck ∧ k = .slice) →
    let u := s.focus tid
    (¬ErrorReaches u → exec .uncorrectableError s = .next s) ∧
    (ErrorReaches u → exec .uncorrectableError s =
      .next ((u.logError k u.vc.phys 0 u.ctx.id true).takeTrap false ⟨c, 0, u.logIndex k u.vc.phys⟩))) ∧
  (∀ (s : State) k core x, SMap.find s.cores core = some x → s.logIndex k core = min 15 (x.logOf k).length) ∧
  (∀ (s : State) tid core row col, s.req.err = .acc tid core row col →
    let u := s.focus tid
    (¬ErrorReaches u → exec .uncorrectableError s = .next s) ∧
    (∀ v, ErrorReaches u → u.vcAt core = some v →
      let w := u.logError .acc v.phys (row * 2 ^ 16 + col) u.ctx.id true
      let e : LateErr := ⟨.accUncorrectable, 0, u.logIndex .acc v.phys⟩
      (∀ before c after, v.outstanding = before ++ c :: after → (∀ x ∈ before, ¬TouchesRow u.tid row x) → TouchesRow u.tid row c →
        exec .uncorrectableError s = .next (w.onVc core fun v => { v with outstanding := before ++ { c with err := some e } :: after })) ∧
      ((∀ x ∈ v.outstanding, ¬TouchesRow u.tid row x) →
        exec .uncorrectableError s = .next (w.spoilTile.takeTrap false ⟨.accUncorrectable, 0, e.fdetail⟩)))) ∧
  (∀ (s0 : State) (estream : Bool) (i : TrapInfo), causeDisp i.cause = .f →
    let s := s0.atTrap estream
    let r := reportAt s estream (if estream then s.thr.ePos else s.thr.apc) i
    let killed := s.kill s.ctx.id (r 2)
    (¬Replays s i.cause → i.cause ∉ [.poolLinkDown, .spanLinkDown, .poolError] → s0.takeTrap estream i = killed) ∧
    (i.cause ∈ [.poolLinkDown, .spanLinkDown, .poolError] → s0.takeTrap estream i = withShared killed i) ∧
    (Replays s i.cause → s0.takeTrap estream i = replayed s (r 1))) ∧
  (∀ (s : State) i x, s.usesLink i x = true ↔ OnLink s i x) ∧
  (∀ (s : State) i x, s.sharesWord i x = true ↔ OnBadWord s i x) ∧
  (∀ s : State, (SMap.find s.cores s.req.n = none → exec .scrub s = .next s) ∧
    (∀ x, SMap.find s.cores s.req.n = some x → ∃ t, exec .scrub s = .next t ∧ t.mem = s.mem ∧ t.badWords = s.badWords ∧
      t.softWords = s.softWords.filter (fun w => decide (w / 0x400000 ≠ s.req.n)) ∧
      t.softAccs = s.softAccs.filter (fun x => decide (x.1 ≠ s.req.n)) ∧
      (s.req.flag = true → s.req.m < 18 → (s.req.n, s.req.m) ∈ t.failedArrays)))

/-- R25, R27, R30, R372, R390: an access of a host node reads, writes or adds to the bytes of slices and pool that exist, exactly those, on the
pool under the key slot that it names (log 52); the core of a slice counts it; a write or an atomic to a slice of a stopped partition is held;
one that does not exist is a fault of the model. -/
def Sys2Proof.Claims.HostNodeAccesses : Prop :=
  (∀ (s : State) pa n, s.req.acc = .read pa n →
    (physExists pa = false ∨ physExists (pa + n - 1) = false → exec .hostNodeAccess s = .fault (.physicalHole pa)) ∧
    (Reachable s pa n →
      exec .hostNodeAccess s = .next (replied (servedTo s false (busOf (s.req.k % 1024) pa)) (.bytes (s.busRead (busOf (s.req.k % 1024) pa) n))))) ∧
  (∀ (s : State) pa bs, s.req.acc = .write pa bs → Reachable s pa bs.length →
    (s.heldAt pa = true → exec .hostNodeAccess s = .next (held s .hostNodeAccess)) ∧
    (s.heldAt pa = false → ∃ t, exec .hostNodeAccess s = done (servedTo t true (busOf (s.req.k % 1024) pa)) ∧
      (Memory.wf s.mem → pa + bs.length ≤ 0x80000000000 → ∀ a, t.mem.read a =
        if pa ≤ a ∧ a < pa + bs.length then bs[a - pa]?.getD 0 else s.mem.read a) ∧
      (Memory.wf s.mem → Whole (busOf (s.req.k % 1024) pa) bs.length → t.busRead (busOf (s.req.k % 1024) pa) bs.length = bs))) ∧
  (∀ (s : State) pa x, s.req.acc = .atomicAdd pa x → Reachable s pa 8 →
    (pa % 8 ≠ 0 → exec .hostNodeAccess s = refused s) ∧
    (pa % 8 = 0 → s.heldAt pa = true → exec .hostNodeAccess s = .next (held s .hostNodeAccess)) ∧
    (pa % 8 = 0 → s.heldAt pa = false →
      let old := leNat (s.busRead (busOf (s.req.k % 1024) pa) 8)
      ∃ t, exec .hostNodeAccess s = .next (replied (servedTo t false (busOf (s.req.k % 1024) pa)) (.value old)) ∧
        (Memory.wf s.mem → leNat (t.busRead (busOf (s.req.k % 1024) pa) 8) = (old + x.toNat) % 2 ^ 64) ∧
        (Memory.wf s.mem → pa < 0x80000000000 → ∀ a, a < pa ∨ pa + 8 ≤ a → t.mem.read a = s.mem.read a))) ∧
  (∀ (s : State) pa, s.heldAt pa = true ↔ pa < 0x240000000 ∧ ∃ p ∈ s.parts, p.stopped ≠ none ∧ pa / 0x400000 / 288 / 2 ^ p.k = p.m)

/-- Stops of a partition, and accesses of host nodes: `BelfryStops`, `HostNodeAccesses`. Where the spec is silent it states the choices of
the model: log 15, log 36, log 39, log 48, log 52. Where the spec is silent it states the choices of the model: log 12. -/
def Obligations.BelfryAndHostNodes : Prop := Sys2Proof.Claims.BelfryStops ∧ Sys2Proof.Claims.HostNodeAccesses

/-! ## The machine as a whole -/

namespace Sys2Proof.Claims

/-- The bytes of an instruction as they stand in memory (R37, R42): its words, each least significant byte first. -/
def codeBytes (i : Instr) : List Byte := ((encode i).map (leBytes 4)).flatten

/-- The bytes that a fetch at a position reads at the bus address `b` that it translates to: never beyond the fetch block (R37, R39). -/
def fetchBytes (s : State) (pos : W64) (b : Nat) : List Byte := s.busRead b (min 16 (32 - pos.toNat % 32))

/-- The thread whose turn it is may issue. -/
def MayIssue (s : State) : Prop := s.ctx.runs = true ∧ s.ctx.hasVc s.vc.id = true ∧ s.thr.status = .running

/-- Every instruction of the E-stream's path has been fetched; of a path that a RESUME has restarted some are not (R380). -/
def PathFetched (s : State) : Prop := ∀ p ∈ s.thr.ePath, (SMap.find s.thr.eWords p.toNat).isSome = true

/-- The state in which the agenda's first move, an issue of thread `t`, is made. -/
def turnOf (s : State) (t : Tid) (rest : List Move) : State := { s with agenda := rest }.focus t

end Sys2Proof.Claims

/-- R37, R42 to R50: at every place of a fetch block where it fits, the bytes of an instruction whose fields the encoding can carry decode to
that instruction and its length, whatever follows them. -/
def Sys2Proof.Claims.EncodingRoundTrip : Prop :=
  ∀ (i : Instr) (off : Nat) (rest : List Byte), i.encodable = true → off + 4 * (encode i).length ≤ 32 →
    decodeAt off (codeBytes i ++ rest) = .instr i (4 * (encode i).length)

/-- R42 to R54: no two encodings stand for one instruction, and no bit of one is dropped: bytes that decode to an instruction are the bytes of
that instruction, and it is one that the encoding can carry. -/
def Sys2Proof.Claims.OneEncoding : Prop :=
  ∀ (off : Nat) (bs : List Byte) (i : Instr) (len : Nat), 16 ≤ bs.length → decodeAt off bs = .instr i len →
    i.encodable = true ∧ len = 4 * (encode i).length ∧ bs.take len = codeBytes i

/-- Encoding and decoding are inverse to each other on every instruction: `EncodingRoundTrip`, `OneEncoding`. -/
def Obligations.EncodingRoundTrip : Prop := Sys2Proof.Claims.EncodingRoundTrip ∧ Sys2Proof.Claims.OneEncoding

/-- R41 to R46, R58, R61: words written out from the encodings of the spec decode to the instructions they stand for: loads of constants, the
scalar arithmetic, a load and a store, a branch and a jump, the ends of a task, a trap, no-ops and a hint. -/
def Obligations.DecodeSamples : Prop :=
  decodeTableWord 64 0x0000100000028048 = some (.liLi ⟨10, 0, 0, 0x1000⟩) ∧
  decodeTableWord 64 0x0000000014B2C010 = some (.ialuAdd ⟨11, 11, 5, 0, 0, 0, 0, 0⟩) ∧
  decodeTableWord 64 0x0000000000A14900 = some (.ld 2 ⟨5, 10, 0, 0, 0, 0, 0, 0, 0⟩) ∧
  decodeTableWord 64 0x0000032003EF9900 = some (.ld 6 ⟨62, 62, 0, 0, 0, 1, 3, 0, 0⟩) ∧
  decodeTableWord 64 0x011000000002CD08 = some (.st 3 ⟨11, 0, 0, 0, 0, 0, 0, 0, 0x1100⟩) ∧
  decodeTableWord 64 0xFFFFFFFA30A00880 = some (.br 2 ⟨0, 10, 12, 0xFFFFFFFA⟩) ∧
  decodeTableWord 64 0x0000000003E00888 = some (.jmpJmpr ⟨0, 62, 0, 0⟩) ∧
  decodeTableWord 64 0xFFFF000000000188 = some (.trapTrap ⟨0, 0, 0, 0, 0, 0, 0, 0xFFFF⟩) ∧
  decodeTableWord 64 0x0010000000300380 = some (.hpref 0 ⟨0, 3, 0, 0, 0, 0, 0, 0, 256⟩) ∧
  decodeTableWord 64 0x0000000000000200 = some .taskDone ∧
  decodeTableWord 64 0x0000000000000008 = some .nop ∧ decodeTableWord 64 0x000000000000000C = some .enop

/-- R10, R38, R41, R44, log 5: a step in which a stream of a thread issues is exec of the instruction that its position's bytes decode to, in
the state that thread is in, and the cycle that it takes; an instruction of the E-stream that the A-stream comes to joins the path, as it was
fetched, and is executed by the E-stream in path order; a pad word is passed; behind a waiting A-stream instruction the E-stream goes ahead;
an issued instruction that only waits is exec of it again; a path that a RESUME restarted is fetched first. A step of an engine, of the host or of hardware is exec of its row with the
operands of its request. Where the spec is silent it states the choices of the model: log 7, log 40. -/
def Obligations.StepRunsDecoded : Prop :=
  (∀ (s : State) t rest b, s.phase ≠ .reset → s.agenda = .run t false :: rest →
    let u := turnOf s t rest
    let bs := fetchBytes u u.thr.apc b
    MayIssue u → u.inJob = false → PathFetched u → Fresh u → u.fetchAddr u.thr.apc = .ok b →
    (∀ i len, decodeAt (u.thr.apc.toNat % 32) bs = .instr i len →
      (stBit bs = false → step s = tickOut (exec i u)) ∧ (stBit bs = true → step s = .next (u.setThr (passed u.thr len bs)).tick)) ∧
    (decodeAt (u.thr.apc.toNat % 32) bs = .pad → ∃ x : Thread, step s = .next (u.setThr x).tick ∧
      x.apc = BitVec.ofNat 64 (u.thr.apc.toNat / 32 * 32 + 32) ∧ x.ePath = u.thr.ePath)) ∧
  (∀ (s : State) t rest i len, s.phase ≠ .reset → s.agenda = .run t false :: rest →
    let u := turnOf s t rest
    MayIssue u → u.inJob = false → PathFetched u → ¬Fresh u → u.instrAt u.thr.apc = some (i, len) → step s = tickOut (exec i u)) ∧
  (∀ (s : State) t rest before pos after b, s.phase ≠ .reset → s.agenda = .run t false :: rest →
    let u := turnOf s t rest
    MayIssue u → u.inJob = false → u.thr.ePath = before ++ pos :: after → (∀ p ∈ before, (SMap.find u.thr.eWords p.toNat).isSome = true) →
    SMap.find u.thr.eWords pos.toNat = none → u.fetchAddr pos = .ok b →
    (∀ c d, decodeAt (pos.toNat % 32) (fetchBytes u pos b) = .fault ⟨c, d⟩ → c ≠ .illegalLength ∧ c ≠ .fetchCrossing) →
    ∃ bs, u.codeBytes pos = some bs ∧
      step s = .next (u.setThr { u.thr with eWords := SMap.put u.thr.eWords pos.toNat bs, waitA := .none }).tick) ∧
  (∀ (s : State) t rest pos more bs i len, s.phase ≠ .reset → s.agenda = .run t true :: rest →
    let u := turnOf s t rest
    MayIssue u → u.thr.ePath = pos :: more →
    (SMap.find u.thr.eWords pos.toNat = some bs ∨
      (SMap.find u.thr.eWords pos.toNat = none ∧ ∃ b, u.fetchAddr pos = .ok b ∧ bs = fetchBytes u pos b)) →
    decodeAt (pos.toNat % 32) bs = .instr i len → stBit bs = true → step s = tickOut (exec i u)) ∧
  (∀ (s : State) t rest pos b i len, s.phase ≠ .reset → s.agenda = .run t true :: rest →
    let u := turnOf s t rest
    MayIssue u → u.thr.ePath = [] → u.aheadPos = some pos → u.fetchAddr pos = .ok b →
    decodeAt (pos.toNat % 32) (fetchBytes u pos b) = .instr i len → stBit (fetchBytes u pos b) = true →
    step s = tickOut (exec i (u.setThr { u.thr with eNext := pos }))) ∧
  (∀ (s : State) i r rest, s.phase ≠ .reset → s.agenda = .event i r :: rest → encode i = [] →
    step s = tickOut (exec i { s with agenda := rest, req := r })) ∧
  (∀ s : State, s.phase = .reset ∨ (s.phase ≠ .up ∧ s.agenda = []) → step s = tickOut (exec .bringUp s))

/-- Every step from a state whose memory is in canonical form leaves it so. The canonical form, addresses strictly rising and no entry at the
value that an unlisted address reads as, is the model's own representation of memory (R14, R15) and no rule of the spec. -/
def Obligations.MemoryCanonicalStep : Prop := ∀ s t : State, Safety.State.Ok s → step s = .next t → Safety.State.Ok t

/-- R34: what a thread, a virtual core, a context and a core hold when they come to be, and the module before its bring-up: the reset
column of the control registers; every register, queue, token and link slot clear; memory canonical. That every address reads 0 is the
model's choice (log 2, DESIGN CHOICE: the spec gives memory no contents at power-on); where the spec is silent on the rest it states the
choices of log 1, log 3 and log 4. -/
def Obligations.ResetValues : Prop :=
  (∀ n,
    let t := Thread.fresh n
    t.id = n ∧ t.cause = 0 ∧ t.epc = 0 ∧ t.faddr = 0 ∧ t.fdetail = 0 ∧ t.einst = 0 ∧ t.hsave = 0 ∧ t.aepc = 0 ∧ t.fpflags = 0 ∧ t.fpen = 0 ∧
      t.rmode = 0 ∧ t.handler = false ∧ t.donePending = false ∧ (∀ k, t.getS k = 0) ∧ (∀ k, t.getM k = 0) ∧ (∀ k, t.getQ k = []) ∧
      (∀ k, (t.getK k).count = 0 ∧ (t.getK k).err = false) ∧ (∀ k, t.getL k = none) ∧ (∀ k j, (t.getV k).lane j = 0)) ∧
  (∀ n, (Ctx.fresh n).id = n ∧ (Ctx.fresh n).trapvec = 0 ∧ (Ctx.fresh n).framebase = 0 ∧ (Ctx.fresh n).framesize = 0 ∧
    (Ctx.fresh n).spillsize = 0 ∧ (Ctx.fresh n).qtable = 0 ∧ (Ctx.fresh n).gather = 256 ∧ (Ctx.fresh n).agesh = 10) ∧
  (∀ n p, (VCore.fresh n p).id = n ∧ (VCore.fresh n p).phys = p ∧ ∀ k : Nat, (VCore.fresh n p).mkeys[k]?.getD 0 = 0) ∧
  (PCore.fresh.cycle = 0 ∧ ∀ k : Nat, PCore.fresh.sent[k]?.getD 0 = 0 ∧ PCore.fresh.recv[k]?.getD 0 = 0) ∧
  (State.reset.phase = .reset ∧ State.reset.ctxs = [] ∧ State.reset.reports = [] ∧ Safety.State.Ok State.reset ∧
    ∀ a, State.reset.mem.read a = 0)

end Statements
end

