-- ==== Sys2Proof/Laws/Maps.lean ====
section
/-! SUPPORT. Sparse maps and memory: a read after a write, writes leave other keys alone, and every operation keeps the canonical
form. -/

namespace Sys2Proof.Machine

variable {α : Type}

/-! ## Keys -/

/-- Every key of a map is above a bound. -/
def SMap.above (m : SMap α) (b : Nat) : Prop := ∀ e ∈ m, b < e.1

theorem SMap.pairwise_cons (a : Nat) (x : α) (r : SMap α) :
    (((a, x) :: r).map Prod.fst).Pairwise (· < ·) ↔ SMap.above r a ∧ (r.map Prod.fst).Pairwise (· < ·) := by
  simp [SMap.above]

theorem SMap.put_mem (m : SMap α) (k : Nat) (x : α) : ∀ e ∈ SMap.put m k x, e = (k, x) ∨ e ∈ m := by
  induction m with
  | nil => simp [SMap.put]
  | cons h r ih =>
    obtain ⟨a, y⟩ := h
    intro e he
    simp only [SMap.put] at he
    split at he
    · simpa using he
    · split at he
      · rcases List.mem_cons.1 he with h | h
        · exact .inl h
        · exact .inr (List.mem_cons_of_mem _ h)
      · rcases List.mem_cons.1 he with h | h
        · exact .inr (h ▸ List.mem_cons_self)
        · exact (ih e h).imp id (List.mem_cons_of_mem _)

theorem SMap.del_mem (m : SMap α) (k : Nat) : ∀ e ∈ SMap.del m k, e ∈ m := by
  induction m with
  | nil => simp [SMap.del]
  | cons h r ih =>
    obtain ⟨a, y⟩ := h
    intro e he
    simp only [SMap.del] at he
    split at he
    · exact he
    · split at he
      · exact List.mem_cons_of_mem _ he
      · rcases List.mem_cons.1 he with h | h
        · exact h ▸ List.mem_cons_self
        · exact List.mem_cons_of_mem _ (ih e h)

theorem SMap.put_rising (m : SMap α) (k : Nat) (x : α) (h : (m.map Prod.fst).Pairwise (· < ·)) :
    ((SMap.put m k x).map Prod.fst).Pairwise (· < ·) := by
  induction m with
  | nil => simp [SMap.put]
  | cons e r ih =>
    obtain ⟨a, y⟩ := e
    rw [SMap.pairwise_cons] at h
    simp only [SMap.put]
    split
    · rename_i hk
      rw [SMap.pairwise_cons, SMap.pairwise_cons]
      refine ⟨fun e he => ?_, h⟩
      rcases List.mem_cons.1 he with h1 | h1
      · subst h1; exact hk
      · exact Nat.lt_trans hk (h.1 e h1)
    · split
      · rename_i hk; subst hk
        rw [SMap.pairwise_cons]; exact h
      · rename_i h1 h2
        rw [SMap.pairwise_cons]
        refine ⟨fun e he => ?_, ih h.2⟩
        rcases SMap.put_mem r k x e he with h3 | h3
        · subst h3; show a < k; omega
        · exact h.1 e h3

theorem SMap.del_rising (m : SMap α) (k : Nat) (h : (m.map Prod.fst).Pairwise (· < ·)) :
    ((SMap.del m k).map Prod.fst).Pairwise (· < ·) := by
  induction m with
  | nil => simp [SMap.del]
  | cons e r ih =>
    obtain ⟨a, y⟩ := e
    have h' := (SMap.pairwise_cons a y r).1 h
    simp only [SMap.del]
    split
    · exact h
    · split
      · exact h'.2
      · rw [SMap.pairwise_cons]
        exact ⟨fun e he => h'.1 e (SMap.del_mem r k e he), ih h'.2⟩

/-! ## Reading a map after an update -/

theorem SMap.find_none_of_above (m : SMap α) (k b : Nat) (h : SMap.above m b) (hk : k ≤ b) : SMap.find m k = none := by
  induction m with
  | nil => rfl
  | cons e r ih =>
    obtain ⟨a, y⟩ := e
    have ha : b < a := h (a, y) List.mem_cons_self
    simp only [SMap.find]
    rw [if_neg (by omega)]
    exact ih fun e he => h e (List.mem_cons_of_mem _ he)

@[simp] theorem SMap.find_put_self (m : SMap α) (k : Nat) (x : α) : SMap.find (SMap.put m k x) k = some x := by
  induction m with
  | nil => simp [SMap.put, SMap.find]
  | cons e r ih =>
    obtain ⟨a, y⟩ := e
    simp only [SMap.put]
    split
    · simp [SMap.find]
    · split
      · simp [SMap.find]
      · rename_i h; simp [SMap.find, h, ih]

theorem SMap.find_put_ne (m : SMap α) (k j : Nat) (x : α) (h : j ≠ k) : SMap.find (SMap.put m k x) j = SMap.find m j := by
  induction m with
  | nil => simp [SMap.put, SMap.find, h]
  | cons e r ih =>
    obtain ⟨a, y⟩ := e
    simp only [SMap.put]
    split
    · simp [SMap.find, h]
    · split
      · rename_i hk; subst hk; simp [SMap.find, h]
      · simp [SMap.find, ih]

theorem SMap.find_del_self (m : SMap α) (k : Nat) (h : (m.map Prod.fst).Pairwise (· < ·)) : SMap.find (SMap.del m k) k = none := by
  induction m with
  | nil => rfl
  | cons e r ih =>
    obtain ⟨a, y⟩ := e
    rw [SMap.pairwise_cons] at h
    simp only [SMap.del]
    split
    · rename_i hk
      simp only [SMap.find]
      rw [if_neg (by omega)]
      exact SMap.find_none_of_above r k a h.1 (by omega)
    · split
      · rename_i hk; subst hk
        exact SMap.find_none_of_above r k k h.1 (Nat.le_refl _)
      · rename_i h1 h2
        simp only [SMap.find]
        rw [if_neg h2]; exact ih h.2

theorem SMap.find_del_ne (m : SMap α) (k j : Nat) (h : j ≠ k) : SMap.find (SMap.del m k) j = SMap.find m j := by
  induction m with
  | nil => rfl
  | cons e r ih =>
    obtain ⟨a, y⟩ := e
    simp only [SMap.del]
    split
    · rfl
    · split
      · rename_i hk; subst hk; simp [SMap.find, h]
      · simp [SMap.find, ih]

theorem SMap.get_set_self [DecidableEq α] (d : α) (m : SMap α) (k : Nat) (x : α) (h : (m.map Prod.fst).Pairwise (· < ·)) :
    SMap.get d (SMap.set d m k x) k = x := by
  unfold SMap.get SMap.set
  split
  · rename_i hx; rw [SMap.find_del_self m k h]; exact hx.symm
  · simp

theorem SMap.get_set_ne [DecidableEq α] (d : α) (m : SMap α) (k j : Nat) (x : α) (h : j ≠ k) :
    SMap.get d (SMap.set d m k x) j = SMap.get d m j := by
  unfold SMap.get SMap.set
  split
  · rw [SMap.find_del_ne m k j h]
  · rw [SMap.find_put_ne m k j x h]

/-! ## The canonical form -/

theorem SMap.wf_set [DecidableEq α] (d : α) (m : SMap α) (k : Nat) (x : α) (h : SMap.wf d m) : SMap.wf d (SMap.set d m k x) := by
  unfold SMap.set
  split
  · exact ⟨SMap.del_rising m k h.1, fun e he => h.2 e (SMap.del_mem m k e he)⟩
  · rename_i hx
    refine ⟨SMap.put_rising m k x h.1, fun e he => ?_⟩
    rcases SMap.put_mem m k x e he with h1 | h1
    · subst h1; exact hx
    · exact h.2 e h1

theorem SMap.wf_filter [DecidableEq α] (d : α) (m : SMap α) (p : Nat × α → Bool) (h : SMap.wf d m) : SMap.wf d (m.filter p) :=
  ⟨h.1.sublist (List.filter_sublist.map _), fun e he => h.2 e (List.mem_filter.1 he).1⟩

theorem Memory.wf_nil : Memory.wf [] := by simp [Memory.wf, SMap.wf]

theorem Memory.wf_write (m : Memory) (a : Nat) (b : Byte) (h : m.wf) : (m.write a b).wf := SMap.wf_set _ _ _ _ h

theorem Memory.wf_writeN (bs : List Byte) : ∀ (m : Memory) (a : Nat), m.wf → (m.writeN a bs).wf := by
  induction bs with
  | nil => intro m a h; exact h
  | cons b bs ih => intro m a h; exact ih _ _ (Memory.wf_write m a b h)

theorem Memory.wf_zeroN (m : Memory) (a n : Nat) (h : m.wf) : (m.zeroN a n).wf := SMap.wf_filter _ _ _ h

/-! ## Reading memory after a write -/

theorem Memory.read_write_self (m : Memory) (a : Nat) (b : Byte) (h : m.wf) : (m.write a b).read a = b :=
  SMap.get_set_self _ _ _ _ h.1

theorem Memory.read_write_ne (m : Memory) (a x : Nat) (b : Byte) (h : x ≠ a) : (m.write a b).read x = m.read x :=
  SMap.get_set_ne _ _ _ _ _ h

/-- A write of a list of bytes leaves every byte outside them alone. -/
theorem Memory.read_writeN_outside (bs : List Byte) : ∀ (m : Memory) (a x : Nat), x < a ∨ a + bs.length ≤ x →
    (m.writeN a bs).read x = m.read x := by
  induction bs with
  | nil => intros; rfl
  | cons b bs ih =>
    intro m a x h
    simp only [List.length_cons] at h
    show ((m.write a b).writeN (a + 1) bs).read x = _
    rw [ih _ _ _ (by omega), Memory.read_write_ne _ _ _ _ (by omega)]

/-- A byte that was written is read. -/
theorem Memory.read_writeN_inside (bs : List Byte) : ∀ (m : Memory) (a i : Nat), m.wf → i < bs.length →
    (m.writeN a bs).read (a + i) = bs[i]?.getD 0 := by
  induction bs with
  | nil => intro m a i _ h; simp at h
  | cons b bs ih =>
    intro m a i hm h
    show ((m.write a b).writeN (a + 1) bs).read (a + i) = _
    cases i with
    | zero =>
      rw [Memory.read_writeN_outside _ _ _ _ (by omega)]
      simpa using Memory.read_write_self m a b hm
    | succ n =>
      have := ih (m.write a b) (a + 1) n (Memory.wf_write m a b hm) (by simpa using h)
      rw [show a + (n + 1) = a + 1 + n by omega, this]; simp

end Sys2Proof.Machine
end

