-- ==== Sys2Proof/Laws/State.lean ====
section
/-! SUPPORT. One lemma per field per update of the state and of a thread's registers. -/

namespace Sys2Proof.Machine


/-! ## setThr -/

@[simp] theorem State.setThr_phase (s : State) (t : Thread) : (s.setThr t).phase = s.phase := rfl
@[simp] theorem State.setThr_fused (s : State) (t : Thread) : (s.setThr t).fused = s.fused := rfl
@[simp] theorem State.setThr_enabled (s : State) (t : Thread) : (s.setThr t).enabled = s.enabled := rfl
@[simp] theorem State.setThr_parts (s : State) (t : Thread) : (s.setThr t).parts = s.parts := rfl
@[simp] theorem State.setThr_cores (s : State) (t : Thread) : (s.setThr t).cores = s.cores := rfl
@[simp] theorem State.setThr_mem (s : State) (t : Thread) : (s.setThr t).mem = s.mem := rfl
@[simp] theorem State.setThr_keyed (s : State) (t : Thread) : (s.setThr t).keyed = s.keyed := rfl
@[simp] theorem State.setThr_keySlots (s : State) (t : Thread) : (s.setThr t).keySlots = s.keySlots := rfl
@[simp] theorem State.setThr_queues (s : State) (t : Thread) : (s.setThr t).queues = s.queues := rfl
@[simp] theorem State.setThr_unmapped (s : State) (t : Thread) : (s.setThr t).unmapped = s.unmapped := rfl
@[simp] theorem State.setThr_pendingBlocks (s : State) (t : Thread) : (s.setThr t).pendingBlocks = s.pendingBlocks := rfl
@[simp] theorem State.setThr_heldMoves (s : State) (t : Thread) : (s.setThr t).heldMoves = s.heldMoves := rfl
@[simp] theorem State.setThr_stops (s : State) (t : Thread) : (s.setThr t).stops = s.stops := rfl
@[simp] theorem State.setThr_reports (s : State) (t : Thread) : (s.setThr t).reports = s.reports := rfl
@[simp] theorem State.setThr_replies (s : State) (t : Thread) : (s.setThr t).replies = s.replies := rfl
@[simp] theorem State.setThr_spanDown (s : State) (t : Thread) : (s.setThr t).spanDown = s.spanDown := rfl
@[simp] theorem State.setThr_farLost (s : State) (t : Thread) : (s.setThr t).farLost = s.farLost := rfl
@[simp] theorem State.setThr_poolPorts (s : State) (t : Thread) : (s.setThr t).poolPorts = s.poolPorts := rfl
@[simp] theorem State.setThr_cxlDown (s : State) (t : Thread) : (s.setThr t).cxlDown = s.cxlDown := rfl
@[simp] theorem State.setThr_badWords (s : State) (t : Thread) : (s.setThr t).badWords = s.badWords := rfl
@[simp] theorem State.setThr_softWords (s : State) (t : Thread) : (s.setThr t).softWords = s.softWords := rfl
@[simp] theorem State.setThr_softAccs (s : State) (t : Thread) : (s.setThr t).softAccs = s.softAccs := rfl
@[simp] theorem State.setThr_failedArrays (s : State) (t : Thread) : (s.setThr t).failedArrays = s.failedArrays := rfl
@[simp] theorem State.setThr_failedBanks (s : State) (t : Thread) : (s.setThr t).failedBanks = s.failedBanks := rfl
@[simp] theorem State.setThr_stretched (s : State) (t : Thread) : (s.setThr t).stretched = s.stretched := rfl
@[simp] theorem State.setThr_tripped (s : State) (t : Thread) : (s.setThr t).tripped = s.tripped := rfl
@[simp] theorem State.setThr_l2tlb (s : State) (t : Thread) : (s.setThr t).l2tlb = s.l2tlb := rfl
@[simp] theorem State.setThr_ctx (s : State) (t : Thread) : (s.setThr t).ctx = s.ctx := rfl
@[simp] theorem State.setThr_vc (s : State) (t : Thread) : (s.setThr t).vc = s.vc := rfl
@[simp] theorem State.setThr_ctxs (s : State) (t : Thread) : (s.setThr t).ctxs = s.ctxs := rfl
@[simp] theorem State.setThr_agenda (s : State) (t : Thread) : (s.setThr t).agenda = s.agenda := rfl
@[simp] theorem State.setThr_req (s : State) (t : Thread) : (s.setThr t).req = s.req := rfl
@[simp] theorem State.setThr_freeCtr (s : State) (t : Thread) : (s.setThr t).freeCtr = s.freeCtr := rfl
@[simp] theorem State.setThr_nextId (s : State) (t : Thread) : (s.setThr t).nextId = s.nextId := rfl
@[simp] theorem State.setThr_clock (s : State) (t : Thread) : (s.setThr t).clock = s.clock := rfl
@[simp] theorem State.setThr_thr (s : State) (t : Thread) : (s.setThr t).thr = t := rfl

/-! ## updThr -/

@[simp] theorem State.updThr_phase (s : State) (f : Thread → Thread) : (s.updThr f).phase = s.phase := rfl
@[simp] theorem State.updThr_fused (s : State) (f : Thread → Thread) : (s.updThr f).fused = s.fused := rfl
@[simp] theorem State.updThr_enabled (s : State) (f : Thread → Thread) : (s.updThr f).enabled = s.enabled := rfl
@[simp] theorem State.updThr_parts (s : State) (f : Thread → Thread) : (s.updThr f).parts = s.parts := rfl
@[simp] theorem State.updThr_cores (s : State) (f : Thread → Thread) : (s.updThr f).cores = s.cores := rfl
@[simp] theorem State.updThr_mem (s : State) (f : Thread → Thread) : (s.updThr f).mem = s.mem := rfl
@[simp] theorem State.updThr_keyed (s : State) (f : Thread → Thread) : (s.updThr f).keyed = s.keyed := rfl
@[simp] theorem State.updThr_keySlots (s : State) (f : Thread → Thread) : (s.updThr f).keySlots = s.keySlots := rfl
@[simp] theorem State.updThr_queues (s : State) (f : Thread → Thread) : (s.updThr f).queues = s.queues := rfl
@[simp] theorem State.updThr_unmapped (s : State) (f : Thread → Thread) : (s.updThr f).unmapped = s.unmapped := rfl
@[simp] theorem State.updThr_pendingBlocks (s : State) (f : Thread → Thread) : (s.updThr f).pendingBlocks = s.pendingBlocks := rfl
@[simp] theorem State.updThr_heldMoves (s : State) (f : Thread → Thread) : (s.updThr f).heldMoves = s.heldMoves := rfl
@[simp] theorem State.updThr_stops (s : State) (f : Thread → Thread) : (s.updThr f).stops = s.stops := rfl
@[simp] theorem State.updThr_reports (s : State) (f : Thread → Thread) : (s.updThr f).reports = s.reports := rfl
@[simp] theorem State.updThr_replies (s : State) (f : Thread → Thread) : (s.updThr f).replies = s.replies := rfl
@[simp] theorem State.updThr_spanDown (s : State) (f : Thread → Thread) : (s.updThr f).spanDown = s.spanDown := rfl
@[simp] theorem State.updThr_farLost (s : State) (f : Thread → Thread) : (s.updThr f).farLost = s.farLost := rfl
@[simp] theorem State.updThr_poolPorts (s : State) (f : Thread → Thread) : (s.updThr f).poolPorts = s.poolPorts := rfl
@[simp] theorem State.updThr_cxlDown (s : State) (f : Thread → Thread) : (s.updThr f).cxlDown = s.cxlDown := rfl
@[simp] theorem State.updThr_badWords (s : State) (f : Thread → Thread) : (s.updThr f).badWords = s.badWords := rfl
@[simp] theorem State.updThr_softWords (s : State) (f : Thread → Thread) : (s.updThr f).softWords = s.softWords := rfl
@[simp] theorem State.updThr_softAccs (s : State) (f : Thread → Thread) : (s.updThr f).softAccs = s.softAccs := rfl
@[simp] theorem State.updThr_failedArrays (s : State) (f : Thread → Thread) : (s.updThr f).failedArrays = s.failedArrays := rfl
@[simp] theorem State.updThr_failedBanks (s : State) (f : Thread → Thread) : (s.updThr f).failedBanks = s.failedBanks := rfl
@[simp] theorem State.updThr_stretched (s : State) (f : Thread → Thread) : (s.updThr f).stretched = s.stretched := rfl
@[simp] theorem State.updThr_tripped (s : State) (f : Thread → Thread) : (s.updThr f).tripped = s.tripped := rfl
@[simp] theorem State.updThr_l2tlb (s : State) (f : Thread → Thread) : (s.updThr f).l2tlb = s.l2tlb := rfl
@[simp] theorem State.updThr_ctx (s : State) (f : Thread → Thread) : (s.updThr f).ctx = s.ctx := rfl
@[simp] theorem State.updThr_vc (s : State) (f : Thread → Thread) : (s.updThr f).vc = s.vc := rfl
@[simp] theorem State.updThr_ctxs (s : State) (f : Thread → Thread) : (s.updThr f).ctxs = s.ctxs := rfl
@[simp] theorem State.updThr_agenda (s : State) (f : Thread → Thread) : (s.updThr f).agenda = s.agenda := rfl
@[simp] theorem State.updThr_req (s : State) (f : Thread → Thread) : (s.updThr f).req = s.req := rfl
@[simp] theorem State.updThr_freeCtr (s : State) (f : Thread → Thread) : (s.updThr f).freeCtr = s.freeCtr := rfl
@[simp] theorem State.updThr_nextId (s : State) (f : Thread → Thread) : (s.updThr f).nextId = s.nextId := rfl
@[simp] theorem State.updThr_clock (s : State) (f : Thread → Thread) : (s.updThr f).clock = s.clock := rfl
@[simp] theorem State.updThr_thr (s : State) (f : Thread → Thread) : (s.updThr f).thr = f s.thr := rfl

/-! ## updVc -/

@[simp] theorem State.updVc_phase (s : State) (f : VCore → VCore) : (s.updVc f).phase = s.phase := rfl
@[simp] theorem State.updVc_fused (s : State) (f : VCore → VCore) : (s.updVc f).fused = s.fused := rfl
@[simp] theorem State.updVc_enabled (s : State) (f : VCore → VCore) : (s.updVc f).enabled = s.enabled := rfl
@[simp] theorem State.updVc_parts (s : State) (f : VCore → VCore) : (s.updVc f).parts = s.parts := rfl
@[simp] theorem State.updVc_cores (s : State) (f : VCore → VCore) : (s.updVc f).cores = s.cores := rfl
@[simp] theorem State.updVc_mem (s : State) (f : VCore → VCore) : (s.updVc f).mem = s.mem := rfl
@[simp] theorem State.updVc_keyed (s : State) (f : VCore → VCore) : (s.updVc f).keyed = s.keyed := rfl
@[simp] theorem State.updVc_keySlots (s : State) (f : VCore → VCore) : (s.updVc f).keySlots = s.keySlots := rfl
@[simp] theorem State.updVc_queues (s : State) (f : VCore → VCore) : (s.updVc f).queues = s.queues := rfl
@[simp] theorem State.updVc_unmapped (s : State) (f : VCore → VCore) : (s.updVc f).unmapped = s.unmapped := rfl
@[simp] theorem State.updVc_pendingBlocks (s : State) (f : VCore → VCore) : (s.updVc f).pendingBlocks = s.pendingBlocks := rfl
@[simp] theorem State.updVc_heldMoves (s : State) (f : VCore → VCore) : (s.updVc f).heldMoves = s.heldMoves := rfl
@[simp] theorem State.updVc_stops (s : State) (f : VCore → VCore) : (s.updVc f).stops = s.stops := rfl
@[simp] theorem State.updVc_reports (s : State) (f : VCore → VCore) : (s.updVc f).reports = s.reports := rfl
@[simp] theorem State.updVc_replies (s : State) (f : VCore → VCore) : (s.updVc f).replies = s.replies := rfl
@[simp] theorem State.updVc_spanDown (s : State) (f : VCore → VCore) : (s.updVc f).spanDown = s.spanDown := rfl
@[simp] theorem State.updVc_farLost (s : State) (f : VCore → VCore) : (s.updVc f).farLost = s.farLost := rfl
@[simp] theorem State.updVc_poolPorts (s : State) (f : VCore → VCore) : (s.updVc f).poolPorts = s.poolPorts := rfl
@[simp] theorem State.updVc_cxlDown (s : State) (f : VCore → VCore) : (s.updVc f).cxlDown = s.cxlDown := rfl
@[simp] theorem State.updVc_badWords (s : State) (f : VCore → VCore) : (s.updVc f).badWords = s.badWords := rfl
@[simp] theorem State.updVc_softWords (s : State) (f : VCore → VCore) : (s.updVc f).softWords = s.softWords := rfl
@[simp] theorem State.updVc_softAccs (s : State) (f : VCore → VCore) : (s.updVc f).softAccs = s.softAccs := rfl
@[simp] theorem State.updVc_failedArrays (s : State) (f : VCore → VCore) : (s.updVc f).failedArrays = s.failedArrays := rfl
@[simp] theorem State.updVc_failedBanks (s : State) (f : VCore → VCore) : (s.updVc f).failedBanks = s.failedBanks := rfl
@[simp] theorem State.updVc_stretched (s : State) (f : VCore → VCore) : (s.updVc f).stretched = s.stretched := rfl
@[simp] theorem State.updVc_tripped (s : State) (f : VCore → VCore) : (s.updVc f).tripped = s.tripped := rfl
@[simp] theorem State.updVc_l2tlb (s : State) (f : VCore → VCore) : (s.updVc f).l2tlb = s.l2tlb := rfl
@[simp] theorem State.updVc_ctx (s : State) (f : VCore → VCore) : (s.updVc f).ctx = s.ctx := rfl
@[simp] theorem State.updVc_thr (s : State) (f : VCore → VCore) : (s.updVc f).thr = s.thr := rfl
@[simp] theorem State.updVc_ctxs (s : State) (f : VCore → VCore) : (s.updVc f).ctxs = s.ctxs := rfl
@[simp] theorem State.updVc_agenda (s : State) (f : VCore → VCore) : (s.updVc f).agenda = s.agenda := rfl
@[simp] theorem State.updVc_req (s : State) (f : VCore → VCore) : (s.updVc f).req = s.req := rfl
@[simp] theorem State.updVc_freeCtr (s : State) (f : VCore → VCore) : (s.updVc f).freeCtr = s.freeCtr := rfl
@[simp] theorem State.updVc_nextId (s : State) (f : VCore → VCore) : (s.updVc f).nextId = s.nextId := rfl
@[simp] theorem State.updVc_clock (s : State) (f : VCore → VCore) : (s.updVc f).clock = s.clock := rfl
@[simp] theorem State.updVc_vc (s : State) (f : VCore → VCore) : (s.updVc f).vc = f s.vc := rfl

/-! ## updCtx -/

@[simp] theorem State.updCtx_phase (s : State) (f : Ctx → Ctx) : (s.updCtx f).phase = s.phase := rfl
@[simp] theorem State.updCtx_fused (s : State) (f : Ctx → Ctx) : (s.updCtx f).fused = s.fused := rfl
@[simp] theorem State.updCtx_enabled (s : State) (f : Ctx → Ctx) : (s.updCtx f).enabled = s.enabled := rfl
@[simp] theorem State.updCtx_parts (s : State) (f : Ctx → Ctx) : (s.updCtx f).parts = s.parts := rfl
@[simp] theorem State.updCtx_cores (s : State) (f : Ctx → Ctx) : (s.updCtx f).cores = s.cores := rfl
@[simp] theorem State.updCtx_mem (s : State) (f : Ctx → Ctx) : (s.updCtx f).mem = s.mem := rfl
@[simp] theorem State.updCtx_keyed (s : State) (f : Ctx → Ctx) : (s.updCtx f).keyed = s.keyed := rfl
@[simp] theorem State.updCtx_keySlots (s : State) (f : Ctx → Ctx) : (s.updCtx f).keySlots = s.keySlots := rfl
@[simp] theorem State.updCtx_queues (s : State) (f : Ctx → Ctx) : (s.updCtx f).queues = s.queues := rfl
@[simp] theorem State.updCtx_unmapped (s : State) (f : Ctx → Ctx) : (s.updCtx f).unmapped = s.unmapped := rfl
@[simp] theorem State.updCtx_pendingBlocks (s : State) (f : Ctx → Ctx) : (s.updCtx f).pendingBlocks = s.pendingBlocks := rfl
@[simp] theorem State.updCtx_heldMoves (s : State) (f : Ctx → Ctx) : (s.updCtx f).heldMoves = s.heldMoves := rfl
@[simp] theorem State.updCtx_stops (s : State) (f : Ctx → Ctx) : (s.updCtx f).stops = s.stops := rfl
@[simp] theorem State.updCtx_reports (s : State) (f : Ctx → Ctx) : (s.updCtx f).reports = s.reports := rfl
@[simp] theorem State.updCtx_replies (s : State) (f : Ctx → Ctx) : (s.updCtx f).replies = s.replies := rfl
@[simp] theorem State.updCtx_spanDown (s : State) (f : Ctx → Ctx) : (s.updCtx f).spanDown = s.spanDown := rfl
@[simp] theorem State.updCtx_farLost (s : State) (f : Ctx → Ctx) : (s.updCtx f).farLost = s.farLost := rfl
@[simp] theorem State.updCtx_poolPorts (s : State) (f : Ctx → Ctx) : (s.updCtx f).poolPorts = s.poolPorts := rfl
@[simp] theorem State.updCtx_cxlDown (s : State) (f : Ctx → Ctx) : (s.updCtx f).cxlDown = s.cxlDown := rfl
@[simp] theorem State.updCtx_badWords (s : State) (f : Ctx → Ctx) : (s.updCtx f).badWords = s.badWords := rfl
@[simp] theorem State.updCtx_softWords (s : State) (f : Ctx → Ctx) : (s.updCtx f).softWords = s.softWords := rfl
@[simp] theorem State.updCtx_softAccs (s : State) (f : Ctx → Ctx) : (s.updCtx f).softAccs = s.softAccs := rfl
@[simp] theorem State.updCtx_failedArrays (s : State) (f : Ctx → Ctx) : (s.updCtx f).failedArrays = s.failedArrays := rfl
@[simp] theorem State.updCtx_failedBanks (s : State) (f : Ctx → Ctx) : (s.updCtx f).failedBanks = s.failedBanks := rfl
@[simp] theorem State.updCtx_stretched (s : State) (f : Ctx → Ctx) : (s.updCtx f).stretched = s.stretched := rfl
@[simp] theorem State.updCtx_tripped (s : State) (f : Ctx → Ctx) : (s.updCtx f).tripped = s.tripped := rfl
@[simp] theorem State.updCtx_l2tlb (s : State) (f : Ctx → Ctx) : (s.updCtx f).l2tlb = s.l2tlb := rfl
@[simp] theorem State.updCtx_vc (s : State) (f : Ctx → Ctx) : (s.updCtx f).vc = s.vc := rfl
@[simp] theorem State.updCtx_thr (s : State) (f : Ctx → Ctx) : (s.updCtx f).thr = s.thr := rfl
@[simp] theorem State.updCtx_ctxs (s : State) (f : Ctx → Ctx) : (s.updCtx f).ctxs = s.ctxs := rfl
@[simp] theorem State.updCtx_agenda (s : State) (f : Ctx → Ctx) : (s.updCtx f).agenda = s.agenda := rfl
@[simp] theorem State.updCtx_req (s : State) (f : Ctx → Ctx) : (s.updCtx f).req = s.req := rfl
@[simp] theorem State.updCtx_freeCtr (s : State) (f : Ctx → Ctx) : (s.updCtx f).freeCtr = s.freeCtr := rfl
@[simp] theorem State.updCtx_nextId (s : State) (f : Ctx → Ctx) : (s.updCtx f).nextId = s.nextId := rfl
@[simp] theorem State.updCtx_clock (s : State) (f : Ctx → Ctx) : (s.updCtx f).clock = s.clock := rfl
@[simp] theorem State.updCtx_ctx (s : State) (f : Ctx → Ctx) : (s.updCtx f).ctx = f s.ctx := rfl

/-! ## setCore -/

@[simp] theorem State.setCore_phase (s : State) (c : PCore) : (s.setCore c).phase = s.phase := rfl
@[simp] theorem State.setCore_fused (s : State) (c : PCore) : (s.setCore c).fused = s.fused := rfl
@[simp] theorem State.setCore_enabled (s : State) (c : PCore) : (s.setCore c).enabled = s.enabled := rfl
@[simp] theorem State.setCore_parts (s : State) (c : PCore) : (s.setCore c).parts = s.parts := rfl
@[simp] theorem State.setCore_mem (s : State) (c : PCore) : (s.setCore c).mem = s.mem := rfl
@[simp] theorem State.setCore_keyed (s : State) (c : PCore) : (s.setCore c).keyed = s.keyed := rfl
@[simp] theorem State.setCore_keySlots (s : State) (c : PCore) : (s.setCore c).keySlots = s.keySlots := rfl
@[simp] theorem State.setCore_queues (s : State) (c : PCore) : (s.setCore c).queues = s.queues := rfl
@[simp] theorem State.setCore_unmapped (s : State) (c : PCore) : (s.setCore c).unmapped = s.unmapped := rfl
@[simp] theorem State.setCore_pendingBlocks (s : State) (c : PCore) : (s.setCore c).pendingBlocks = s.pendingBlocks := rfl
@[simp] theorem State.setCore_heldMoves (s : State) (c : PCore) : (s.setCore c).heldMoves = s.heldMoves := rfl
@[simp] theorem State.setCore_stops (s : State) (c : PCore) : (s.setCore c).stops = s.stops := rfl
@[simp] theorem State.setCore_reports (s : State) (c : PCore) : (s.setCore c).reports = s.reports := rfl
@[simp] theorem State.setCore_replies (s : State) (c : PCore) : (s.setCore c).replies = s.replies := rfl
@[simp] theorem State.setCore_spanDown (s : State) (c : PCore) : (s.setCore c).spanDown = s.spanDown := rfl
@[simp] theorem State.setCore_farLost (s : State) (c : PCore) : (s.setCore c).farLost = s.farLost := rfl
@[simp] theorem State.setCore_poolPorts (s : State) (c : PCore) : (s.setCore c).poolPorts = s.poolPorts := rfl
@[simp] theorem State.setCore_cxlDown (s : State) (c : PCore) : (s.setCore c).cxlDown = s.cxlDown := rfl
@[simp] theorem State.setCore_badWords (s : State) (c : PCore) : (s.setCore c).badWords = s.badWords := rfl
@[simp] theorem State.setCore_softWords (s : State) (c : PCore) : (s.setCore c).softWords = s.softWords := rfl
@[simp] theorem State.setCore_softAccs (s : State) (c : PCore) : (s.setCore c).softAccs = s.softAccs := rfl
@[simp] theorem State.setCore_failedArrays (s : State) (c : PCore) : (s.setCore c).failedArrays = s.failedArrays := rfl
@[simp] theorem State.setCore_failedBanks (s : State) (c : PCore) : (s.setCore c).failedBanks = s.failedBanks := rfl
@[simp] theorem State.setCore_stretched (s : State) (c : PCore) : (s.setCore c).stretched = s.stretched := rfl
@[simp] theorem State.setCore_tripped (s : State) (c : PCore) : (s.setCore c).tripped = s.tripped := rfl
@[simp] theorem State.setCore_l2tlb (s : State) (c : PCore) : (s.setCore c).l2tlb = s.l2tlb := rfl
@[simp] theorem State.setCore_ctx (s : State) (c : PCore) : (s.setCore c).ctx = s.ctx := rfl
@[simp] theorem State.setCore_vc (s : State) (c : PCore) : (s.setCore c).vc = s.vc := rfl
@[simp] theorem State.setCore_thr (s : State) (c : PCore) : (s.setCore c).thr = s.thr := rfl
@[simp] theorem State.setCore_ctxs (s : State) (c : PCore) : (s.setCore c).ctxs = s.ctxs := rfl
@[simp] theorem State.setCore_agenda (s : State) (c : PCore) : (s.setCore c).agenda = s.agenda := rfl
@[simp] theorem State.setCore_req (s : State) (c : PCore) : (s.setCore c).req = s.req := rfl
@[simp] theorem State.setCore_freeCtr (s : State) (c : PCore) : (s.setCore c).freeCtr = s.freeCtr := rfl
@[simp] theorem State.setCore_nextId (s : State) (c : PCore) : (s.setCore c).nextId = s.nextId := rfl
@[simp] theorem State.setCore_clock (s : State) (c : PCore) : (s.setCore c).clock = s.clock := rfl
@[simp] theorem State.setCore_cores (s : State) (c : PCore) : (s.setCore c).cores = SMap.put s.cores s.vc.phys c := rfl

/-! ## report -/

@[simp] theorem State.report_phase (s : State) (r : Report) : (s.report r).phase = s.phase := rfl
@[simp] theorem State.report_fused (s : State) (r : Report) : (s.report r).fused = s.fused := rfl
@[simp] theorem State.report_enabled (s : State) (r : Report) : (s.report r).enabled = s.enabled := rfl
@[simp] theorem State.report_parts (s : State) (r : Report) : (s.report r).parts = s.parts := rfl
@[simp] theorem State.report_cores (s : State) (r : Report) : (s.report r).cores = s.cores := rfl
@[simp] theorem State.report_mem (s : State) (r : Report) : (s.report r).mem = s.mem := rfl
@[simp] theorem State.report_keyed (s : State) (r : Report) : (s.report r).keyed = s.keyed := rfl
@[simp] theorem State.report_keySlots (s : State) (r : Report) : (s.report r).keySlots = s.keySlots := rfl
@[simp] theorem State.report_queues (s : State) (r : Report) : (s.report r).queues = s.queues := rfl
@[simp] theorem State.report_unmapped (s : State) (r : Report) : (s.report r).unmapped = s.unmapped := rfl
@[simp] theorem State.report_pendingBlocks (s : State) (r : Report) : (s.report r).pendingBlocks = s.pendingBlocks := rfl
@[simp] theorem State.report_heldMoves (s : State) (r : Report) : (s.report r).heldMoves = s.heldMoves := rfl
@[simp] theorem State.report_stops (s : State) (r : Report) : (s.report r).stops = s.stops := rfl
@[simp] theorem State.report_replies (s : State) (r : Report) : (s.report r).replies = s.replies := rfl
@[simp] theorem State.report_spanDown (s : State) (r : Report) : (s.report r).spanDown = s.spanDown := rfl
@[simp] theorem State.report_farLost (s : State) (r : Report) : (s.report r).farLost = s.farLost := rfl
@[simp] theorem State.report_poolPorts (s : State) (r : Report) : (s.report r).poolPorts = s.poolPorts := rfl
@[simp] theorem State.report_cxlDown (s : State) (r : Report) : (s.report r).cxlDown = s.cxlDown := rfl
@[simp] theorem State.report_badWords (s : State) (r : Report) : (s.report r).badWords = s.badWords := rfl
@[simp] theorem State.report_softWords (s : State) (r : Report) : (s.report r).softWords = s.softWords := rfl
@[simp] theorem State.report_softAccs (s : State) (r : Report) : (s.report r).softAccs = s.softAccs := rfl
@[simp] theorem State.report_failedArrays (s : State) (r : Report) : (s.report r).failedArrays = s.failedArrays := rfl
@[simp] theorem State.report_failedBanks (s : State) (r : Report) : (s.report r).failedBanks = s.failedBanks := rfl
@[simp] theorem State.report_stretched (s : State) (r : Report) : (s.report r).stretched = s.stretched := rfl
@[simp] theorem State.report_tripped (s : State) (r : Report) : (s.report r).tripped = s.tripped := rfl
@[simp] theorem State.report_l2tlb (s : State) (r : Report) : (s.report r).l2tlb = s.l2tlb := rfl
@[simp] theorem State.report_ctx (s : State) (r : Report) : (s.report r).ctx = s.ctx := rfl
@[simp] theorem State.report_vc (s : State) (r : Report) : (s.report r).vc = s.vc := rfl
@[simp] theorem State.report_thr (s : State) (r : Report) : (s.report r).thr = s.thr := rfl
@[simp] theorem State.report_ctxs (s : State) (r : Report) : (s.report r).ctxs = s.ctxs := rfl
@[simp] theorem State.report_agenda (s : State) (r : Report) : (s.report r).agenda = s.agenda := rfl
@[simp] theorem State.report_req (s : State) (r : Report) : (s.report r).req = s.req := rfl
@[simp] theorem State.report_freeCtr (s : State) (r : Report) : (s.report r).freeCtr = s.freeCtr := rfl
@[simp] theorem State.report_nextId (s : State) (r : Report) : (s.report r).nextId = s.nextId := rfl
@[simp] theorem State.report_clock (s : State) (r : Report) : (s.report r).clock = s.clock := rfl
@[simp] theorem State.report_reports (s : State) (r : Report) : (s.report r).reports = s.reports ++ [r] := rfl

/-! ## setV -/

@[simp] theorem Thread.setV_id (s : Thread) (n : Nat) (x : Lanes) : (s.setV n x).id = s.id := rfl
@[simp] theorem Thread.setV_status (s : Thread) (n : Nat) (x : Lanes) : (s.setV n x).status = s.status := rfl
@[simp] theorem Thread.setV_s (s : Thread) (n : Nat) (x : Lanes) : (s.setV n x).s = s.s := rfl
@[simp] theorem Thread.setV_m (s : Thread) (n : Nat) (x : Lanes) : (s.setV n x).m = s.m := rfl
@[simp] theorem Thread.setV_q (s : Thread) (n : Nat) (x : Lanes) : (s.setV n x).q = s.q := rfl
@[simp] theorem Thread.setV_k (s : Thread) (n : Nat) (x : Lanes) : (s.setV n x).k = s.k := rfl
@[simp] theorem Thread.setV_l (s : Thread) (n : Nat) (x : Lanes) : (s.setV n x).l = s.l := rfl
@[simp] theorem Thread.setV_apc (s : Thread) (n : Nat) (x : Lanes) : (s.setV n x).apc = s.apc := rfl
@[simp] theorem Thread.setV_ePath (s : Thread) (n : Nat) (x : Lanes) : (s.setV n x).ePath = s.ePath := rfl
@[simp] theorem Thread.setV_eNext (s : Thread) (n : Nat) (x : Lanes) : (s.setV n x).eNext = s.eNext := rfl
@[simp] theorem Thread.setV_eWords (s : Thread) (n : Nat) (x : Lanes) : (s.setV n x).eWords = s.eWords := rfl
@[simp] theorem Thread.setV_trapPath (s : Thread) (n : Nat) (x : Lanes) : (s.setV n x).trapPath = s.trapPath := rfl
@[simp] theorem Thread.setV_waitA (s : Thread) (n : Nat) (x : Lanes) : (s.setV n x).waitA = s.waitA := rfl
@[simp] theorem Thread.setV_waitE (s : Thread) (n : Nat) (x : Lanes) : (s.setV n x).waitE = s.waitE := rfl
@[simp] theorem Thread.setV_handler (s : Thread) (n : Nat) (x : Lanes) : (s.setV n x).handler = s.handler := rfl
@[simp] theorem Thread.setV_donePending (s : Thread) (n : Nat) (x : Lanes) : (s.setV n x).donePending = s.donePending := rfl
@[simp] theorem Thread.setV_cause (s : Thread) (n : Nat) (x : Lanes) : (s.setV n x).cause = s.cause := rfl
@[simp] theorem Thread.setV_epc (s : Thread) (n : Nat) (x : Lanes) : (s.setV n x).epc = s.epc := rfl
@[simp] theorem Thread.setV_faddr (s : Thread) (n : Nat) (x : Lanes) : (s.setV n x).faddr = s.faddr := rfl
@[simp] theorem Thread.setV_fdetail (s : Thread) (n : Nat) (x : Lanes) : (s.setV n x).fdetail = s.fdetail := rfl
@[simp] theorem Thread.setV_einst (s : Thread) (n : Nat) (x : Lanes) : (s.setV n x).einst = s.einst := rfl
@[simp] theorem Thread.setV_hsave (s : Thread) (n : Nat) (x : Lanes) : (s.setV n x).hsave = s.hsave := rfl
@[simp] theorem Thread.setV_aepc (s : Thread) (n : Nat) (x : Lanes) : (s.setV n x).aepc = s.aepc := rfl
@[simp] theorem Thread.setV_fpflags (s : Thread) (n : Nat) (x : Lanes) : (s.setV n x).fpflags = s.fpflags := rfl
@[simp] theorem Thread.setV_fpen (s : Thread) (n : Nat) (x : Lanes) : (s.setV n x).fpen = s.fpen := rfl
@[simp] theorem Thread.setV_rmode (s : Thread) (n : Nat) (x : Lanes) : (s.setV n x).rmode = s.rmode := rfl
@[simp] theorem Thread.setV_lanes (s : Thread) (n : Nat) (x : Lanes) : (s.setV n x).lanes = s.lanes := rfl
@[simp] theorem Thread.setV_launch (s : Thread) (n : Nat) (x : Lanes) : (s.setV n x).launch = s.launch := rfl
@[simp] theorem Thread.setV_firing (s : Thread) (n : Nat) (x : Lanes) : (s.setV n x).firing = s.firing := rfl
@[simp] theorem Thread.setV_replay (s : Thread) (n : Nat) (x : Lanes) : (s.setV n x).replay = s.replay := rfl
@[simp] theorem Thread.setV_stores (s : Thread) (n : Nat) (x : Lanes) : (s.setV n x).stores = s.stores := rfl
@[simp] theorem Thread.setV_storeErr (s : Thread) (n : Nat) (x : Lanes) : (s.setV n x).storeErr = s.storeErr := rfl
@[simp] theorem Thread.setV_deferred (s : Thread) (n : Nat) (x : Lanes) : (s.setV n x).deferred = s.deferred := rfl
@[simp] theorem Thread.setV_liveRows (s : Thread) (n : Nat) (x : Lanes) : (s.setV n x).liveRows = s.liveRows := rfl
@[simp] theorem Thread.setV_touchedArray (s : Thread) (n : Nat) (x : Lanes) : (s.setV n x).touchedArray = s.touchedArray := rfl
@[simp] theorem Thread.setV_hprio (s : Thread) (n : Nat) (x : Lanes) : (s.setV n x).hprio = s.hprio := rfl
@[simp] theorem Thread.setV_lastA (s : Thread) (n : Nat) (x : Lanes) : (s.setV n x).lastA = s.lastA := rfl
@[simp] theorem Thread.setV_lastE (s : Thread) (n : Nat) (x : Lanes) : (s.setV n x).lastE = s.lastE := rfl
@[simp] theorem Thread.setV_agedA (s : Thread) (n : Nat) (x : Lanes) : (s.setV n x).agedA = s.agedA := rfl
@[simp] theorem Thread.setV_agedE (s : Thread) (n : Nat) (x : Lanes) : (s.setV n x).agedE = s.agedE := rfl
@[simp] theorem Thread.setV_singleStep (s : Thread) (n : Nat) (x : Lanes) : (s.setV n x).singleStep = s.singleStep := rfl
@[simp] theorem Thread.setV_watchPass (s : Thread) (n : Nat) (x : Lanes) : (s.setV n x).watchPass = s.watchPass := rfl

/-! ## setM -/

@[simp] theorem Thread.setM_id (s : Thread) (n : Nat) (x : W32) : (s.setM n x).id = s.id := rfl
@[simp] theorem Thread.setM_status (s : Thread) (n : Nat) (x : W32) : (s.setM n x).status = s.status := rfl
@[simp] theorem Thread.setM_s (s : Thread) (n : Nat) (x : W32) : (s.setM n x).s = s.s := rfl
@[simp] theorem Thread.setM_v (s : Thread) (n : Nat) (x : W32) : (s.setM n x).v = s.v := rfl
@[simp] theorem Thread.setM_q (s : Thread) (n : Nat) (x : W32) : (s.setM n x).q = s.q := rfl
@[simp] theorem Thread.setM_k (s : Thread) (n : Nat) (x : W32) : (s.setM n x).k = s.k := rfl
@[simp] theorem Thread.setM_l (s : Thread) (n : Nat) (x : W32) : (s.setM n x).l = s.l := rfl
@[simp] theorem Thread.setM_apc (s : Thread) (n : Nat) (x : W32) : (s.setM n x).apc = s.apc := rfl
@[simp] theorem Thread.setM_ePath (s : Thread) (n : Nat) (x : W32) : (s.setM n x).ePath = s.ePath := rfl
@[simp] theorem Thread.setM_eNext (s : Thread) (n : Nat) (x : W32) : (s.setM n x).eNext = s.eNext := rfl
@[simp] theorem Thread.setM_eWords (s : Thread) (n : Nat) (x : W32) : (s.setM n x).eWords = s.eWords := rfl
@[simp] theorem Thread.setM_trapPath (s : Thread) (n : Nat) (x : W32) : (s.setM n x).trapPath = s.trapPath := rfl
@[simp] theorem Thread.setM_waitA (s : Thread) (n : Nat) (x : W32) : (s.setM n x).waitA = s.waitA := rfl
@[simp] theorem Thread.setM_waitE (s : Thread) (n : Nat) (x : W32) : (s.setM n x).waitE = s.waitE := rfl
@[simp] theorem Thread.setM_handler (s : Thread) (n : Nat) (x : W32) : (s.setM n x).handler = s.handler := rfl
@[simp] theorem Thread.setM_donePending (s : Thread) (n : Nat) (x : W32) : (s.setM n x).donePending = s.donePending := rfl
@[simp] theorem Thread.setM_cause (s : Thread) (n : Nat) (x : W32) : (s.setM n x).cause = s.cause := rfl
@[simp] theorem Thread.setM_epc (s : Thread) (n : Nat) (x : W32) : (s.setM n x).epc = s.epc := rfl
@[simp] theorem Thread.setM_faddr (s : Thread) (n : Nat) (x : W32) : (s.setM n x).faddr = s.faddr := rfl
@[simp] theorem Thread.setM_fdetail (s : Thread) (n : Nat) (x : W32) : (s.setM n x).fdetail = s.fdetail := rfl
@[simp] theorem Thread.setM_einst (s : Thread) (n : Nat) (x : W32) : (s.setM n x).einst = s.einst := rfl
@[simp] theorem Thread.setM_hsave (s : Thread) (n : Nat) (x : W32) : (s.setM n x).hsave = s.hsave := rfl
@[simp] theorem Thread.setM_aepc (s : Thread) (n : Nat) (x : W32) : (s.setM n x).aepc = s.aepc := rfl
@[simp] theorem Thread.setM_fpflags (s : Thread) (n : Nat) (x : W32) : (s.setM n x).fpflags = s.fpflags := rfl
@[simp] theorem Thread.setM_fpen (s : Thread) (n : Nat) (x : W32) : (s.setM n x).fpen = s.fpen := rfl
@[simp] theorem Thread.setM_rmode (s : Thread) (n : Nat) (x : W32) : (s.setM n x).rmode = s.rmode := rfl
@[simp] theorem Thread.setM_lanes (s : Thread) (n : Nat) (x : W32) : (s.setM n x).lanes = s.lanes := rfl
@[simp] theorem Thread.setM_launch (s : Thread) (n : Nat) (x : W32) : (s.setM n x).launch = s.launch := rfl
@[simp] theorem Thread.setM_firing (s : Thread) (n : Nat) (x : W32) : (s.setM n x).firing = s.firing := rfl
@[simp] theorem Thread.setM_replay (s : Thread) (n : Nat) (x : W32) : (s.setM n x).replay = s.replay := rfl
@[simp] theorem Thread.setM_stores (s : Thread) (n : Nat) (x : W32) : (s.setM n x).stores = s.stores := rfl
@[simp] theorem Thread.setM_storeErr (s : Thread) (n : Nat) (x : W32) : (s.setM n x).storeErr = s.storeErr := rfl
@[simp] theorem Thread.setM_deferred (s : Thread) (n : Nat) (x : W32) : (s.setM n x).deferred = s.deferred := rfl
@[simp] theorem Thread.setM_liveRows (s : Thread) (n : Nat) (x : W32) : (s.setM n x).liveRows = s.liveRows := rfl
@[simp] theorem Thread.setM_touchedArray (s : Thread) (n : Nat) (x : W32) : (s.setM n x).touchedArray = s.touchedArray := rfl
@[simp] theorem Thread.setM_hprio (s : Thread) (n : Nat) (x : W32) : (s.setM n x).hprio = s.hprio := rfl
@[simp] theorem Thread.setM_lastA (s : Thread) (n : Nat) (x : W32) : (s.setM n x).lastA = s.lastA := rfl
@[simp] theorem Thread.setM_lastE (s : Thread) (n : Nat) (x : W32) : (s.setM n x).lastE = s.lastE := rfl
@[simp] theorem Thread.setM_agedA (s : Thread) (n : Nat) (x : W32) : (s.setM n x).agedA = s.agedA := rfl
@[simp] theorem Thread.setM_agedE (s : Thread) (n : Nat) (x : W32) : (s.setM n x).agedE = s.agedE := rfl
@[simp] theorem Thread.setM_singleStep (s : Thread) (n : Nat) (x : W32) : (s.setM n x).singleStep = s.singleStep := rfl
@[simp] theorem Thread.setM_watchPass (s : Thread) (n : Nat) (x : W32) : (s.setM n x).watchPass = s.watchPass := rfl

/-! ## setQ -/

@[simp] theorem Thread.setQ_id (s : Thread) (n : Nat) (x : List QEntry) : (s.setQ n x).id = s.id := rfl
@[simp] theorem Thread.setQ_status (s : Thread) (n : Nat) (x : List QEntry) : (s.setQ n x).status = s.status := rfl
@[simp] theorem Thread.setQ_s (s : Thread) (n : Nat) (x : List QEntry) : (s.setQ n x).s = s.s := rfl
@[simp] theorem Thread.setQ_v (s : Thread) (n : Nat) (x : List QEntry) : (s.setQ n x).v = s.v := rfl
@[simp] theorem Thread.setQ_m (s : Thread) (n : Nat) (x : List QEntry) : (s.setQ n x).m = s.m := rfl
@[simp] theorem Thread.setQ_k (s : Thread) (n : Nat) (x : List QEntry) : (s.setQ n x).k = s.k := rfl
@[simp] theorem Thread.setQ_l (s : Thread) (n : Nat) (x : List QEntry) : (s.setQ n x).l = s.l := rfl
@[simp] theorem Thread.setQ_apc (s : Thread) (n : Nat) (x : List QEntry) : (s.setQ n x).apc = s.apc := rfl
@[simp] theorem Thread.setQ_ePath (s : Thread) (n : Nat) (x : List QEntry) : (s.setQ n x).ePath = s.ePath := rfl
@[simp] theorem Thread.setQ_eNext (s : Thread) (n : Nat) (x : List QEntry) : (s.setQ n x).eNext = s.eNext := rfl
@[simp] theorem Thread.setQ_eWords (s : Thread) (n : Nat) (x : List QEntry) : (s.setQ n x).eWords = s.eWords := rfl
@[simp] theorem Thread.setQ_trapPath (s : Thread) (n : Nat) (x : List QEntry) : (s.setQ n x).trapPath = s.trapPath := rfl
@[simp] theorem Thread.setQ_waitA (s : Thread) (n : Nat) (x : List QEntry) : (s.setQ n x).waitA = s.waitA := rfl
@[simp] theorem Thread.setQ_waitE (s : Thread) (n : Nat) (x : List QEntry) : (s.setQ n x).waitE = s.waitE := rfl
@[simp] theorem Thread.setQ_handler (s : Thread) (n : Nat) (x : List QEntry) : (s.setQ n x).handler = s.handler := rfl
@[simp] theorem Thread.setQ_donePending (s : Thread) (n : Nat) (x : List QEntry) : (s.setQ n x).donePending = s.donePending := rfl
@[simp] theorem Thread.setQ_cause (s : Thread) (n : Nat) (x : List QEntry) : (s.setQ n x).cause = s.cause := rfl
@[simp] theorem Thread.setQ_epc (s : Thread) (n : Nat) (x : List QEntry) : (s.setQ n x).epc = s.epc := rfl
@[simp] theorem Thread.setQ_faddr (s : Thread) (n : Nat) (x : List QEntry) : (s.setQ n x).faddr = s.faddr := rfl
@[simp] theorem Thread.setQ_fdetail (s : Thread) (n : Nat) (x : List QEntry) : (s.setQ n x).fdetail = s.fdetail := rfl
@[simp] theorem Thread.setQ_einst (s : Thread) (n : Nat) (x : List QEntry) : (s.setQ n x).einst = s.einst := rfl
@[simp] theorem Thread.setQ_hsave (s : Thread) (n : Nat) (x : List QEntry) : (s.setQ n x).hsave = s.hsave := rfl
@[simp] theorem Thread.setQ_aepc (s : Thread) (n : Nat) (x : List QEntry) : (s.setQ n x).aepc = s.aepc := rfl
@[simp] theorem Thread.setQ_fpflags (s : Thread) (n : Nat) (x : List QEntry) : (s.setQ n x).fpflags = s.fpflags := rfl
@[simp] theorem Thread.setQ_fpen (s : Thread) (n : Nat) (x : List QEntry) : (s.setQ n x).fpen = s.fpen := rfl
@[simp] theorem Thread.setQ_rmode (s : Thread) (n : Nat) (x : List QEntry) : (s.setQ n x).rmode = s.rmode := rfl
@[simp] theorem Thread.setQ_lanes (s : Thread) (n : Nat) (x : List QEntry) : (s.setQ n x).lanes = s.lanes := rfl
@[simp] theorem Thread.setQ_launch (s : Thread) (n : Nat) (x : List QEntry) : (s.setQ n x).launch = s.launch := rfl
@[simp] theorem Thread.setQ_firing (s : Thread) (n : Nat) (x : List QEntry) : (s.setQ n x).firing = s.firing := rfl
@[simp] theorem Thread.setQ_replay (s : Thread) (n : Nat) (x : List QEntry) : (s.setQ n x).replay = s.replay := rfl
@[simp] theorem Thread.setQ_stores (s : Thread) (n : Nat) (x : List QEntry) : (s.setQ n x).stores = s.stores := rfl
@[simp] theorem Thread.setQ_storeErr (s : Thread) (n : Nat) (x : List QEntry) : (s.setQ n x).storeErr = s.storeErr := rfl
@[simp] theorem Thread.setQ_deferred (s : Thread) (n : Nat) (x : List QEntry) : (s.setQ n x).deferred = s.deferred := rfl
@[simp] theorem Thread.setQ_liveRows (s : Thread) (n : Nat) (x : List QEntry) : (s.setQ n x).liveRows = s.liveRows := rfl
@[simp] theorem Thread.setQ_touchedArray (s : Thread) (n : Nat) (x : List QEntry) : (s.setQ n x).touchedArray = s.touchedArray := rfl
@[simp] theorem Thread.setQ_hprio (s : Thread) (n : Nat) (x : List QEntry) : (s.setQ n x).hprio = s.hprio := rfl
@[simp] theorem Thread.setQ_lastA (s : Thread) (n : Nat) (x : List QEntry) : (s.setQ n x).lastA = s.lastA := rfl
@[simp] theorem Thread.setQ_lastE (s : Thread) (n : Nat) (x : List QEntry) : (s.setQ n x).lastE = s.lastE := rfl
@[simp] theorem Thread.setQ_agedA (s : Thread) (n : Nat) (x : List QEntry) : (s.setQ n x).agedA = s.agedA := rfl
@[simp] theorem Thread.setQ_agedE (s : Thread) (n : Nat) (x : List QEntry) : (s.setQ n x).agedE = s.agedE := rfl
@[simp] theorem Thread.setQ_singleStep (s : Thread) (n : Nat) (x : List QEntry) : (s.setQ n x).singleStep = s.singleStep := rfl
@[simp] theorem Thread.setQ_watchPass (s : Thread) (n : Nat) (x : List QEntry) : (s.setQ n x).watchPass = s.watchPass := rfl

/-! ## setK -/

@[simp] theorem Thread.setK_id (s : Thread) (n : Nat) (x : Token) : (s.setK n x).id = s.id := rfl
@[simp] theorem Thread.setK_status (s : Thread) (n : Nat) (x : Token) : (s.setK n x).status = s.status := rfl
@[simp] theorem Thread.setK_s (s : Thread) (n : Nat) (x : Token) : (s.setK n x).s = s.s := rfl
@[simp] theorem Thread.setK_v (s : Thread) (n : Nat) (x : Token) : (s.setK n x).v = s.v := rfl
@[simp] theorem Thread.setK_m (s : Thread) (n : Nat) (x : Token) : (s.setK n x).m = s.m := rfl
@[simp] theorem Thread.setK_q (s : Thread) (n : Nat) (x : Token) : (s.setK n x).q = s.q := rfl
@[simp] theorem Thread.setK_l (s : Thread) (n : Nat) (x : Token) : (s.setK n x).l = s.l := rfl
@[simp] theorem Thread.setK_apc (s : Thread) (n : Nat) (x : Token) : (s.setK n x).apc = s.apc := rfl
@[simp] theorem Thread.setK_ePath (s : Thread) (n : Nat) (x : Token) : (s.setK n x).ePath = s.ePath := rfl
@[simp] theorem Thread.setK_eNext (s : Thread) (n : Nat) (x : Token) : (s.setK n x).eNext = s.eNext := rfl
@[simp] theorem Thread.setK_eWords (s : Thread) (n : Nat) (x : Token) : (s.setK n x).eWords = s.eWords := rfl
@[simp] theorem Thread.setK_trapPath (s : Thread) (n : Nat) (x : Token) : (s.setK n x).trapPath = s.trapPath := rfl
@[simp] theorem Thread.setK_waitA (s : Thread) (n : Nat) (x : Token) : (s.setK n x).waitA = s.waitA := rfl
@[simp] theorem Thread.setK_waitE (s : Thread) (n : Nat) (x : Token) : (s.setK n x).waitE = s.waitE := rfl
@[simp] theorem Thread.setK_handler (s : Thread) (n : Nat) (x : Token) : (s.setK n x).handler = s.handler := rfl
@[simp] theorem Thread.setK_donePending (s : Thread) (n : Nat) (x : Token) : (s.setK n x).donePending = s.donePending := rfl
@[simp] theorem Thread.setK_cause (s : Thread) (n : Nat) (x : Token) : (s.setK n x).cause = s.cause := rfl
@[simp] theorem Thread.setK_epc (s : Thread) (n : Nat) (x : Token) : (s.setK n x).epc = s.epc := rfl
@[simp] theorem Thread.setK_faddr (s : Thread) (n : Nat) (x : Token) : (s.setK n x).faddr = s.faddr := rfl
@[simp] theorem Thread.setK_fdetail (s : Thread) (n : Nat) (x : Token) : (s.setK n x).fdetail = s.fdetail := rfl
@[simp] theorem Thread.setK_einst (s : Thread) (n : Nat) (x : Token) : (s.setK n x).einst = s.einst := rfl
@[simp] theorem Thread.setK_hsave (s : Thread) (n : Nat) (x : Token) : (s.setK n x).hsave = s.hsave := rfl
@[simp] theorem Thread.setK_aepc (s : Thread) (n : Nat) (x : Token) : (s.setK n x).aepc = s.aepc := rfl
@[simp] theorem Thread.setK_fpflags (s : Thread) (n : Nat) (x : Token) : (s.setK n x).fpflags = s.fpflags := rfl
@[simp] theorem Thread.setK_fpen (s : Thread) (n : Nat) (x : Token) : (s.setK n x).fpen = s.fpen := rfl
@[simp] theorem Thread.setK_rmode (s : Thread) (n : Nat) (x : Token) : (s.setK n x).rmode = s.rmode := rfl
@[simp] theorem Thread.setK_lanes (s : Thread) (n : Nat) (x : Token) : (s.setK n x).lanes = s.lanes := rfl
@[simp] theorem Thread.setK_launch (s : Thread) (n : Nat) (x : Token) : (s.setK n x).launch = s.launch := rfl
@[simp] theorem Thread.setK_firing (s : Thread) (n : Nat) (x : Token) : (s.setK n x).firing = s.firing := rfl
@[simp] theorem Thread.setK_replay (s : Thread) (n : Nat) (x : Token) : (s.setK n x).replay = s.replay := rfl
@[simp] theorem Thread.setK_stores (s : Thread) (n : Nat) (x : Token) : (s.setK n x).stores = s.stores := rfl
@[simp] theorem Thread.setK_storeErr (s : Thread) (n : Nat) (x : Token) : (s.setK n x).storeErr = s.storeErr := rfl
@[simp] theorem Thread.setK_deferred (s : Thread) (n : Nat) (x : Token) : (s.setK n x).deferred = s.deferred := rfl
@[simp] theorem Thread.setK_liveRows (s : Thread) (n : Nat) (x : Token) : (s.setK n x).liveRows = s.liveRows := rfl
@[simp] theorem Thread.setK_touchedArray (s : Thread) (n : Nat) (x : Token) : (s.setK n x).touchedArray = s.touchedArray := rfl
@[simp] theorem Thread.setK_hprio (s : Thread) (n : Nat) (x : Token) : (s.setK n x).hprio = s.hprio := rfl
@[simp] theorem Thread.setK_lastA (s : Thread) (n : Nat) (x : Token) : (s.setK n x).lastA = s.lastA := rfl
@[simp] theorem Thread.setK_lastE (s : Thread) (n : Nat) (x : Token) : (s.setK n x).lastE = s.lastE := rfl
@[simp] theorem Thread.setK_agedA (s : Thread) (n : Nat) (x : Token) : (s.setK n x).agedA = s.agedA := rfl
@[simp] theorem Thread.setK_agedE (s : Thread) (n : Nat) (x : Token) : (s.setK n x).agedE = s.agedE := rfl
@[simp] theorem Thread.setK_singleStep (s : Thread) (n : Nat) (x : Token) : (s.setK n x).singleStep = s.singleStep := rfl
@[simp] theorem Thread.setK_watchPass (s : Thread) (n : Nat) (x : Token) : (s.setK n x).watchPass = s.watchPass := rfl

/-! ## setL -/

@[simp] theorem Thread.setL_id (s : Thread) (n : Nat) (x : Option Link) : (s.setL n x).id = s.id := rfl
@[simp] theorem Thread.setL_status (s : Thread) (n : Nat) (x : Option Link) : (s.setL n x).status = s.status := rfl
@[simp] theorem Thread.setL_s (s : Thread) (n : Nat) (x : Option Link) : (s.setL n x).s = s.s := rfl
@[simp] theorem Thread.setL_v (s : Thread) (n : Nat) (x : Option Link) : (s.setL n x).v = s.v := rfl
@[simp] theorem Thread.setL_m (s : Thread) (n : Nat) (x : Option Link) : (s.setL n x).m = s.m := rfl
@[simp] theorem Thread.setL_q (s : Thread) (n : Nat) (x : Option Link) : (s.setL n x).q = s.q := rfl
@[simp] theorem Thread.setL_k (s : Thread) (n : Nat) (x : Option Link) : (s.setL n x).k = s.k := rfl
@[simp] theorem Thread.setL_apc (s : Thread) (n : Nat) (x : Option Link) : (s.setL n x).apc = s.apc := rfl
@[simp] theorem Thread.setL_ePath (s : Thread) (n : Nat) (x : Option Link) : (s.setL n x).ePath = s.ePath := rfl
@[simp] theorem Thread.setL_eNext (s : Thread) (n : Nat) (x : Option Link) : (s.setL n x).eNext = s.eNext := rfl
@[simp] theorem Thread.setL_eWords (s : Thread) (n : Nat) (x : Option Link) : (s.setL n x).eWords = s.eWords := rfl
@[simp] theorem Thread.setL_trapPath (s : Thread) (n : Nat) (x : Option Link) : (s.setL n x).trapPath = s.trapPath := rfl
@[simp] theorem Thread.setL_waitA (s : Thread) (n : Nat) (x : Option Link) : (s.setL n x).waitA = s.waitA := rfl
@[simp] theorem Thread.setL_waitE (s : Thread) (n : Nat) (x : Option Link) : (s.setL n x).waitE = s.waitE := rfl
@[simp] theorem Thread.setL_handler (s : Thread) (n : Nat) (x : Option Link) : (s.setL n x).handler = s.handler := rfl
@[simp] theorem Thread.setL_donePending (s : Thread) (n : Nat) (x : Option Link) : (s.setL n x).donePending = s.donePending := rfl
@[simp] theorem Thread.setL_cause (s : Thread) (n : Nat) (x : Option Link) : (s.setL n x).cause = s.cause := rfl
@[simp] theorem Thread.setL_epc (s : Thread) (n : Nat) (x : Option Link) : (s.setL n x).epc = s.epc := rfl
@[simp] theorem Thread.setL_faddr (s : Thread) (n : Nat) (x : Option Link) : (s.setL n x).faddr = s.faddr := rfl
@[simp] theorem Thread.setL_fdetail (s : Thread) (n : Nat) (x : Option Link) : (s.setL n x).fdetail = s.fdetail := rfl
@[simp] theorem Thread.setL_einst (s : Thread) (n : Nat) (x : Option Link) : (s.setL n x).einst = s.einst := rfl
@[simp] theorem Thread.setL_hsave (s : Thread) (n : Nat) (x : Option Link) : (s.setL n x).hsave = s.hsave := rfl
@[simp] theorem Thread.setL_aepc (s : Thread) (n : Nat) (x : Option Link) : (s.setL n x).aepc = s.aepc := rfl
@[simp] theorem Thread.setL_fpflags (s : Thread) (n : Nat) (x : Option Link) : (s.setL n x).fpflags = s.fpflags := rfl
@[simp] theorem Thread.setL_fpen (s : Thread) (n : Nat) (x : Option Link) : (s.setL n x).fpen = s.fpen := rfl
@[simp] theorem Thread.setL_rmode (s : Thread) (n : Nat) (x : Option Link) : (s.setL n x).rmode = s.rmode := rfl
@[simp] theorem Thread.setL_lanes (s : Thread) (n : Nat) (x : Option Link) : (s.setL n x).lanes = s.lanes := rfl
@[simp] theorem Thread.setL_launch (s : Thread) (n : Nat) (x : Option Link) : (s.setL n x).launch = s.launch := rfl
@[simp] theorem Thread.setL_firing (s : Thread) (n : Nat) (x : Option Link) : (s.setL n x).firing = s.firing := rfl
@[simp] theorem Thread.setL_replay (s : Thread) (n : Nat) (x : Option Link) : (s.setL n x).replay = s.replay := rfl
@[simp] theorem Thread.setL_stores (s : Thread) (n : Nat) (x : Option Link) : (s.setL n x).stores = s.stores := rfl
@[simp] theorem Thread.setL_storeErr (s : Thread) (n : Nat) (x : Option Link) : (s.setL n x).storeErr = s.storeErr := rfl
@[simp] theorem Thread.setL_deferred (s : Thread) (n : Nat) (x : Option Link) : (s.setL n x).deferred = s.deferred := rfl
@[simp] theorem Thread.setL_liveRows (s : Thread) (n : Nat) (x : Option Link) : (s.setL n x).liveRows = s.liveRows := rfl
@[simp] theorem Thread.setL_touchedArray (s : Thread) (n : Nat) (x : Option Link) : (s.setL n x).touchedArray = s.touchedArray := rfl
@[simp] theorem Thread.setL_hprio (s : Thread) (n : Nat) (x : Option Link) : (s.setL n x).hprio = s.hprio := rfl
@[simp] theorem Thread.setL_lastA (s : Thread) (n : Nat) (x : Option Link) : (s.setL n x).lastA = s.lastA := rfl
@[simp] theorem Thread.setL_lastE (s : Thread) (n : Nat) (x : Option Link) : (s.setL n x).lastE = s.lastE := rfl
@[simp] theorem Thread.setL_agedA (s : Thread) (n : Nat) (x : Option Link) : (s.setL n x).agedA = s.agedA := rfl
@[simp] theorem Thread.setL_agedE (s : Thread) (n : Nat) (x : Option Link) : (s.setL n x).agedE = s.agedE := rfl
@[simp] theorem Thread.setL_singleStep (s : Thread) (n : Nat) (x : Option Link) : (s.setL n x).singleStep = s.singleStep := rfl
@[simp] theorem Thread.setL_watchPass (s : Thread) (n : Nat) (x : Option Link) : (s.setL n x).watchPass = s.watchPass := rfl

/-! ## setS -/

@[simp] theorem Thread.setS_id (t : Thread) (n : Nat) (x : W64) : (t.setS n x).id = t.id := by unfold Thread.setS; split <;> rfl
@[simp] theorem Thread.setS_status (t : Thread) (n : Nat) (x : W64) : (t.setS n x).status = t.status := by unfold Thread.setS; split <;> rfl
@[simp] theorem Thread.setS_v (t : Thread) (n : Nat) (x : W64) : (t.setS n x).v = t.v := by unfold Thread.setS; split <;> rfl
@[simp] theorem Thread.setS_m (t : Thread) (n : Nat) (x : W64) : (t.setS n x).m = t.m := by unfold Thread.setS; split <;> rfl
@[simp] theorem Thread.setS_q (t : Thread) (n : Nat) (x : W64) : (t.setS n x).q = t.q := by unfold Thread.setS; split <;> rfl
@[simp] theorem Thread.setS_k (t : Thread) (n : Nat) (x : W64) : (t.setS n x).k = t.k := by unfold Thread.setS; split <;> rfl
@[simp] theorem Thread.setS_l (t : Thread) (n : Nat) (x : W64) : (t.setS n x).l = t.l := by unfold Thread.setS; split <;> rfl
@[simp] theorem Thread.setS_apc (t : Thread) (n : Nat) (x : W64) : (t.setS n x).apc = t.apc := by unfold Thread.setS; split <;> rfl
@[simp] theorem Thread.setS_ePath (t : Thread) (n : Nat) (x : W64) : (t.setS n x).ePath = t.ePath := by unfold Thread.setS; split <;> rfl
@[simp] theorem Thread.setS_eNext (t : Thread) (n : Nat) (x : W64) : (t.setS n x).eNext = t.eNext := by unfold Thread.setS; split <;> rfl
@[simp] theorem Thread.setS_eWords (t : Thread) (n : Nat) (x : W64) : (t.setS n x).eWords = t.eWords := by unfold Thread.setS; split <;> rfl
@[simp] theorem Thread.setS_trapPath (t : Thread) (n : Nat) (x : W64) : (t.setS n x).trapPath = t.trapPath := by unfold Thread.setS; split <;> rfl
@[simp] theorem Thread.setS_waitA (t : Thread) (n : Nat) (x : W64) : (t.setS n x).waitA = t.waitA := by unfold Thread.setS; split <;> rfl
@[simp] theorem Thread.setS_waitE (t : Thread) (n : Nat) (x : W64) : (t.setS n x).waitE = t.waitE := by unfold Thread.setS; split <;> rfl
@[simp] theorem Thread.setS_handler (t : Thread) (n : Nat) (x : W64) : (t.setS n x).handler = t.handler := by unfold Thread.setS; split <;> rfl
@[simp] theorem Thread.setS_donePending (t : Thread) (n : Nat) (x : W64) : (t.setS n x).donePending = t.donePending := by unfold Thread.setS; split <;> rfl
@[simp] theorem Thread.setS_cause (t : Thread) (n : Nat) (x : W64) : (t.setS n x).cause = t.cause := by unfold Thread.setS; split <;> rfl
@[simp] theorem Thread.setS_epc (t : Thread) (n : Nat) (x : W64) : (t.setS n x).epc = t.epc := by unfold Thread.setS; split <;> rfl
@[simp] theorem Thread.setS_faddr (t : Thread) (n : Nat) (x : W64) : (t.setS n x).faddr = t.faddr := by unfold Thread.setS; split <;> rfl
@[simp] theorem Thread.setS_fdetail (t : Thread) (n : Nat) (x : W64) : (t.setS n x).fdetail = t.fdetail := by unfold Thread.setS; split <;> rfl
@[simp] theorem Thread.setS_einst (t : Thread) (n : Nat) (x : W64) : (t.setS n x).einst = t.einst := by unfold Thread.setS; split <;> rfl
@[simp] theorem Thread.setS_hsave (t : Thread) (n : Nat) (x : W64) : (t.setS n x).hsave = t.hsave := by unfold Thread.setS; split <;> rfl
@[simp] theorem Thread.setS_aepc (t : Thread) (n : Nat) (x : W64) : (t.setS n x).aepc = t.aepc := by unfold Thread.setS; split <;> rfl
@[simp] theorem Thread.setS_fpflags (t : Thread) (n : Nat) (x : W64) : (t.setS n x).fpflags = t.fpflags := by unfold Thread.setS; split <;> rfl
@[simp] theorem Thread.setS_fpen (t : Thread) (n : Nat) (x : W64) : (t.setS n x).fpen = t.fpen := by unfold Thread.setS; split <;> rfl
@[simp] theorem Thread.setS_rmode (t : Thread) (n : Nat) (x : W64) : (t.setS n x).rmode = t.rmode := by unfold Thread.setS; split <;> rfl
@[simp] theorem Thread.setS_lanes (t : Thread) (n : Nat) (x : W64) : (t.setS n x).lanes = t.lanes := by unfold Thread.setS; split <;> rfl
@[simp] theorem Thread.setS_launch (t : Thread) (n : Nat) (x : W64) : (t.setS n x).launch = t.launch := by unfold Thread.setS; split <;> rfl
@[simp] theorem Thread.setS_firing (t : Thread) (n : Nat) (x : W64) : (t.setS n x).firing = t.firing := by unfold Thread.setS; split <;> rfl
@[simp] theorem Thread.setS_replay (t : Thread) (n : Nat) (x : W64) : (t.setS n x).replay = t.replay := by unfold Thread.setS; split <;> rfl
@[simp] theorem Thread.setS_stores (t : Thread) (n : Nat) (x : W64) : (t.setS n x).stores = t.stores := by unfold Thread.setS; split <;> rfl
@[simp] theorem Thread.setS_storeErr (t : Thread) (n : Nat) (x : W64) : (t.setS n x).storeErr = t.storeErr := by unfold Thread.setS; split <;> rfl
@[simp] theorem Thread.setS_deferred (t : Thread) (n : Nat) (x : W64) : (t.setS n x).deferred = t.deferred := by unfold Thread.setS; split <;> rfl
@[simp] theorem Thread.setS_liveRows (t : Thread) (n : Nat) (x : W64) : (t.setS n x).liveRows = t.liveRows := by unfold Thread.setS; split <;> rfl
@[simp] theorem Thread.setS_touchedArray (t : Thread) (n : Nat) (x : W64) : (t.setS n x).touchedArray = t.touchedArray := by unfold Thread.setS; split <;> rfl
@[simp] theorem Thread.setS_hprio (t : Thread) (n : Nat) (x : W64) : (t.setS n x).hprio = t.hprio := by unfold Thread.setS; split <;> rfl
@[simp] theorem Thread.setS_lastA (t : Thread) (n : Nat) (x : W64) : (t.setS n x).lastA = t.lastA := by unfold Thread.setS; split <;> rfl
@[simp] theorem Thread.setS_lastE (t : Thread) (n : Nat) (x : W64) : (t.setS n x).lastE = t.lastE := by unfold Thread.setS; split <;> rfl
@[simp] theorem Thread.setS_agedA (t : Thread) (n : Nat) (x : W64) : (t.setS n x).agedA = t.agedA := by unfold Thread.setS; split <;> rfl
@[simp] theorem Thread.setS_agedE (t : Thread) (n : Nat) (x : W64) : (t.setS n x).agedE = t.agedE := by unfold Thread.setS; split <;> rfl
@[simp] theorem Thread.setS_singleStep (t : Thread) (n : Nat) (x : W64) : (t.setS n x).singleStep = t.singleStep := by unfold Thread.setS; split <;> rfl
@[simp] theorem Thread.setS_watchPass (t : Thread) (n : Nat) (x : W64) : (t.setS n x).watchPass = t.watchPass := by unfold Thread.setS; split <;> rfl

/-! ## Reading a register after a write -/

theorem getElem?_setIfInBounds_getD {α : Type} {n : Nat} (v : Vector α n) (i j : Nat) (x d : α) (h : j < n) :
    ((v.setIfInBounds i x)[j]?).getD d = if i = j then x else (v[j]?).getD d := by
  rw [Vector.getElem?_setIfInBounds]
  by_cases hij : i = j
  · subst hij; simp [h]
  · simp [hij]

/-- s0 reads zero after any write (R51). -/
@[simp] theorem Thread.getS_zero (t : Thread) : t.getS 0 = 0 := rfl

/-- A write of s0 changes nothing (R51). -/
@[simp] theorem Thread.setS_zero (t : Thread) (x : W64) : t.setS 0 x = t := rfl

theorem Thread.getS_setS_self (t : Thread) (n : Nat) (x : W64) (h : n < 64) (h0 : n ≠ 0) : (t.setS n x).getS n = x := by
  simp only [Thread.getS, Thread.setS, if_neg h0]
  rw [getElem?_setIfInBounds_getD _ _ _ _ _ h]; simp

theorem Thread.getS_setS_ne (t : Thread) (n j : Nat) (x : W64) (h : j ≠ n) : (t.setS n x).getS j = t.getS j := by
  unfold Thread.getS Thread.setS
  by_cases hj : j = 0
  · simp [hj]
  · by_cases hn : n = 0
    · simp [hj, hn]
    · simp [hj, hn, Ne.symm h]

theorem Thread.getV_setV_self (t : Thread) (n : Nat) (x : Lanes) (h : n < 64) : (t.setV n x).getV n = x := by
  simp only [Thread.getV, Thread.setV]
  rw [getElem?_setIfInBounds_getD _ _ _ _ _ h]; simp

theorem Thread.getV_setV_ne (t : Thread) (n j : Nat) (x : Lanes) (h : j ≠ n) : (t.setV n x).getV j = t.getV j := by
  simp [Thread.getV, Thread.setV, Ne.symm h]

theorem Thread.getM_setM_self (t : Thread) (n : Nat) (x : W32) (h : n < 8) : (t.setM n x).getM n = x := by
  simp only [Thread.getM, Thread.setM]
  rw [getElem?_setIfInBounds_getD _ _ _ _ _ h]; simp

theorem Thread.getM_setM_ne (t : Thread) (n j : Nat) (x : W32) (h : j ≠ n) : (t.setM n x).getM j = t.getM j := by
  simp [Thread.getM, Thread.setM, Ne.symm h]

theorem Thread.getQ_setQ_self (t : Thread) (n : Nat) (x : List QEntry) (h : n < 8) : (t.setQ n x).getQ n = x := by
  simp only [Thread.getQ, Thread.setQ]
  rw [getElem?_setIfInBounds_getD _ _ _ _ _ h]; simp

theorem Thread.getQ_setQ_ne (t : Thread) (n j : Nat) (x : List QEntry) (h : j ≠ n) : (t.setQ n x).getQ j = t.getQ j := by
  simp [Thread.getQ, Thread.setQ, Ne.symm h]

theorem Lanes.lane_make (f : Nat → W32) (i : Nat) (h : i < 32) : (Lanes.make f).lane i = f i := by
  simp [Lanes.lane, Lanes.make, h]

end Sys2Proof.Machine
end

