-- ==== Sys2Proof/Laws/Ops.lean ====
section
/-! SUPPORT. What the shared operations can do: how an instruction's body ends, what a trap does with its thread, what containment and a
change of focus leave as they were. -/

namespace Sys2Proof.Machine

/-! ## How a body ends -/

@[simp] theorem finishTo_ok (s s' : State) (pos : W64) : finishTo s (.ok (s', pos)) = .next (s'.retireTo pos) := rfl
@[simp] theorem finishTo_trap (s : State) (i : TrapInfo) : finishTo s (.error (.trap i)) = .next (s.trapA i) := rfl
@[simp] theorem finishTo_trapIn (s s' : State) (i : TrapInfo) : finishTo s (.error (.trapIn s' i)) = .next (s.trapFrom s' i) := rfl
/-- A wait is noted, but an instruction that has cleared its checks keeps the wait that it has (R10). -/
@[simp] theorem finishTo_wait (s : State) (w : Wait) :
    finishTo s (.error (.wait w)) = .next (if s.thr.waitA.settled && !w.settled then s else s.updThr fun t => { t with waitA := w }) := rfl
@[simp] theorem finishTo_waitIn (s s' : State) (w : Wait) :
    finishTo s (.error (.waitIn s' w)) = .next (s'.updThr fun t => { t with waitA := w }) := rfl
@[simp] theorem finishTo_fault (s : State) (f : Fault) : finishTo s (.error (.fault f)) = .fault f := rfl

@[simp] theorem finishA_ok (len : Nat) (s s' : State) : finishA len s (.ok s') = .next (s'.retireTo (s.after len)) := rfl
@[simp] theorem finishA_error (len : Nat) (s : State) (e : Stop) : finishA len s (.error e) = finishTo s (.error e) := rfl

@[simp] theorem finishE_ok (len : Nat) (s s' : State) :
    finishE len s (.ok s') = .next ((s'.updThr fun t => t.retireE len s.now).stepPark true) := rfl
@[simp] theorem finishE_trap (len : Nat) (s : State) (i : TrapInfo) : finishE len s (.error (.trap i)) = .next (s.takeTrap true i) := rfl
@[simp] theorem finishE_trapIn (len : Nat) (s s' : State) (i : TrapInfo) :
    finishE len s (.error (.trapIn s' i)) = .next (s'.takeTrap true i) := rfl
@[simp] theorem finishE_wait (len : Nat) (s : State) (w : Wait) :
    finishE len s (.error (.wait w)) = .next (s.updThr fun t => { t with waitE := w }) := rfl
@[simp] theorem finishE_waitIn (len : Nat) (s s' : State) (w : Wait) :
    finishE len s (.error (.waitIn s' w)) = .next (s'.updThr fun t => { t with waitE := w }) := rfl
@[simp] theorem finishE_fault (len : Nat) (s : State) (f : Fault) : finishE len s (.error (.fault f)) = .fault f := rfl

/-- Everything that an A-stream instruction's body can come to, where the machine goes on. -/
theorem finishTo_cases {s u : State} {r : Res (State × W64)} (h : finishTo s r = .next u) :
    (∃ s' pos, r = .ok (s', pos) ∧ u = s'.retireTo pos) ∨
    (∃ i, r = .error (.trap i) ∧ u = s.trapA i) ∨
    (∃ s' i, r = .error (.trapIn s' i) ∧ u = s.trapFrom s' i) ∨
    (∃ w, r = .error (.wait w) ∧ u = if s.thr.waitA.settled && !w.settled then s else s.updThr fun t => { t with waitA := w }) ∨
    (∃ s' w, r = .error (.waitIn s' w) ∧ u = s'.updThr fun t => { t with waitA := w }) := by
  match r, h with
  | .ok (s', pos), h => exact .inl ⟨s', pos, rfl, (Host.Outcome.next.inj h).symm⟩
  | .error (.trap i), h => exact .inr (.inl ⟨i, rfl, (Host.Outcome.next.inj h).symm⟩)
  | .error (.trapIn s' i), h => exact .inr (.inr (.inl ⟨s', i, rfl, (Host.Outcome.next.inj h).symm⟩))
  | .error (.wait w), h => exact .inr (.inr (.inr (.inl ⟨w, rfl, (Host.Outcome.next.inj h).symm⟩)))
  | .error (.waitIn s' w), h => exact .inr (.inr (.inr (.inr ⟨s', w, rfl, (Host.Outcome.next.inj h).symm⟩)))
  | .error (.fault f), h => exact nomatch h

/-- Everything that an E-stream instruction's body can come to, where the machine goes on. -/
theorem finishE_cases {len : Nat} {s u : State} {r : Res State} (h : finishE len s r = .next u) :
    (∃ s', r = .ok s' ∧ u = (s'.updThr fun t => t.retireE len s.now).stepPark true) ∨
    (∃ i, r = .error (.trap i) ∧ u = s.takeTrap true i) ∨
    (∃ s' i, r = .error (.trapIn s' i) ∧ u = s'.takeTrap true i) ∨
    (∃ w, r = .error (.wait w) ∧ u = s.updThr fun t => { t with waitE := w }) ∨
    (∃ s' w, r = .error (.waitIn s' w) ∧ u = s'.updThr fun t => { t with waitE := w }) := by
  match r, h with
  | .ok s', h => exact .inl ⟨s', rfl, (Host.Outcome.next.inj h).symm⟩
  | .error (.trap i), h => exact .inr (.inl ⟨i, rfl, (Host.Outcome.next.inj h).symm⟩)
  | .error (.trapIn s' i), h => exact .inr (.inr (.inl ⟨s', i, rfl, (Host.Outcome.next.inj h).symm⟩))
  | .error (.wait w), h => exact .inr (.inr (.inr (.inl ⟨w, rfl, (Host.Outcome.next.inj h).symm⟩)))
  | .error (.waitIn s' w), h => exact .inr (.inr (.inr (.inr ⟨s', w, rfl, (Host.Outcome.next.inj h).symm⟩)))
  | .error (.fault f), h => exact nomatch h

/-! ## The bodies' steps -/

@[simp] theorem refuseIf_false (c : Cause) : refuseIf false c = .ok () := rfl
@[simp] theorem refuseIf_true (c : Cause) : refuseIf true c = .error (.trap ⟨c, 0, 0⟩) := rfl
@[simp] theorem refuseIfD_false (c : Cause) (d : Nat) : refuseIfD false c d = .ok () := rfl
@[simp] theorem refuseIfD_true (c : Cause) (d : Nat) : refuseIfD true c d = .error (.trap ⟨c, 0, d⟩) := rfl
@[simp] theorem waitIf_false (w : Wait) : waitIf false w = .ok () := rfl
@[simp] theorem waitIf_true (w : Wait) : waitIf true w = .error (.wait w) := rfl

/-- A body in two parts that goes on: both parts did. -/
theorem Res.bind_ok {α β : Type} {r : Res α} {f : α → Res β} {b : β} (h : (r >>= f) = .ok b) : ∃ a, r = .ok a ∧ f a = .ok b := by
  cases r with
  | ok a => exact ⟨a, rfl, h⟩
  | error e => exact nomatch h

/-- A body in two parts that stops: the first stopped, or it went on and the second stopped. -/
theorem Res.bind_error {α β : Type} {r : Res α} {f : α → Res β} {e : Stop} (h : (r >>= f) = .error e) :
    r = .error e ∨ ∃ a, r = .ok a ∧ f a = .error e := by
  cases r with
  | ok a => exact .inr ⟨a, rfl, h⟩
  | error x => exact .inl (congrArg Except.error (Except.error.inj h))

/-! ## The focus -/

@[simp] theorem State.sync_mem (s : State) : s.sync.mem = s.mem := rfl
@[simp] theorem State.sync_thr (s : State) : s.sync.thr = s.thr := rfl
@[simp] theorem State.sync_reports (s : State) : s.sync.reports = s.reports := rfl
@[simp] theorem State.sync_keySlots (s : State) : s.sync.keySlots = s.keySlots := rfl
@[simp] theorem State.sync_agenda (s : State) : s.sync.agenda = s.agenda := rfl
@[simp] theorem State.load_mem (s : State) (t : Tid) : (s.load t).mem = s.mem := rfl
@[simp] theorem State.load_ctxs (s : State) (t : Tid) : (s.load t).ctxs = s.ctxs := rfl
@[simp] theorem State.load_reports (s : State) (t : Tid) : (s.load t).reports = s.reports := rfl
@[simp] theorem State.load_keySlots (s : State) (t : Tid) : (s.load t).keySlots = s.keySlots := rfl
@[simp] theorem State.load_agenda (s : State) (t : Tid) : (s.load t).agenda = s.agenda := rfl
@[simp] theorem State.focus_mem (s : State) (t : Tid) : (s.focus t).mem = s.mem := by unfold State.focus; split <;> rfl
@[simp] theorem State.focus_reports (s : State) (t : Tid) : (s.focus t).reports = s.reports := by unfold State.focus; split <;> rfl
@[simp] theorem State.focus_keySlots (s : State) (t : Tid) : (s.focus t).keySlots = s.keySlots := by unfold State.focus; split <;> rfl
@[simp] theorem State.focus_agenda (s : State) (t : Tid) : (s.focus t).agenda = s.agenda := by unfold State.focus; split <;> rfl

/-- A thread that is in focus stays in focus. -/
@[simp] theorem State.focus_tid (s : State) : s.focus s.tid = s := by simp [State.focus]

/-! ## Containment (R394) -/

@[simp] theorem State.onCtx_mem (s : State) (c : Nat) (f : Ctx → Ctx) : (s.onCtx c f).mem = s.mem := by
  unfold State.onCtx; split <;> rfl
@[simp] theorem State.onCtx_reports (s : State) (c : Nat) (f : Ctx → Ctx) : (s.onCtx c f).reports = s.reports := by
  unfold State.onCtx; split <;> rfl
@[simp] theorem State.onCtx_keySlots (s : State) (c : Nat) (f : Ctx → Ctx) : (s.onCtx c f).keySlots = s.keySlots := by
  unfold State.onCtx; split <;> rfl

/-- A change of one context leaves every other. -/
theorem State.onCtx_ctxs_ne (s : State) (c k : Nat) (f : Ctx → Ctx) (h : k ≠ c) : SMap.find (s.onCtx c f).ctxs k = SMap.find s.ctxs k := by
  unfold State.onCtx
  split
  · rfl
  · exact SMap.find_put_ne _ _ _ _ h

@[simp] theorem State.kill_mem (s : State) (c : Nat) (r : Report) : (s.kill c r).mem = s.mem := by
  simp [State.kill]
@[simp] theorem State.kill_keySlots (s : State) (c : Nat) (r : Report) : (s.kill c r).keySlots = s.keySlots := by
  simp [State.kill, State.report]
@[simp] theorem State.kill_reports (s : State) (c : Nat) (r : Report) : (s.kill c r).reports = s.reports ++ [{ r with disp := 2 }] := by
  simp [State.kill]

/-! ## Memory under writes of the hardware (R29, R372, R398) -/

theorem State.rekeyWord_wf {s : State} (k : Option (BitVec 512)) (n : Nat) (h : s.mem.wf) : (s.rekeyWord k n).mem.wf := by
  unfold State.rekeyWord
  split
  · exact h
  · exact Memory.wf_writeN _ _ _ h
  · exact Memory.wf_writeN _ _ _ h

theorem State.rekey_wf {s : State} (b n : Nat) (h : s.mem.wf) : (s.rekey b n).mem.wf := by
  unfold State.rekey
  generalize s.keyAt (slotOfBus b) = k
  generalize List.map _ _ = ws
  induction ws generalizing s with
  | nil => exact h
  | cons w ws ih => exact ih (State.rekeyWord_wf _ _ h)

/-- A write in a slice writes its bytes. -/
theorem State.writePhys_mem {s : State} {b : Nat} (hb : b < 0x80000000000) (bs : List Byte) :
    (s.writePhys b bs).mem = Memory.writeN s.mem b bs := by
  unfold State.writePhys; rw [if_pos hb]; simp only; split <;> rfl
theorem State.writePhys_wf {s : State} (b : Nat) (bs : List Byte) (h : s.mem.wf) : (s.writePhys b bs).mem.wf := by
  by_cases hb : b < 0x80000000000
  · rw [State.writePhys_mem hb]; exact Memory.wf_writeN bs _ _ h
  · unfold State.writePhys; rw [if_neg hb]; exact Memory.wf_writeN bs _ _ (State.rekey_wf _ _ h)

theorem State.markLeaf_wf {s : State} (va : Nat) (w : Bool) (h : s.mem.wf) : (s.markLeaf va w).mem.wf := by
  unfold State.markLeaf
  split
  · exact h
  · split
    · exact Memory.wf_writeN _ _ _ h
    · exact h

theorem State.hwWrite_wf {s : State} (va : Nat) (bs : List Byte) (h : s.mem.wf) : (s.hwWrite va bs).mem.wf := by
  unfold State.hwWrite
  split
  · rename_i as _
    have : ∀ (xs : List (Nat × Byte)) (s : State), s.mem.wf → (xs.foldl (fun s x => s.writePhys x.1 [x.2]) s).mem.wf := by
      intro xs
      induction xs with
      | nil => intro s h; exact h
      | cons x xs ih => intro s h; exact ih _ (State.writePhys_wf _ _ h)
    exact this _ _ (State.markLeaf_wf _ _ h)
  · exact h

/-! ## Deques (R328) -/

@[simp] theorem State.onVc_mem (s : State) (v : Nat) (f : VCore → VCore) : (s.onVc v f).mem = s.mem := by
  unfold State.onVc; split
  · rfl
  · split <;> rfl

@[simp] theorem State.countAt_mem (s : State) (core k a b : Nat) : (s.countAt core k a b).mem = s.mem := by
  unfold State.countAt; split <;> rfl
@[simp] theorem State.servedAt_mem (s : State) (st : Bool) (b : Nat) : (s.servedAt st b).mem = s.mem := by
  unfold State.servedAt; split
  · simp only; split <;> simp
  · rfl

/-- Counting messages changes no memory (R25). -/
@[simp] theorem State.busTraffic_mem (s : State) (phys : Nat) (st : Bool) (bs : List Nat) : (s.busTraffic phys st bs).mem = s.mem := by
  have fold : ∀ (xs : List Nat) (s : State), (xs.foldl (fun s b => s.servedAt st b) s).mem = s.mem := by
    intro xs
    induction xs with
    | nil => intro s; rfl
    | cons x xs ih => intro s; rw [List.foldl_cons, ih, State.servedAt_mem]
  unfold State.busTraffic
  simp only
  split
  · rfl
  · split <;> simp [fold]
@[simp] theorem State.hwTraffic_mem (s : State) (phys : Nat) (st : Bool) (va : Nat) : (s.hwTraffic phys st va).mem = s.mem := by
  unfold State.hwTraffic; split <;> simp

/-- A change made to each of a list of things keeps memory canonical when each change does. -/
theorem State.foldl_wf {α : Type} {f : State → α → State} (hf : ∀ (s : State) x, s.mem.wf → (f s x).mem.wf) (xs : List α) :
    ∀ {s : State}, s.mem.wf → (xs.foldl f s).mem.wf := by
  induction xs with
  | nil => intro s h; exact h
  | cons x xs ih => intro s h; exact ih (hf s x h)

theorem State.changeDeque_wf {s : State} (v : Nat) (f : VCore → VCore) (h : s.mem.wf) : (s.changeDeque v f).mem.wf := by
  unfold State.changeDeque
  split
  · exact h
  · rename_i x _
    unfold State.writeSpills
    split
    · simpa using h
    · exact State.foldl_wf (fun s r h => State.hwWrite_wf _ _ (by simpa using h)) _
        (State.foldl_wf (fun s r h => State.markLeaf_wf _ _ (by simpa using h)) _ (by simpa using h))

theorem State.enqueue_wf {s : State} (v launch domain : Nat) (ts : List TaskRec) (h : s.mem.wf) : (s.enqueue v launch domain ts).mem.wf :=
  State.changeDeque_wf _ _ h

/-! ## Traps (R376 to R378) -/

@[simp] theorem State.passOver_mem (n : Nat) (s : State) : (s.passOver n).mem = s.mem := by
  induction n generalizing s with
  | zero => rfl
  | succ n ih =>
    unfold State.passOver
    split
    · split
      · rw [ih]; rfl
      · rfl
    · rfl
@[simp] theorem State.dropTile_mem (s : State) (n : Nat) : (s.dropTile n).mem = s.mem := by unfold State.dropTile; split <;> rfl
@[simp] theorem State.dropJobs_mem (s : State) : s.dropJobs.mem = s.mem := by simp [State.dropJobs]
@[simp] theorem State.atTrap_mem (s : State) (e : Bool) : (s.atTrap e).mem = s.mem := by unfold State.atTrap; split <;> simp
@[simp] theorem State.containShared_mem (s : State) (i : TrapInfo) : (s.containShared i).mem = s.mem := by
  unfold State.containShared
  have : ∀ (xs : SMap Ctx) (d : Nat) (s : State),
      (xs.foldl (fun s x => s.kill x.1 (reportOf .containment 2 x.1 0xFFFF 0 d s.now)) s).mem = s.mem := by
    intro xs d
    induction xs with
    | nil => intro s; rfl
    | cons x xs ih => intro s; rw [List.foldl_cons, ih, State.kill_mem]
  exact this _ _ _
theorem State.replayFiring_wf {s : State} (r : Report) (h : s.mem.wf) : (s.replayFiring r).mem.wf := State.enqueue_wf _ _ _ _ h

/-- Everything that a trap can do: park the thread with a report, enter handler mode, contain the context, or replay the firing. -/
theorem State.takeTrap_cases (s : State) (estream : Bool) (i : TrapInfo) (next : Option W64) :
    let u := s.atTrap estream
    let r := fun d => u.trapReport estream (next.getD (if estream then u.thr.ePos else u.thr.apc)) i d
    s.takeTrap estream i next = State.report (u.updThr fun t => { t with status := .parked (r 1), waitA := .none, waitE := .none }) (r 1) ∨
    s.takeTrap estream i next = u.updThr (fun t => t.enter u.ctx.trapvec estream (u.instOf estream) i) ∨
    s.takeTrap estream i next = u.kill u.ctx.id (r 2) ∨
    s.takeTrap estream i next = (u.kill u.ctx.id (r 2)).containShared i ∨
    (s.takeTrap estream i next = u.replayFiring (r 1) ∧ u.replayable i.cause = true) := by
  intro u r
  unfold State.takeTrap
  simp only
  split
  · exact .inl rfl
  · split
    · exact .inr (.inr (.inl rfl))
    · exact .inr (.inl rfl)
  · split
    · exact .inr (.inr (.inl rfl))
    · exact .inr (.inl rfl)
  · split
    · rename_i h; exact .inr (.inr (.inr (.inr ⟨rfl, h⟩)))
    · exact .inr (.inr (.inr (.inl rfl)))

/-- A trap changes memory only where it replays a firing, whose records may reach the spill area. -/
theorem State.takeTrap_mem {s : State} {estream : Bool} {i : TrapInfo} {next : Option W64} (h : (s.atTrap estream).replayable i.cause = false) :
    (s.takeTrap estream i next).mem = s.mem := by
  rcases State.takeTrap_cases s estream i next with e | e | e | e | ⟨e, h1⟩
  · rw [e]; simp
  · rw [e]; simp
  · rw [e]; simp
  · rw [e]; simp
  · rw [h] at h1; exact nomatch h1
theorem State.takeTrap_wf {s : State} {estream : Bool} {i : TrapInfo} {next : Option W64} (h : s.mem.wf) : (s.takeTrap estream i next).mem.wf := by
  rcases State.takeTrap_cases s estream i next with e | e | e | e | ⟨e, _⟩ <;> rw [e]
  · simpa using h
  · simpa using h
  · simpa using h
  · simpa using h
  · exact State.replayFiring_wf _ (by simpa using h)

theorem State.trapFrom_wf {s s' : State} (i : TrapInfo) (h : s.mem.wf) (h' : s'.mem.wf) : (s.trapFrom s' i).mem.wf := by
  unfold State.trapFrom
  split
  · exact h
  · split
    · exact State.takeTrap_wf h'
    · exact h

/-- A thread that is not stepped, or that no longer runs, is left as it is; the others park with memory as it was. -/
@[simp] theorem State.stepPark_mem (s : State) (e : Bool) : (s.stepPark e).mem = s.mem := by
  unfold State.stepPark
  split
  · exact State.takeTrap_mem rfl
  · rfl
@[simp] theorem State.retireTo_mem (s : State) (pos : W64) : (s.retireTo pos).mem = s.mem := by
  simp [State.retireTo]

/-- A thread that is not stepped goes on after its instruction. -/
theorem State.stepPark_off {s : State} (e : Bool) (h : s.thr.singleStep = false) : s.stepPark e = s := by simp [State.stepPark, h]

/-- An A-stream trap behind no older E-stream instruction is taken. -/
theorem State.trapFrom_empty {s : State} (s' : State) (i : TrapInfo) (h : s.thr.ePath = []) (h1 : s.thr.waitA.settled = false) :
    s.trapFrom s' i = s'.takeTrap false i := by simp [State.trapFrom, h, h1]
theorem State.trapA_empty {s : State} (i : TrapInfo) (h : s.thr.ePath = []) (h1 : s.thr.waitA.settled = false) :
    s.trapA i = s.takeTrap false i := State.trapFrom_empty s i h h1

/-! ## Memory in canonical form -/

/-- A stop leaves memory canonical. -/
def Stop.keeps : Stop → Prop
  | .trapIn s _ => s.mem.wf
  | .waitIn s _ => s.mem.wf
  | _ => True

/-- A body leaves memory canonical, however it ends. -/
def Res.keeps : Res State → Prop
  | .ok s => s.mem.wf
  | .error e => e.keeps

/-- A body that leaves memory canonical makes an A-stream instruction that does. -/
theorem finishA_keeps {len : Nat} {s u : State} {r : Res State} (hs : s.mem.wf) (hr : Res.keeps r) (h : finishA len s r = .next u) :
    u.mem.wf := by
  match r, hr, h with
  | .ok s', hr, h => rw [← Host.Outcome.next.inj h, State.retireTo_mem]; exact hr
  | .error (.trap i), _, h => rw [← Host.Outcome.next.inj h]; exact State.trapFrom_wf i hs hs
  | .error (.trapIn s' i), hr, h => rw [← Host.Outcome.next.inj h]; exact State.trapFrom_wf i hs hr
  | .error (.wait w), _, h => rw [← Host.Outcome.next.inj h]; split <;> exact hs
  | .error (.waitIn s' w), hr, h => rw [← Host.Outcome.next.inj h]; exact hr
  | .error (.fault f), _, h => exact nomatch h

/-- The same of an E-stream instruction. -/
theorem finishE_keeps {len : Nat} {s u : State} {r : Res State} (hs : s.mem.wf) (hr : Res.keeps r) (h : finishE len s r = .next u) :
    u.mem.wf := by
  rcases finishE_cases h with ⟨s', rfl, rfl⟩ | ⟨i, rfl, rfl⟩ | ⟨s', i, rfl, rfl⟩ | ⟨w, rfl, rfl⟩ | ⟨s', w, rfl, rfl⟩
  · rw [State.stepPark_mem]; exact hr
  · exact State.takeTrap_wf hs
  · exact State.takeTrap_wf hr
  · exact hs
  · exact hr

end Sys2Proof.Machine
end

