-- ==== Sys2Proof/Laws/Access.lean ====
section
/-! SUPPORT. What writing memory, performing stores, draining and message counts can do. -/

namespace Sys2Proof.Machine

/-! ## Writing physical memory -/

theorem State.rekeyWord_cases (s : State) (k : Option (BitVec 512)) (n : Nat) : ∃ m y, s.rekeyWord k n = { s with mem := m, keyed := y } := by
  unfold State.rekeyWord
  split
  · exact ⟨s.mem, s.keyed, rfl⟩
  · exact ⟨_, _, rfl⟩
  · exact ⟨_, _, rfl⟩

/-- Bringing words under a key changes memory and the words' keys alone. -/
theorem State.rekey_cases (s : State) (b n : Nat) : ∃ m k, s.rekey b n = { s with mem := m, keyed := k } := by
  unfold State.rekey
  generalize s.keyAt (slotOfBus b) = key
  generalize List.map _ _ = ws
  induction ws generalizing s with
  | nil => exact ⟨s.mem, s.keyed, rfl⟩
  | cons w ws ih =>
    obtain ⟨m, k, e⟩ := s.rekeyWord_cases key w
    obtain ⟨m', k', e'⟩ := ih (State.rekeyWord key s w)
    exact ⟨m', k', by rw [List.foldl_cons, e', e]⟩

/-- Everything that a write can change: memory, the keys of its words, and the dead pages of the cores. -/
theorem State.writePhys_cases (s : State) (b : Nat) (bs : List Byte) :
    ∃ m k v c, s.writePhys b bs = { s with mem := m, keyed := k, vc := { s.vc with dead := v }, ctx := { s.ctx with vcores := c } } := by
  unfold State.writePhys
  split
  · simp only
    split
    · refine ⟨Memory.writeN s.mem b bs, s.keyed, (s.vc.undead b bs.length).dead, (s.ctx.mapVcs fun v => v.undead b bs.length).vcores, ?_⟩
      have : s.vc.undead b bs.length = { s.vc with dead := (s.vc.undead b bs.length).dead } := by unfold VCore.undead; split <;> rfl
      rw [← this]; rfl
    · exact ⟨Memory.writeN s.mem b bs, s.keyed, s.vc.dead, s.ctx.vcores, rfl⟩
  · obtain ⟨m, k, e⟩ := State.rekey_cases s b bs.length
    exact ⟨Memory.writeN m (paOf b) bs, k, s.vc.dead, s.ctx.vcores, by simp only [e]⟩

@[simp] theorem State.writePhys_thr (s : State) (b : Nat) (bs : List Byte) : (s.writePhys b bs).thr = s.thr := by
  obtain ⟨_, _, _, _, e⟩ := s.writePhys_cases b bs; rw [e]
@[simp] theorem State.writePhys_cores (s : State) (b : Nat) (bs : List Byte) : (s.writePhys b bs).cores = s.cores := by
  obtain ⟨_, _, _, _, e⟩ := s.writePhys_cases b bs; rw [e]
@[simp] theorem State.writePhys_ctxs (s : State) (b : Nat) (bs : List Byte) : (s.writePhys b bs).ctxs = s.ctxs := by
  obtain ⟨_, _, _, _, e⟩ := s.writePhys_cases b bs; rw [e]
@[simp] theorem State.writePhys_reports (s : State) (b : Nat) (bs : List Byte) : (s.writePhys b bs).reports = s.reports := by
  obtain ⟨_, _, _, _, e⟩ := s.writePhys_cases b bs; rw [e]
@[simp] theorem State.writePhys_keySlots (s : State) (b : Nat) (bs : List Byte) : (s.writePhys b bs).keySlots = s.keySlots := by
  obtain ⟨_, _, _, _, e⟩ := s.writePhys_cases b bs; rw [e]
@[simp] theorem State.writePhys_cxlDown (s : State) (b : Nat) (bs : List Byte) : (s.writePhys b bs).cxlDown = s.cxlDown := by
  obtain ⟨_, _, _, _, e⟩ := s.writePhys_cases b bs; rw [e]

/-- What reading a byte of memory gives after a write in a slice. -/
theorem State.writePhys_read {s : State} {b : Nat} (hb : b < 0x80000000000) (a : Nat) (bs : List Byte) (h : s.mem.wf) :
    (s.writePhys b bs).mem.read a = if b ≤ a ∧ a < b + bs.length then bs[a - b]?.getD 0 else s.mem.read a := by
  rw [State.writePhys_mem hb]
  split
  · rename_i hx
    obtain ⟨k, rfl⟩ := Nat.exists_eq_add_of_le hx.1
    rw [Memory.read_writeN_inside bs _ _ _ h (by omega)]; simp
  · exact Memory.read_writeN_outside bs _ _ _ (by omega)

/-! ## Performing stores (R252) -/

/-- A store is performed in memory, or its failure is kept. -/
theorem State.performStore_cases (s : State) (p : PStore) :
    (s.linkFails p.pa = none ∧ s.performStore p = s.writePhys p.pa p.bytes) ∨
    (∃ c d, s.linkFails p.pa = some (c, d) ∧
      s.performStore p = s.updThr fun t => { t with storeErr := t.storeErr ++ [p.late c d] }) := by
  unfold State.performStore
  split
  · rename_i c d h; exact .inr ⟨c, d, h, rfl⟩
  · rename_i h; exact .inl ⟨h, rfl⟩

theorem State.performStore_wf {s : State} (p : PStore) (h : s.mem.wf) : (s.performStore p).mem.wf := by
  rcases State.performStore_cases s p with ⟨_, e⟩ | ⟨c, d, _, e⟩ <;> rw [e]
  · exact State.writePhys_wf _ _ h
  · exact h

@[simp] theorem State.performStore_reports (s : State) (p : PStore) : (s.performStore p).reports = s.reports := by
  rcases State.performStore_cases s p with ⟨_, e⟩ | ⟨c, d, _, e⟩ <;> rw [e] <;> simp

theorem State.performStores_wf (ps : List PStore) : ∀ {s : State}, s.mem.wf → (ps.foldl State.performStore s).mem.wf := by
  induction ps with
  | nil => intro s h; exact h
  | cons p ps ih => intro s h; exact ih (State.performStore_wf p h)

/-- Performing a thread's stores keeps memory canonical. -/
theorem State.flush_wf {s : State} (h : s.mem.wf) : s.flush.mem.wf := State.performStores_wf _ h

/-- A thread with no store has nothing to perform. -/
theorem State.flush_none {s : State} (h : s.thr.stores = []) : s.flush = s := by
  unfold State.flush; rw [h]
  show s.updThr (fun t => { t with stores := [] }) = s
  have : ({ s.thr with stores := [] } : Thread) = s.thr := by rw [← h]
  simp [State.updThr, this]

/-- Everything that the wait for the replay queue can come to (R141, R145). -/
theorem State.drained_cases (s : State) :
    s.drained = .ok s.flush ∨ s.drained = .error (.wait .other) ∨
    (∃ t e, s.drained = .error (.trapIn (s.flush.updThr t) e)) := by
  unfold State.drained
  simp only
  split
  · exact .inr (.inr ⟨_, _, rfl⟩)
  · exact .inr (.inr ⟨_, _, rfl⟩)
  · split
    · exact .inl rfl
    · exact .inr (.inl rfl)

/-- Everything that the wait for every earlier access can come to (R142, R257). -/
theorem State.drain_cases (s : State) :
    s.drain = .ok s.flush ∨ s.drain = .error (.wait .other) ∨
    (∃ t e, s.drain = .error (.trapIn (s.flush.updThr t) e)) := by
  by_cases hp : (s.thr.ePath.any fun a => isEmuMem (s.einstAt a)) = true
  · exact .inr (.inl (by unfold State.drain State.pathWait waitIf; rw [if_pos hp]; rfl))
  · have : s.drain = s.drained := by unfold State.drain State.pathWait waitIf; rw [if_neg hp]; rfl
    rw [this]; exact s.drained_cases

theorem State.drain_keeps {s : State} (h : s.mem.wf) : Res.keeps s.drain := by
  rcases State.drain_cases s with e | e | ⟨t, i, e⟩ <;> rw [e]
  · exact State.flush_wf h
  · trivial
  · exact State.flush_wf h

/-- A thread with nothing to perform, nothing parked and nothing on its E-stream's path goes on at once. -/
theorem State.drain_idle {s : State} (h : s.thr.stores = []) (h1 : s.thr.storeErr = []) (h2 : s.thr.replay = []) (h3 : s.thr.ePath = []) :
    s.drain = .ok s := by
  unfold State.drain State.pathWait waitIf
  rw [h3]
  show s.drained = .ok s
  simp [State.drained, State.flush_none h, h1, h2, takeFailed]

/-! ## Leaves, messages, stores that leave a thread -/

/-- Counting messages changes the cores' counters alone. -/
theorem State.countAt_cases (s : State) (core k sent recv : Nat) : ∃ c, s.countAt core k sent recv = { s with cores := c } := by
  unfold State.countAt; split
  · exact ⟨_, rfl⟩
  · exact ⟨s.cores, rfl⟩
theorem State.servedAt_cases (s : State) (st : Bool) (b : Nat) : ∃ c, s.servedAt st b = { s with cores := c } := by
  unfold State.servedAt
  split
  · obtain ⟨c1, e1⟩ := s.countAt_cases (b / 0x400000) 0 0 1
    obtain ⟨c2, e2⟩ := (s.countAt (b / 0x400000) 0 0 1).countAt_cases (b / 0x400000) 2 1 0
    obtain ⟨c3, e3⟩ := ((s.countAt (b / 0x400000) 0 0 1).countAt (b / 0x400000) 2 1 0).countAt_cases (b / 0x400000) 1 0 1
    simp only
    split
    · exact ⟨c3, by rw [e3, e2, e1]⟩
    · exact ⟨c2, by rw [e2, e1]⟩
  · exact ⟨s.cores, rfl⟩

/-- The messages of accesses at bus addresses change the cores' counters alone (R25). -/
theorem State.busTraffic_cases (s : State) (phys : Nat) (st : Bool) (bs : List Nat) : ∃ c, s.busTraffic phys st bs = { s with cores := c } := by
  have fold : ∀ (xs : List Nat) (s : State), ∃ c, xs.foldl (fun s b => s.servedAt st b) s = { s with cores := c } := by
    intro xs
    induction xs with
    | nil => intro s; exact ⟨s.cores, rfl⟩
    | cons x xs ih =>
      intro s
      obtain ⟨c1, e1⟩ := s.servedAt_cases st x
      obtain ⟨c2, e2⟩ := ih (s.servedAt st x)
      exact ⟨c2, by rw [List.foldl_cons, e2, e1]⟩
  unfold State.busTraffic
  simp only
  split
  · exact ⟨s.cores, rfl⟩
  · generalize bs.filter (remoteBus phys) = far
    obtain ⟨c1, e1⟩ := fold far s
    rw [e1]
    obtain ⟨c2, e2⟩ := State.countAt_cases { s with cores := c1 } phys 0 far.length 0
    rw [e2]
    obtain ⟨c3, e3⟩ := State.countAt_cases { s with cores := c2 } phys 2 0 far.length
    rw [e3]
    obtain ⟨c4, e4⟩ := State.countAt_cases { s with cores := c3 } phys 1 far.length 0
    rw [e4]
    split
    · exact ⟨c4, rfl⟩
    · exact ⟨c3, rfl⟩

/-- The messages of accesses change the cores' counters alone (R25). -/
theorem State.traffic_cases (s : State) (st : Bool) (ts : List Target) : ∃ c, s.traffic st ts = { s with cores := c } :=
  s.busTraffic_cases _ _ _

@[simp] theorem State.traffic_mem (s : State) (st : Bool) (ts : List Target) : (s.traffic st ts).mem = s.mem := by
  obtain ⟨_, e⟩ := s.traffic_cases st ts; rw [e]
@[simp] theorem State.traffic_thr (s : State) (st : Bool) (ts : List Target) : (s.traffic st ts).thr = s.thr := by
  obtain ⟨_, e⟩ := s.traffic_cases st ts; rw [e]
@[simp] theorem State.traffic_ctx (s : State) (st : Bool) (ts : List Target) : (s.traffic st ts).ctx = s.ctx := by
  obtain ⟨_, e⟩ := s.traffic_cases st ts; rw [e]
@[simp] theorem State.traffic_vc (s : State) (st : Bool) (ts : List Target) : (s.traffic st ts).vc = s.vc := by
  obtain ⟨_, e⟩ := s.traffic_cases st ts; rw [e]

/-- Accesses of the core's own slice send no message. -/
theorem State.traffic_local {s : State} (st : Bool) {ts : List Target} (h : ∀ t ∈ ts, ∀ b, t.bus = some b → remoteBus s.vc.phys b = false) :
    s.traffic st ts = s := by
  unfold State.traffic State.trafficOf State.busTraffic
  have : (ts.filterMap Target.bus).filter (remoteBus s.vc.phys) = [] := by
    rw [List.filter_eq_nil_iff]; intro b hb
    obtain ⟨t, ht, e⟩ := List.mem_filterMap.mp hb
    rw [h t ht b e]; simp
  simp [this]

theorem State.parkStore_mem {s s' : State} {p : Parked} (h : s.parkStore p = .ok s') : s'.mem = s.mem := by
  unfold State.parkStore at h
  split at h
  · exact nomatch h
  · rw [← Except.ok.inj h]; rfl

/-- A store instruction changes no memory: its stores leave the thread or are parked (R144, R145). -/
theorem State.storeGroup_mem {s s' : State} {ag : Agent} {xs : List (Access × List Byte)} (h : s.storeGroup ag xs = .ok s') :
    s'.mem = s.mem := by
  unfold State.storeGroup at h
  split at h
  · exact State.parkStore_mem h
  · obtain ⟨slots, _, h⟩ := Res.bind_ok h
    split at h
    · exact State.parkStore_mem h
    · rw [← Except.ok.inj h, State.traffic_mem]; rfl

theorem State.writeNow_keeps {s : State} (va pa : Nat) (bs : List Byte) (h : s.mem.wf) : Res.keeps (s.writeNow va pa bs) := by
  unfold State.writeNow
  split
  · trivial
  · exact State.writePhys_wf _ _ h

end Sys2Proof.Machine
end

