-- ==== Sys2Proof/Laws/Links.lean ====
section
/-! SUPPORT. What a write of a register and its settle can do: other registers than the destination and the destinations of links, and every
other field of the thread, are as they were. -/

namespace Sys2Proof.Machine

/-- Two threads that differ in their s-registers only. -/
def Thread.sameButS (t t' : Thread) : Prop := t' = { t with s := t'.s }

theorem Thread.sameButS.refl (t : Thread) : t.sameButS t := rfl

theorem Thread.sameButS.trans {a b c : Thread} (h : a.sameButS b) (h1 : b.sameButS c) : a.sameButS c := by
  unfold Thread.sameButS at *; rw [h1, h]

theorem Thread.setS_sameButS (t : Thread) (n : Nat) (x : W64) : t.sameButS (t.setS n x) := by
  unfold Thread.sameButS Thread.setS; split <;> rfl

/-- A settle writes destinations of its links only. -/
theorem settleLoopA_frame (ls : List (Nat × Link)) : ∀ (t t' : Thread) (w : List Nat), settleLoopA ls t w = .ok t' →
    t.sameButS t' ∧ ∀ n, (∀ e ∈ ls, n ≠ e.2.d) → t'.getS n = t.getS n := by
  induction ls with
  | nil => intro t t' w h; obtain rfl := Except.ok.inj h; exact ⟨rfl, fun _ _ => rfl⟩
  | cons e rest ih =>
    intro t t' w h
    obtain ⟨slot, l⟩ := e
    simp only [settleLoopA] at h
    split at h
    · obtain ⟨a, b⟩ := ih _ _ _ h
      exact ⟨a, fun n hn => b n fun e he => hn e (List.mem_cons_of_mem _ he)⟩
    · split at h
      · exact nomatch h
      · obtain ⟨a, b⟩ := ih _ _ _ h
        refine ⟨(Thread.setS_sameButS t _ _).trans a, fun n hn => ?_⟩
        rw [b n fun e he => hn e (List.mem_cons_of_mem _ he)]
        exact Thread.getS_setS_ne _ _ _ _ (hn _ List.mem_cons_self)

/-- The settle's order holds links of the graph only. -/
theorem nextLink_mem {rem : List (Nat × Link)} {y : Nat × Link} (h : nextLink rem = some y) : y ∈ rem := by
  unfold nextLink at h
  exact List.mem_of_find?_eq_some h

theorem topoOrder_mem : ∀ (n : Nat) (rem : List (Nat × Link)), ∀ e ∈ topoOrder n rem, e ∈ rem := by
  intro n
  induction n with
  | zero => intro rem e he; exact nomatch he
  | succ n ih =>
    intro rem e he
    simp only [topoOrder] at he
    split at he
    · exact nomatch he
    · rename_i y hy
      rcases List.mem_cons.1 he with rfl | he
      · exact nextLink_mem hy
      · exact (List.mem_filter.1 (ih _ _ he)).1

/-- The frame of a register write with its settle (R129, R161). -/
theorem Thread.writeS_frame {t t' : Thread} {d : Nat} {x : W64} (h : t.writeS d x = .ok t') :
    t.sameButS t' ∧ ∀ n, n ≠ d → (∀ e ∈ t.links false, n ≠ e.2.d) → t'.getS n = t.getS n := by
  unfold Thread.writeS at h
  split at h
  · obtain rfl := Except.ok.inj h; exact ⟨rfl, fun _ _ _ => rfl⟩
  · have hl : (t.setS d x).links false = t.links false := by
      unfold Thread.links Thread.getL; simp
    unfold Thread.settleA at h
    simp only [hl] at h
    split at h
    · obtain rfl := Except.ok.inj h
      exact ⟨Thread.setS_sameButS _ _ _, fun n hn _ => Thread.getS_setS_ne _ _ _ _ hn⟩
    · obtain ⟨a, b⟩ := settleLoopA_frame _ _ _ _ h
      refine ⟨(Thread.setS_sameButS _ _ _).trans a, fun n hn hl' => ?_⟩
      rw [b n fun e he => hl' e (topoOrder_mem _ _ e he)]
      exact Thread.getS_setS_ne _ _ _ _ hn

/-- An instruction that writes one scalar register (R129): BOUND_WRITE, or the write and its settle, or the settle's fault. -/
theorem scalarOp_cases (d : Nat) (x : State → W64) (s : State) :
    (∃ e, s.thr.checkDest d = .error e ∧ scalarOp d x s = .error e) ∨
    (s.thr.checkDest d = .ok () ∧ ∃ t, s.thr.writeS d (x s) = .ok t ∧ scalarOp d x s = .ok (s.setThr t)) ∨
    (s.thr.checkDest d = .ok () ∧ ∃ e, s.thr.writeS d (x s) = .error e ∧ scalarOp d x s = .error e) := by
  unfold scalarOp State.writeS
  cases hc : s.thr.checkDest d with
  | error e => exact .inl ⟨e, rfl, rfl⟩
  | ok u =>
    cases hw : s.thr.writeS d (x s) with
    | ok t => exact .inr (.inl ⟨rfl, t, rfl, rfl⟩)
    | error e => exact .inr (.inr ⟨rfl, e, rfl, rfl⟩)

end Sys2Proof.Machine
end

