-- ==== Sys2Proof/Laws/PerInstr.lean ====
section
/-! SUPPORT. The family RoundTrip, one lemma per constructor: decoding the words of an instruction that the encoding can carry gives it
back. -/

namespace Sys2Proof

set_option Elab.async false

/-! ## Fields read back from the words -/

theorem lenOf_word0 (len st op fn d a b : Nat) (h : len < 4) : lenOf (word0 len st op fn d a b) = len := by
  unfold lenOf word0; omega

theorem stOf_word0 (len st op fn d a b : Nat) (h : len < 4) (h1 : st < 2) : stOf (word0 len st op fn d a b) = st := by
  unfold stOf word0; omega

theorem opOf_word0 (len st op fn d a b : Nat) (h : len < 4) (h1 : st < 2) (h2 : op < 128) :
    opOf (word0 len st op fn d a b) = op := by
  unfold opOf word0; omega

theorem fnOf_word0 (len st op fn d a b : Nat) (h : len < 4) (h1 : st < 2) (h2 : op < 128) (h3 : fn < 16) :
    fnOf (word0 len st op fn d a b) = fn := by
  unfold fnOf word0; omega

/-- The bounds of the fields of word 0 that an encoding fixes. -/
def headOk (len st op fn : Nat) : Prop := len < 4 ∧ st < 2 ∧ op < 128 ∧ fn < 16

theorem dOf_word0 {len st op fn : Nat} (d a b : Nat) (h : headOk len st op fn) (hd : d < 64) :
    word0 len st op fn d a b / 16384 % 64 = d := by
  obtain ⟨h0, h1, h2, h3⟩ := h; unfold word0; omega

theorem aOf_word0 {len st op fn : Nat} (d a b : Nat) (h : headOk len st op fn) (hd : d < 64) (ha : a < 64) :
    word0 len st op fn d a b / 1048576 % 64 = a := by
  obtain ⟨h0, h1, h2, h3⟩ := h; unfold word0; omega

theorem bOf_word0 {len st op fn : Nat} (d a b : Nat) (h : headOk len st op fn) (hd : d < 64) (ha : a < 64) (hb : b < 64) :
    word0 len st op fn d a b / 67108864 % 64 = b := by
  obtain ⟨h0, h1, h2, h3⟩ := h; unfold word0; omega

theorem rFields_back {len st op fn : Nat} (r : RArgs) (h : headOk len st op fn) (hr : r.fits = true) :
    rFields (word0 len st op fn r.d r.a r.b) (rWord1 r) = r := by
  obtain ⟨d, a, b, c, msk, ty, rm, x16⟩ := r
  simp only [RArgs.fits, Bool.and_eq_true, decide_eq_true_eq] at hr
  obtain ⟨⟨⟨⟨⟨⟨⟨hd, ha⟩, hb⟩, hc⟩, hm⟩, ht⟩, hrm⟩, hx⟩ := hr
  simp only [rFields, dOf_word0 d a b h hd, aOf_word0 d a b h hd ha, bOf_word0 d a b h hd ha hb, RArgs.mk.injEq, true_and, rWord1]
  omega

theorem iFields_back {len st op fn : Nat} (i : IArgs) (h : headOk len st op fn) (hi : i.fits = true) :
    iFields (word0 len st op fn i.d i.a i.b) i.imm = i := by
  obtain ⟨d, a, b, imm⟩ := i
  simp only [IArgs.fits, Bool.and_eq_true, decide_eq_true_eq] at hi
  obtain ⟨⟨⟨hd, ha⟩, hb⟩, hm⟩ := hi
  simp only [iFields, dOf_word0 d a b h hd, aOf_word0 d a b h hd ha, bOf_word0 d a b h hd ha hb, IArgs.mk.injEq, true_and]
  omega

theorem mFields_back {len st op fn : Nat} (m : MArgs) (h : headOk len st op fn) (hm : m.fits = true) :
    mFields (word0 len st op fn m.d m.a m.b) (mWord1 m) = m := by
  obtain ⟨d, a, b, sc, sz, ord, scope, q, off⟩ := m
  simp only [MArgs.fits, Bool.and_eq_true, decide_eq_true_eq] at hm
  obtain ⟨⟨⟨⟨⟨⟨⟨⟨hd, ha⟩, hb⟩, h1⟩, h2⟩, h3⟩, h4⟩, h5⟩, h6⟩ := hm
  simp only [mFields, dOf_word0 d a b h hd, aOf_word0 d a b h hd ha, bOf_word0 d a b h hd ha hb, MArgs.mk.injEq, true_and, mWord1]
  omega

theorem jFields_back {len st op fn : Nat} (j : JArgs) (h : headOk len st op fn) (hj : j.fits = true) :
    jFields (word0 len st op fn j.d j.a j.b) j.off = j := by
  obtain ⟨d, a, b, off⟩ := j
  simp only [JArgs.fits, Bool.and_eq_true, decide_eq_true_eq] at hj
  obtain ⟨⟨⟨hd, ha⟩, hb⟩, ho⟩ := hj
  simp only [jFields, dOf_word0 d a b h hd, aOf_word0 d a b h hd ha, bOf_word0 d a b h hd ha hb, JArgs.mk.injEq, true_and]
  omega

/-- The words of an instruction decode to it where its entry of the maps is found and its fields raise no fault. -/
theorem decode_of_entry {w0 w1 e : Nat} {i : Instr} (h : entryOf w0 w1 e = some i) (hz : i.zeroFields = false)
    (hf : i.fieldFault = none) : decode w0 w1 e = .ok i := by
  simp [decode, h, hz, hf]

namespace Laws.RoundTrip

/-- Decoding the words of an instruction that the encoding can carry gives it back. -/
def Statement (i : Instr) : Prop :=
  i.wellFormed = true → i.fieldFault = none → encode i ≠ [] → decodeWords (encode i) = .ok i


/-- A field form is read back: the entry of the maps is found whatever the other words hold. -/
theorem entry_of_fields {len st op fn d a b w1 e : Nat} {i : Instr} (hh : headOk len st op fn)
    (hm : ∀ w0, lenOf w0 = len → stOf w0 = st → opOf w0 = op → fnOf w0 = fn → w0 = word0 len st op fn d a b → entryOf w0 w1 e = some i) :
    entryOf (word0 len st op fn d a b) w1 e = some i :=
  hm _ (lenOf_word0 _ _ _ _ _ _ _ hh.1) (stOf_word0 _ _ _ _ _ _ _ hh.1 hh.2.1) (opOf_word0 _ _ _ _ _ _ _ hh.1 hh.2.1 hh.2.2.1)
    (fnOf_word0 _ _ _ _ _ _ _ hh.1 hh.2.1 hh.2.2.1 hh.2.2.2) rfl

theorem rEntry {len st op fn e : Nat} {i : Instr} (r : RArgs) (hh : headOk len st op fn) (hr : r.fits = true)
    (hm : ∀ w0 w1, lenOf w0 = len → stOf w0 = st → opOf w0 = op → fnOf w0 = fn → rFields w0 w1 = r → entryOf w0 w1 e = some i) :
    entryOf (word0 len st op fn r.d r.a r.b) (rWord1 r) e = some i :=
  entry_of_fields hh fun w0 h0 h1 h2 h3 h => hm w0 _ h0 h1 h2 h3 (h ▸ rFields_back r hh hr)

theorem iEntry {len st op fn e : Nat} {i : Instr} (i0 : IArgs) (hh : headOk len st op fn) (hr : i0.fits = true)
    (hm : ∀ w0 w1, lenOf w0 = len → stOf w0 = st → opOf w0 = op → fnOf w0 = fn → iFields w0 w1 = i0 → entryOf w0 w1 e = some i) :
    entryOf (word0 len st op fn i0.d i0.a i0.b) i0.imm e = some i :=
  entry_of_fields hh fun w0 h0 h1 h2 h3 h => hm w0 _ h0 h1 h2 h3 (h ▸ iFields_back i0 hh hr)

theorem mEntry {len st op fn e : Nat} {i : Instr} (m : MArgs) (hh : headOk len st op fn) (hr : m.fits = true)
    (hm : ∀ w0 w1, lenOf w0 = len → stOf w0 = st → opOf w0 = op → fnOf w0 = fn → mFields w0 w1 = m → entryOf w0 w1 e = some i) :
    entryOf (word0 len st op fn m.d m.a m.b) (mWord1 m) e = some i :=
  entry_of_fields hh fun w0 h0 h1 h2 h3 h => hm w0 _ h0 h1 h2 h3 (h ▸ mFields_back m hh hr)

theorem jEntry {len st op fn e : Nat} {i : Instr} (j : JArgs) (hh : headOk len st op fn) (hr : j.fits = true)
    (hm : ∀ w0 w1, lenOf w0 = len → stOf w0 = st → opOf w0 = op → fnOf w0 = fn → jFields w0 w1 = j → entryOf w0 w1 e = some i) :
    entryOf (word0 len st op fn j.d j.a j.b) j.off e = some i :=
  entry_of_fields hh fun w0 h0 h1 h2 h3 h => hm w0 _ h0 h1 h2 h3 (h ▸ jFields_back j hh hr)

theorem wordsExt_two (n : Nat) : wordsExt [n % 4294967296, n / 4294967296] = n := by
  simp only [wordsExt]; omega

theorem ialuAdd (r : RArgs) : Statement (.ialuAdd r) := fun hw hf _ => by
  exact decode_of_entry (rEntry r ⟨by decide, by decide, by decide, by decide⟩ hw fun w0 w1 h0 h1 h2 h3 h4 => by
    simp [entryOf, h0, h1, h2, h3, h4, mapA8]) rfl hf
theorem ialuSub (r : RArgs) : Statement (.ialuSub r) := fun hw hf _ => by
  exact decode_of_entry (rEntry r ⟨by decide, by decide, by decide, by decide⟩ hw fun w0 w1 h0 h1 h2 h3 h4 => by
    simp [entryOf, h0, h1, h2, h3, h4, mapA8]) rfl hf
theorem ialuAnd (r : RArgs) : Statement (.ialuAnd r) := fun hw hf _ => by
  exact decode_of_entry (rEntry r ⟨by decide, by decide, by decide, by decide⟩ hw fun w0 w1 h0 h1 h2 h3 h4 => by
    simp [entryOf, h0, h1, h2, h3, h4, mapA8]) rfl hf
theorem ialuOr (r : RArgs) : Statement (.ialuOr r) := fun hw hf _ => by
  exact decode_of_entry (rEntry r ⟨by decide, by decide, by decide, by decide⟩ hw fun w0 w1 h0 h1 h2 h3 h4 => by
    simp [entryOf, h0, h1, h2, h3, h4, mapA8]) rfl hf
theorem ialuXor (r : RArgs) : Statement (.ialuXor r) := fun hw hf _ => by
  exact decode_of_entry (rEntry r ⟨by decide, by decide, by decide, by decide⟩ hw fun w0 w1 h0 h1 h2 h3 h4 => by
    simp [entryOf, h0, h1, h2, h3, h4, mapA8]) rfl hf
theorem ialuAndn (r : RArgs) : Statement (.ialuAndn r) := fun hw hf _ => by
  exact decode_of_entry (rEntry r ⟨by decide, by decide, by decide, by decide⟩ hw fun w0 w1 h0 h1 h2 h3 h4 => by
    simp [entryOf, h0, h1, h2, h3, h4, mapA8]) rfl hf
theorem ialuShl (r : RArgs) : Statement (.ialuShl r) := fun hw hf _ => by
  exact decode_of_entry (rEntry r ⟨by decide, by decide, by decide, by decide⟩ hw fun w0 w1 h0 h1 h2 h3 h4 => by
    simp [entryOf, h0, h1, h2, h3, h4, mapA8]) rfl hf
theorem ialuShr (r : RArgs) : Statement (.ialuShr r) := fun hw hf _ => by
  exact decode_of_entry (rEntry r ⟨by decide, by decide, by decide, by decide⟩ hw fun w0 w1 h0 h1 h2 h3 h4 => by
    simp [entryOf, h0, h1, h2, h3, h4, mapA8]) rfl hf
theorem ialuSar (r : RArgs) : Statement (.ialuSar r) := fun hw hf _ => by
  exact decode_of_entry (rEntry r ⟨by decide, by decide, by decide, by decide⟩ hw fun w0 w1 h0 h1 h2 h3 h4 => by
    simp [entryOf, h0, h1, h2, h3, h4, mapA8]) rfl hf
theorem ialuRotl (r : RArgs) : Statement (.ialuRotl r) := fun hw hf _ => by
  exact decode_of_entry (rEntry r ⟨by decide, by decide, by decide, by decide⟩ hw fun w0 w1 h0 h1 h2 h3 h4 => by
    simp [entryOf, h0, h1, h2, h3, h4, mapA8]) rfl hf
theorem ialuMin (r : RArgs) : Statement (.ialuMin r) := fun hw hf _ => by
  exact decode_of_entry (rEntry r ⟨by decide, by decide, by decide, by decide⟩ hw fun w0 w1 h0 h1 h2 h3 h4 => by
    simp [entryOf, h0, h1, h2, h3, h4, mapA8]) rfl hf
theorem ialuMax (r : RArgs) : Statement (.ialuMax r) := fun hw hf _ => by
  exact decode_of_entry (rEntry r ⟨by decide, by decide, by decide, by decide⟩ hw fun w0 w1 h0 h1 h2 h3 h4 => by
    simp [entryOf, h0, h1, h2, h3, h4, mapA8]) rfl hf
theorem ialuMinn (r : RArgs) : Statement (.ialuMinn r) := fun hw hf _ => by
  exact decode_of_entry (rEntry r ⟨by decide, by decide, by decide, by decide⟩ hw fun w0 w1 h0 h1 h2 h3 h4 => by
    simp [entryOf, h0, h1, h2, h3, h4, mapA8]) rfl hf
theorem ialuMaxn (r : RArgs) : Statement (.ialuMaxn r) := fun hw hf _ => by
  exact decode_of_entry (rEntry r ⟨by decide, by decide, by decide, by decide⟩ hw fun w0 w1 h0 h1 h2 h3 h4 => by
    simp [entryOf, h0, h1, h2, h3, h4, mapA8]) rfl hf
theorem ialuAddsat (r : RArgs) : Statement (.ialuAddsat r) := fun hw hf _ => by
  exact decode_of_entry (rEntry r ⟨by decide, by decide, by decide, by decide⟩ hw fun w0 w1 h0 h1 h2 h3 h4 => by
    simp [entryOf, h0, h1, h2, h3, h4, mapA8]) rfl hf
theorem ialuSubsat (r : RArgs) : Statement (.ialuSubsat r) := fun hw hf _ => by
  exact decode_of_entry (rEntry r ⟨by decide, by decide, by decide, by decide⟩ hw fun w0 w1 h0 h1 h2 h3 h4 => by
    simp [entryOf, h0, h1, h2, h3, h4, mapA8]) rfl hf
theorem ialuiAdd (i : IArgs) : Statement (.ialuiAdd i) := fun hw hf _ => by
  exact decode_of_entry (iEntry i ⟨by decide, by decide, by decide, by decide⟩ hw fun w0 w1 h0 h1 h2 h3 h4 => by
    simp [entryOf, h0, h1, h2, h3, h4, mapA8]) rfl hf
theorem ialuiSub (i : IArgs) : Statement (.ialuiSub i) := fun hw hf _ => by
  exact decode_of_entry (iEntry i ⟨by decide, by decide, by decide, by decide⟩ hw fun w0 w1 h0 h1 h2 h3 h4 => by
    simp [entryOf, h0, h1, h2, h3, h4, mapA8]) rfl hf
theorem ialuiAnd (i : IArgs) : Statement (.ialuiAnd i) := fun hw hf _ => by
  exact decode_of_entry (iEntry i ⟨by decide, by decide, by decide, by decide⟩ hw fun w0 w1 h0 h1 h2 h3 h4 => by
    simp [entryOf, h0, h1, h2, h3, h4, mapA8]) rfl hf
theorem ialuiOr (i : IArgs) : Statement (.ialuiOr i) := fun hw hf _ => by
  exact decode_of_entry (iEntry i ⟨by decide, by decide, by decide, by decide⟩ hw fun w0 w1 h0 h1 h2 h3 h4 => by
    simp [entryOf, h0, h1, h2, h3, h4, mapA8]) rfl hf
theorem ialuiXor (i : IArgs) : Statement (.ialuiXor i) := fun hw hf _ => by
  exact decode_of_entry (iEntry i ⟨by decide, by decide, by decide, by decide⟩ hw fun w0 w1 h0 h1 h2 h3 h4 => by
    simp [entryOf, h0, h1, h2, h3, h4, mapA8]) rfl hf
theorem ialuiAndn (i : IArgs) : Statement (.ialuiAndn i) := fun hw hf _ => by
  exact decode_of_entry (iEntry i ⟨by decide, by decide, by decide, by decide⟩ hw fun w0 w1 h0 h1 h2 h3 h4 => by
    simp [entryOf, h0, h1, h2, h3, h4, mapA8]) rfl hf
theorem ialuiShl (i : IArgs) : Statement (.ialuiShl i) := fun hw hf _ => by
  exact decode_of_entry (iEntry i ⟨by decide, by decide, by decide, by decide⟩ hw fun w0 w1 h0 h1 h2 h3 h4 => by
    simp [entryOf, h0, h1, h2, h3, h4, mapA8]) rfl hf
theorem ialuiShr (i : IArgs) : Statement (.ialuiShr i) := fun hw hf _ => by
  exact decode_of_entry (iEntry i ⟨by decide, by decide, by decide, by decide⟩ hw fun w0 w1 h0 h1 h2 h3 h4 => by
    simp [entryOf, h0, h1, h2, h3, h4, mapA8]) rfl hf
theorem ialuiSar (i : IArgs) : Statement (.ialuiSar i) := fun hw hf _ => by
  exact decode_of_entry (iEntry i ⟨by decide, by decide, by decide, by decide⟩ hw fun w0 w1 h0 h1 h2 h3 h4 => by
    simp [entryOf, h0, h1, h2, h3, h4, mapA8]) rfl hf
theorem ialuiRotl (i : IArgs) : Statement (.ialuiRotl i) := fun hw hf _ => by
  exact decode_of_entry (iEntry i ⟨by decide, by decide, by decide, by decide⟩ hw fun w0 w1 h0 h1 h2 h3 h4 => by
    simp [entryOf, h0, h1, h2, h3, h4, mapA8]) rfl hf
theorem ialuiMin (i : IArgs) : Statement (.ialuiMin i) := fun hw hf _ => by
  exact decode_of_entry (iEntry i ⟨by decide, by decide, by decide, by decide⟩ hw fun w0 w1 h0 h1 h2 h3 h4 => by
    simp [entryOf, h0, h1, h2, h3, h4, mapA8]) rfl hf
theorem ialuiMax (i : IArgs) : Statement (.ialuiMax i) := fun hw hf _ => by
  exact decode_of_entry (iEntry i ⟨by decide, by decide, by decide, by decide⟩ hw fun w0 w1 h0 h1 h2 h3 h4 => by
    simp [entryOf, h0, h1, h2, h3, h4, mapA8]) rfl hf
theorem ialuiMinn (i : IArgs) : Statement (.ialuiMinn i) := fun hw hf _ => by
  exact decode_of_entry (iEntry i ⟨by decide, by decide, by decide, by decide⟩ hw fun w0 w1 h0 h1 h2 h3 h4 => by
    simp [entryOf, h0, h1, h2, h3, h4, mapA8]) rfl hf
theorem ialuiMaxn (i : IArgs) : Statement (.ialuiMaxn i) := fun hw hf _ => by
  exact decode_of_entry (iEntry i ⟨by decide, by decide, by decide, by decide⟩ hw fun w0 w1 h0 h1 h2 h3 h4 => by
    simp [entryOf, h0, h1, h2, h3, h4, mapA8]) rfl hf
theorem ialuiAddsat (i : IArgs) : Statement (.ialuiAddsat i) := fun hw hf _ => by
  exact decode_of_entry (iEntry i ⟨by decide, by decide, by decide, by decide⟩ hw fun w0 w1 h0 h1 h2 h3 h4 => by
    simp [entryOf, h0, h1, h2, h3, h4, mapA8]) rfl hf
theorem ialuiSubsat (i : IArgs) : Statement (.ialuiSubsat i) := fun hw hf _ => by
  exact decode_of_entry (iEntry i ⟨by decide, by decide, by decide, by decide⟩ hw fun w0 w1 h0 h1 h2 h3 h4 => by
    simp [entryOf, h0, h1, h2, h3, h4, mapA8]) rfl hf
theorem imulMul (r : RArgs) : Statement (.imulMul r) := fun hw hf _ => by
  exact decode_of_entry (rEntry r ⟨by decide, by decide, by decide, by decide⟩ hw fun w0 w1 h0 h1 h2 h3 h4 => by
    simp [entryOf, h0, h1, h2, h3, h4, mapA8]) rfl hf
theorem imulMulhs (r : RArgs) : Statement (.imulMulhs r) := fun hw hf _ => by
  exact decode_of_entry (rEntry r ⟨by decide, by decide, by decide, by decide⟩ hw fun w0 w1 h0 h1 h2 h3 h4 => by
    simp [entryOf, h0, h1, h2, h3, h4, mapA8]) rfl hf
theorem imulMulhn (r : RArgs) : Statement (.imulMulhn r) := fun hw hf _ => by
  exact decode_of_entry (rEntry r ⟨by decide, by decide, by decide, by decide⟩ hw fun w0 w1 h0 h1 h2 h3 h4 => by
    simp [entryOf, h0, h1, h2, h3, h4, mapA8]) rfl hf
theorem imulMadd (r : RArgs) : Statement (.imulMadd r) := fun hw hf _ => by
  exact decode_of_entry (rEntry r ⟨by decide, by decide, by decide, by decide⟩ hw fun w0 w1 h0 h1 h2 h3 h4 => by
    simp [entryOf, h0, h1, h2, h3, h4, mapA8]) rfl hf
theorem imulMsub (r : RArgs) : Statement (.imulMsub r) := fun hw hf _ => by
  exact decode_of_entry (rEntry r ⟨by decide, by decide, by decide, by decide⟩ hw fun w0 w1 h0 h1 h2 h3 h4 => by
    simp [entryOf, h0, h1, h2, h3, h4, mapA8]) rfl hf
theorem imulDivs (r : RArgs) : Statement (.imulDivs r) := fun hw hf _ => by
  exact decode_of_entry (rEntry r ⟨by decide, by decide, by decide, by decide⟩ hw fun w0 w1 h0 h1 h2 h3 h4 => by
    simp [entryOf, h0, h1, h2, h3, h4, mapA8]) rfl hf
theorem imulDivn (r : RArgs) : Statement (.imulDivn r) := fun hw hf _ => by
  exact decode_of_entry (rEntry r ⟨by decide, by decide, by decide, by decide⟩ hw fun w0 w1 h0 h1 h2 h3 h4 => by
    simp [entryOf, h0, h1, h2, h3, h4, mapA8]) rfl hf
theorem imulRems (r : RArgs) : Statement (.imulRems r) := fun hw hf _ => by
  exact decode_of_entry (rEntry r ⟨by decide, by decide, by decide, by decide⟩ hw fun w0 w1 h0 h1 h2 h3 h4 => by
    simp [entryOf, h0, h1, h2, h3, h4, mapA8]) rfl hf
theorem imulRemn (r : RArgs) : Statement (.imulRemn r) := fun hw hf _ => by
  exact decode_of_entry (rEntry r ⟨by decide, by decide, by decide, by decide⟩ hw fun w0 w1 h0 h1 h2 h3 h4 => by
    simp [entryOf, h0, h1, h2, h3, h4, mapA8]) rfl hf
theorem icmp (fn : Nat) (r : RArgs) : Statement (.icmp fn r) := fun hw hf _ => by
  simp only [Instr.wellFormed, Bool.and_eq_true, decide_eq_true_eq] at hw
  exact decode_of_entry (rEntry r ⟨by omega, by omega, by omega, by omega⟩ hw.2 fun w0 w1 h0 h1 h2 h3 h4 => by
    simp [entryOf, h0, h1, h2, h3, h4, mapA8, hw.1]) rfl hf
theorem icmpi (fn : Nat) (i : IArgs) : Statement (.icmpi fn i) := fun hw hf _ => by
  simp only [Instr.wellFormed, Bool.and_eq_true, decide_eq_true_eq] at hw
  exact decode_of_entry (iEntry i ⟨by omega, by omega, by omega, by omega⟩ hw.2 fun w0 w1 h0 h1 h2 h3 h4 => by
    simp [entryOf, h0, h1, h2, h3, h4, mapA8, hw.1]) rfl hf
theorem bitsClz (r : RArgs) : Statement (.bitsClz r) := fun hw hf _ => by
  exact decode_of_entry (rEntry r ⟨by decide, by decide, by decide, by decide⟩ hw fun w0 w1 h0 h1 h2 h3 h4 => by
    simp [entryOf, h0, h1, h2, h3, h4, mapA8]) rfl hf
theorem bitsCtz (r : RArgs) : Statement (.bitsCtz r) := fun hw hf _ => by
  exact decode_of_entry (rEntry r ⟨by decide, by decide, by decide, by decide⟩ hw fun w0 w1 h0 h1 h2 h3 h4 => by
    simp [entryOf, h0, h1, h2, h3, h4, mapA8]) rfl hf
theorem bitsPopc (r : RArgs) : Statement (.bitsPopc r) := fun hw hf _ => by
  exact decode_of_entry (rEntry r ⟨by decide, by decide, by decide, by decide⟩ hw fun w0 w1 h0 h1 h2 h3 h4 => by
    simp [entryOf, h0, h1, h2, h3, h4, mapA8]) rfl hf
theorem bitsBrev (r : RArgs) : Statement (.bitsBrev r) := fun hw hf _ => by
  exact decode_of_entry (rEntry r ⟨by decide, by decide, by decide, by decide⟩ hw fun w0 w1 h0 h1 h2 h3 h4 => by
    simp [entryOf, h0, h1, h2, h3, h4, mapA8]) rfl hf
theorem bitsBswap (r : RArgs) : Statement (.bitsBswap r) := fun hw hf _ => by
  exact decode_of_entry (rEntry r ⟨by decide, by decide, by decide, by decide⟩ hw fun w0 w1 h0 h1 h2 h3 h4 => by
    simp [entryOf, h0, h1, h2, h3, h4, mapA8]) rfl hf
theorem bitsSext (r : RArgs) : Statement (.bitsSext r) := fun hw hf _ => by
  exact decode_of_entry (rEntry r ⟨by decide, by decide, by decide, by decide⟩ hw fun w0 w1 h0 h1 h2 h3 h4 => by
    simp [entryOf, h0, h1, h2, h3, h4, mapA8]) rfl hf
theorem bitsZext (r : RArgs) : Statement (.bitsZext r) := fun hw hf _ => by
  exact decode_of_entry (rEntry r ⟨by decide, by decide, by decide, by decide⟩ hw fun w0 w1 h0 h1 h2 h3 h4 => by
    simp [entryOf, h0, h1, h2, h3, h4, mapA8]) rfl hf
theorem bitsBfx (r : RArgs) : Statement (.bitsBfx r) := fun hw hf _ => by
  exact decode_of_entry (rEntry r ⟨by decide, by decide, by decide, by decide⟩ hw fun w0 w1 h0 h1 h2 h3 h4 => by
    simp [entryOf, h0, h1, h2, h3, h4, mapA8]) rfl hf
theorem bitsBfi (r : RArgs) : Statement (.bitsBfi r) := fun hw hf _ => by
  exact decode_of_entry (rEntry r ⟨by decide, by decide, by decide, by decide⟩ hw fun w0 w1 h0 h1 h2 h3 h4 => by
    simp [entryOf, h0, h1, h2, h3, h4, mapA8]) rfl hf
theorem sel (r : RArgs) : Statement (.sel r) := fun hw hf _ => by
  exact decode_of_entry (rEntry r ⟨by decide, by decide, by decide, by decide⟩ hw fun w0 w1 h0 h1 h2 h3 h4 => by
    simp [entryOf, h0, h1, h2, h3, h4, mapA8]) rfl hf
theorem liLi (i : IArgs) : Statement (.liLi i) := fun hw hf _ => by
  exact decode_of_entry (iEntry i ⟨by decide, by decide, by decide, by decide⟩ hw fun w0 w1 h0 h1 h2 h3 h4 => by
    simp [entryOf, h0, h1, h2, h3, h4, mapA8]) rfl hf
theorem liLih (i : IArgs) : Statement (.liLih i) := fun hw hf _ => by
  exact decode_of_entry (iEntry i ⟨by decide, by decide, by decide, by decide⟩ hw fun w0 w1 h0 h1 h2 h3 h4 => by
    simp [entryOf, h0, h1, h2, h3, h4, mapA8]) rfl hf
theorem liAddpc (i : IArgs) : Statement (.liAddpc i) := fun hw hf _ => by
  exact decode_of_entry (iEntry i ⟨by decide, by decide, by decide, by decide⟩ hw fun w0 w1 h0 h1 h2 h3 h4 => by
    simp [entryOf, h0, h1, h2, h3, h4, mapA8]) rfl hf
theorem li64 (l : LArgs) : Statement (.li64 l) := fun hw hf _ => by
  simp only [Instr.wellFormed, Bool.and_eq_true, decide_eq_true_eq, LArgs.fits] at hw
  exact decode_of_entry (iEntry l.i ⟨by decide, by decide, by decide, by decide⟩ hw.1 fun w0 w1 h0 h1 h2 h3 h4 => by
    simp [entryOf, h0, h1, h2, h3, h4, mapA12, wordsExt]) rfl hf
theorem laneLive (r : RArgs) : Statement (.laneLive r) := fun hw hf _ => by
  exact decode_of_entry (rEntry r ⟨by decide, by decide, by decide, by decide⟩ hw fun w0 w1 h0 h1 h2 h3 h4 => by
    simp [entryOf, h0, h1, h2, h3, h4, mapA8]) rfl hf
theorem laneLframe (r : RArgs) : Statement (.laneLframe r) := fun hw hf _ => by
  exact decode_of_entry (rEntry r ⟨by decide, by decide, by decide, by decide⟩ hw fun w0 w1 h0 h1 h2 h3 h4 => by
    simp [entryOf, h0, h1, h2, h3, h4, mapA8]) rfl hf
theorem laneLkey (r : RArgs) : Statement (.laneLkey r) := fun hw hf _ => by
  exact decode_of_entry (rEntry r ⟨by decide, by decide, by decide, by decide⟩ hw fun w0 w1 h0 h1 h2 h3 h4 => by
    simp [entryOf, h0, h1, h2, h3, h4, mapA8]) rfl hf
theorem laneLmask (r : RArgs) : Statement (.laneLmask r) := fun hw hf _ => by
  exact decode_of_entry (rEntry r ⟨by decide, by decide, by decide, by decide⟩ hw fun w0 w1 h0 h1 h2 h3 h4 => by
    simp [entryOf, h0, h1, h2, h3, h4, mapA8]) rfl hf
theorem laneVcore (r : RArgs) : Statement (.laneVcore r) := fun hw hf _ => by
  exact decode_of_entry (rEntry r ⟨by decide, by decide, by decide, by decide⟩ hw fun w0 w1 h0 h1 h2 h3 h4 => by
    simp [entryOf, h0, h1, h2, h3, h4, mapA8]) rfl hf
theorem laneThread (r : RArgs) : Statement (.laneThread r) := fun hw hf _ => by
  exact decode_of_entry (rEntry r ⟨by decide, by decide, by decide, by decide⟩ hw fun w0 w1 h0 h1 h2 h3 h4 => by
    simp [entryOf, h0, h1, h2, h3, h4, mapA8]) rfl hf
theorem br (fn : Nat) (j : JArgs) : Statement (.br fn j) := fun hw hf _ => by
  simp only [Instr.wellFormed, Bool.and_eq_true, decide_eq_true_eq] at hw
  exact decode_of_entry (jEntry j ⟨by omega, by omega, by omega, by omega⟩ hw.2 fun w0 w1 h0 h1 h2 h3 h4 => by
    simp [entryOf, h0, h1, h2, h3, h4, mapA8, hw.1]) rfl hf
theorem jmpJmp (j : JArgs) : Statement (.jmpJmp j) := fun hw hf _ => by
  exact decode_of_entry (jEntry j ⟨by decide, by decide, by decide, by decide⟩ hw fun w0 w1 h0 h1 h2 h3 h4 => by
    simp [entryOf, h0, h1, h2, h3, h4, mapA8]) rfl hf
theorem jmpCall (j : JArgs) : Statement (.jmpCall j) := fun hw hf _ => by
  exact decode_of_entry (jEntry j ⟨by decide, by decide, by decide, by decide⟩ hw fun w0 w1 h0 h1 h2 h3 h4 => by
    simp [entryOf, h0, h1, h2, h3, h4, mapA8]) rfl hf
theorem jmpJmpr (j : JArgs) : Statement (.jmpJmpr j) := fun hw hf _ => by
  exact decode_of_entry (jEntry j ⟨by decide, by decide, by decide, by decide⟩ hw fun w0 w1 h0 h1 h2 h3 h4 => by
    simp [entryOf, h0, h1, h2, h3, h4, mapA8]) rfl hf
theorem jmpCallr (j : JArgs) : Statement (.jmpCallr j) := fun hw hf _ => by
  exact decode_of_entry (jEntry j ⟨by decide, by decide, by decide, by decide⟩ hw fun w0 w1 h0 h1 h2 h3 h4 => by
    simp [entryOf, h0, h1, h2, h3, h4, mapA8]) rfl hf
theorem jmpCalll (j : JArgs) : Statement (.jmpCalll j) := fun hw hf _ => by
  exact decode_of_entry (jEntry j ⟨by decide, by decide, by decide, by decide⟩ hw fun w0 w1 h0 h1 h2 h3 h4 => by
    simp [entryOf, h0, h1, h2, h3, h4, mapA8]) rfl hf
theorem jmpRet (j : JArgs) : Statement (.jmpRet j) := fun hw hf _ => by
  exact decode_of_entry (jEntry j ⟨by decide, by decide, by decide, by decide⟩ hw fun w0 w1 h0 h1 h2 h3 h4 => by
    simp [entryOf, h0, h1, h2, h3, h4, mapA8]) rfl hf
theorem ld (fn : Nat) (m : MArgs) : Statement (.ld fn m) := fun hw hf _ => by
  simp only [Instr.wellFormed, Bool.and_eq_true, decide_eq_true_eq] at hw
  exact decode_of_entry (mEntry m ⟨by omega, by omega, by omega, by omega⟩ hw.2 fun w0 w1 h0 h1 h2 h3 h4 => by
    simp [entryOf, h0, h1, h2, h3, h4, mapA8, hw.1]) rfl hf
theorem st (fn : Nat) (m : MArgs) : Statement (.st fn m) := fun hw hf _ => by
  simp only [Instr.wellFormed, Bool.and_eq_true, decide_eq_true_eq] at hw
  exact decode_of_entry (mEntry m ⟨by omega, by omega, by omega, by omega⟩ hw.2 fun w0 w1 h0 h1 h2 h3 h4 => by
    simp [entryOf, h0, h1, h2, h3, h4, mapA8, hw.1]) rfl hf
theorem vlq (fn : Nat) (m : MArgs) : Statement (.vlq fn m) := fun hw hf _ => by
  simp only [Instr.wellFormed, Bool.and_eq_true, decide_eq_true_eq] at hw
  exact decode_of_entry (mEntry m ⟨by omega, by omega, by omega, by omega⟩ hw.2 fun w0 w1 h0 h1 h2 h3 h4 => by
    simp [entryOf, h0, h1, h2, h3, h4, mapA8, hw.1]) rfl hf
theorem vsq (fn : Nat) (m : MArgs) : Statement (.vsq fn m) := fun hw hf _ => by
  simp only [Instr.wellFormed, Bool.and_eq_true, decide_eq_true_eq] at hw
  exact decode_of_entry (mEntry m ⟨by omega, by omega, by omega, by omega⟩ hw.2 fun w0 w1 h0 h1 h2 h3 h4 => by
    simp [entryOf, h0, h1, h2, h3, h4, mapA8, hw.1]) rfl hf
theorem gathq (fn : Nat) (m : MArgs) : Statement (.gathq fn m) := fun hw hf _ => by
  simp only [Instr.wellFormed, Bool.and_eq_true, decide_eq_true_eq] at hw
  exact decode_of_entry (mEntry m ⟨by omega, by omega, by omega, by omega⟩ hw.2 fun w0 w1 h0 h1 h2 h3 h4 => by
    simp [entryOf, h0, h1, h2, h3, h4, mapA8, hw.1]) rfl hf
theorem scatq (fn : Nat) (m : MArgs) : Statement (.scatq fn m) := fun hw hf _ => by
  simp only [Instr.wellFormed, Bool.and_eq_true, decide_eq_true_eq] at hw
  exact decode_of_entry (mEntry m ⟨by omega, by omega, by omega, by omega⟩ hw.2 fun w0 w1 h0 h1 h2 h3 h4 => by
    simp [entryOf, h0, h1, h2, h3, h4, mapA8, hw.1]) rfl hf
theorem atomqAdd (m : MArgs) : Statement (.atomqAdd m) := fun hw hf _ => by
  exact decode_of_entry (mEntry m ⟨by decide, by decide, by decide, by decide⟩ hw fun w0 w1 h0 h1 h2 h3 h4 => by
    simp [entryOf, h0, h1, h2, h3, h4, mapA8]) rfl hf
theorem atomqAnd (m : MArgs) : Statement (.atomqAnd m) := fun hw hf _ => by
  exact decode_of_entry (mEntry m ⟨by decide, by decide, by decide, by decide⟩ hw fun w0 w1 h0 h1 h2 h3 h4 => by
    simp [entryOf, h0, h1, h2, h3, h4, mapA8]) rfl hf
theorem atomqOr (m : MArgs) : Statement (.atomqOr m) := fun hw hf _ => by
  exact decode_of_entry (mEntry m ⟨by decide, by decide, by decide, by decide⟩ hw fun w0 w1 h0 h1 h2 h3 h4 => by
    simp [entryOf, h0, h1, h2, h3, h4, mapA8]) rfl hf
theorem atomqXor (m : MArgs) : Statement (.atomqXor m) := fun hw hf _ => by
  exact decode_of_entry (mEntry m ⟨by decide, by decide, by decide, by decide⟩ hw fun w0 w1 h0 h1 h2 h3 h4 => by
    simp [entryOf, h0, h1, h2, h3, h4, mapA8]) rfl hf
theorem atomqMin (m : MArgs) : Statement (.atomqMin m) := fun hw hf _ => by
  exact decode_of_entry (mEntry m ⟨by decide, by decide, by decide, by decide⟩ hw fun w0 w1 h0 h1 h2 h3 h4 => by
    simp [entryOf, h0, h1, h2, h3, h4, mapA8]) rfl hf
theorem atomqMax (m : MArgs) : Statement (.atomqMax m) := fun hw hf _ => by
  exact decode_of_entry (mEntry m ⟨by decide, by decide, by decide, by decide⟩ hw fun w0 w1 h0 h1 h2 h3 h4 => by
    simp [entryOf, h0, h1, h2, h3, h4, mapA8]) rfl hf
theorem atomqMinn (m : MArgs) : Statement (.atomqMinn m) := fun hw hf _ => by
  exact decode_of_entry (mEntry m ⟨by decide, by decide, by decide, by decide⟩ hw fun w0 w1 h0 h1 h2 h3 h4 => by
    simp [entryOf, h0, h1, h2, h3, h4, mapA8]) rfl hf
theorem atomqMaxn (m : MArgs) : Statement (.atomqMaxn m) := fun hw hf _ => by
  exact decode_of_entry (mEntry m ⟨by decide, by decide, by decide, by decide⟩ hw fun w0 w1 h0 h1 h2 h3 h4 => by
    simp [entryOf, h0, h1, h2, h3, h4, mapA8]) rfl hf
theorem qopQpushs (r : RArgs) : Statement (.qopQpushs r) := fun hw hf _ => by
  exact decode_of_entry (rEntry r ⟨by decide, by decide, by decide, by decide⟩ hw fun w0 w1 h0 h1 h2 h3 h4 => by
    simp [entryOf, h0, h1, h2, h3, h4, mapA8]) rfl hf
theorem qopQpops (r : RArgs) : Statement (.qopQpops r) := fun hw hf _ => by
  exact decode_of_entry (rEntry r ⟨by decide, by decide, by decide, by decide⟩ hw fun w0 w1 h0 h1 h2 h3 h4 => by
    simp [entryOf, h0, h1, h2, h3, h4, mapA8]) rfl hf
theorem qopQcnt (r : RArgs) : Statement (.qopQcnt r) := fun hw hf _ => by
  exact decode_of_entry (rEntry r ⟨by decide, by decide, by decide, by decide⟩ hw fun w0 w1 h0 h1 h2 h3 h4 => by
    simp [entryOf, h0, h1, h2, h3, h4, mapA8]) rfl hf
theorem qopXsync (r : RArgs) : Statement (.qopXsync r) := fun hw hf _ => by
  exact decode_of_entry (rEntry r ⟨by decide, by decide, by decide, by decide⟩ hw fun w0 w1 h0 h1 h2 h3 h4 => by
    simp [entryOf, h0, h1, h2, h3, h4, mapA8]) rfl hf
theorem ctlCtlrd (r : RArgs) : Statement (.ctlCtlrd r) := fun hw hf _ => by
  exact decode_of_entry (rEntry r ⟨by decide, by decide, by decide, by decide⟩ hw fun w0 w1 h0 h1 h2 h3 h4 => by
    simp [entryOf, h0, h1, h2, h3, h4, mapA8]) rfl hf
theorem ctlCtlwr (r : RArgs) : Statement (.ctlCtlwr r) := fun hw hf _ => by
  exact decode_of_entry (rEntry r ⟨by decide, by decide, by decide, by decide⟩ hw fun w0 w1 h0 h1 h2 h3 h4 => by
    simp [entryOf, h0, h1, h2, h3, h4, mapA8]) rfl hf
theorem ctlCtlset (r : RArgs) : Statement (.ctlCtlset r) := fun hw hf _ => by
  exact decode_of_entry (rEntry r ⟨by decide, by decide, by decide, by decide⟩ hw fun w0 w1 h0 h1 h2 h3 h4 => by
    simp [entryOf, h0, h1, h2, h3, h4, mapA8]) rfl hf
theorem ctlCtlclr (r : RArgs) : Statement (.ctlCtlclr r) := fun hw hf _ => by
  exact decode_of_entry (rEntry r ⟨by decide, by decide, by decide, by decide⟩ hw fun w0 w1 h0 h1 h2 h3 h4 => by
    simp [entryOf, h0, h1, h2, h3, h4, mapA8]) rfl hf
theorem bind (fn : Nat) (r : RArgs) : Statement (.bind fn r) := fun hw hf _ => by
  simp only [Instr.wellFormed, Bool.and_eq_true, decide_eq_true_eq] at hw
  exact decode_of_entry (rEntry r ⟨by omega, by omega, by omega, by omega⟩ hw.2 fun w0 w1 h0 h1 h2 h3 h4 => by
    simp [entryOf, h0, h1, h2, h3, h4, mapA8]) rfl hf
theorem bindImm (fn : Nat) (x : XArgs) : Statement (.bindImm fn x) := fun hw hf _ => by
  simp only [Instr.wellFormed, Bool.and_eq_true, decide_eq_true_eq, XArgs.fits] at hw
  exact decode_of_entry (rEntry x.r ⟨by omega, by omega, by omega, by omega⟩ hw.2.1 fun w0 w1 h0 h1 h2 h3 h4 => by
    simp [entryOf, h0, h1, h2, h3, h4, mapA12, wordsExt]) rfl hf
theorem binde (fn : Nat) (r : RArgs) : Statement (.binde fn r) := fun hw hf _ => by
  simp only [Instr.wellFormed, Bool.and_eq_true, decide_eq_true_eq] at hw
  exact decode_of_entry (rEntry r ⟨by omega, by omega, by omega, by omega⟩ hw.2 fun w0 w1 h0 h1 h2 h3 h4 => by
    simp [entryOf, h0, h1, h2, h3, h4, mapA8, hw.1]) rfl hf
theorem linkUnbind (r : RArgs) : Statement (.linkUnbind r) := fun hw hf _ => by
  exact decode_of_entry (rEntry r ⟨by decide, by decide, by decide, by decide⟩ hw fun w0 w1 h0 h1 h2 h3 h4 => by
    simp [entryOf, h0, h1, h2, h3, h4, mapA8]) rfl hf
theorem linkUnbindall (r : RArgs) : Statement (.linkUnbindall r) := fun hw hf _ => by
  exact decode_of_entry (rEntry r ⟨by decide, by decide, by decide, by decide⟩ hw fun w0 w1 h0 h1 h2 h3 h4 => by
    simp [entryOf, h0, h1, h2, h3, h4, mapA8]) rfl hf
theorem linkLinkrd (r : RArgs) : Statement (.linkLinkrd r) := fun hw hf _ => by
  exact decode_of_entry (rEntry r ⟨by decide, by decide, by decide, by decide⟩ hw fun w0 w1 h0 h1 h2 h3 h4 => by
    simp [entryOf, h0, h1, h2, h3, h4, mapA8]) rfl hf
theorem linkLinkstat (r : RArgs) : Statement (.linkLinkstat r) := fun hw hf _ => by
  exact decode_of_entry (rEntry r ⟨by decide, by decide, by decide, by decide⟩ hw fun w0 w1 h0 h1 h2 h3 h4 => by
    simp [entryOf, h0, h1, h2, h3, h4, mapA8]) rfl hf
theorem atomAdd (r : RArgs) : Statement (.atomAdd r) := fun hw hf _ => by
  exact decode_of_entry (rEntry r ⟨by decide, by decide, by decide, by decide⟩ hw fun w0 w1 h0 h1 h2 h3 h4 => by
    simp [entryOf, h0, h1, h2, h3, h4, mapA8]) rfl hf
theorem atomAnd (r : RArgs) : Statement (.atomAnd r) := fun hw hf _ => by
  exact decode_of_entry (rEntry r ⟨by decide, by decide, by decide, by decide⟩ hw fun w0 w1 h0 h1 h2 h3 h4 => by
    simp [entryOf, h0, h1, h2, h3, h4, mapA8]) rfl hf
theorem atomOr (r : RArgs) : Statement (.atomOr r) := fun hw hf _ => by
  exact decode_of_entry (rEntry r ⟨by decide, by decide, by decide, by decide⟩ hw fun w0 w1 h0 h1 h2 h3 h4 => by
    simp [entryOf, h0, h1, h2, h3, h4, mapA8]) rfl hf
theorem atomXor (r : RArgs) : Statement (.atomXor r) := fun hw hf _ => by
  exact decode_of_entry (rEntry r ⟨by decide, by decide, by decide, by decide⟩ hw fun w0 w1 h0 h1 h2 h3 h4 => by
    simp [entryOf, h0, h1, h2, h3, h4, mapA8]) rfl hf
theorem atomMin (r : RArgs) : Statement (.atomMin r) := fun hw hf _ => by
  exact decode_of_entry (rEntry r ⟨by decide, by decide, by decide, by decide⟩ hw fun w0 w1 h0 h1 h2 h3 h4 => by
    simp [entryOf, h0, h1, h2, h3, h4, mapA8]) rfl hf
theorem atomMax (r : RArgs) : Statement (.atomMax r) := fun hw hf _ => by
  exact decode_of_entry (rEntry r ⟨by decide, by decide, by decide, by decide⟩ hw fun w0 w1 h0 h1 h2 h3 h4 => by
    simp [entryOf, h0, h1, h2, h3, h4, mapA8]) rfl hf
theorem atomMinn (r : RArgs) : Statement (.atomMinn r) := fun hw hf _ => by
  exact decode_of_entry (rEntry r ⟨by decide, by decide, by decide, by decide⟩ hw fun w0 w1 h0 h1 h2 h3 h4 => by
    simp [entryOf, h0, h1, h2, h3, h4, mapA8]) rfl hf
theorem atomMaxn (r : RArgs) : Statement (.atomMaxn r) := fun hw hf _ => by
  exact decode_of_entry (rEntry r ⟨by decide, by decide, by decide, by decide⟩ hw fun w0 w1 h0 h1 h2 h3 h4 => by
    simp [entryOf, h0, h1, h2, h3, h4, mapA8]) rfl hf
theorem atomSwap (r : RArgs) : Statement (.atomSwap r) := fun hw hf _ => by
  exact decode_of_entry (rEntry r ⟨by decide, by decide, by decide, by decide⟩ hw fun w0 w1 h0 h1 h2 h3 h4 => by
    simp [entryOf, h0, h1, h2, h3, h4, mapA8]) rfl hf
theorem cas (r : RArgs) : Statement (.cas r) := fun hw hf _ => by
  exact decode_of_entry (rEntry r ⟨by decide, by decide, by decide, by decide⟩ hw fun w0 w1 h0 h1 h2 h3 h4 => by
    simp [entryOf, h0, h1, h2, h3, h4, mapA8]) rfl hf
theorem fenceAcq (r : RArgs) : Statement (.fenceAcq r) := fun hw hf _ => by
  exact decode_of_entry (rEntry r ⟨by decide, by decide, by decide, by decide⟩ hw fun w0 w1 h0 h1 h2 h3 h4 => by
    simp [entryOf, h0, h1, h2, h3, h4, mapA8]) rfl hf
theorem fenceRel (r : RArgs) : Statement (.fenceRel r) := fun hw hf _ => by
  exact decode_of_entry (rEntry r ⟨by decide, by decide, by decide, by decide⟩ hw fun w0 w1 h0 h1 h2 h3 h4 => by
    simp [entryOf, h0, h1, h2, h3, h4, mapA8]) rfl hf
theorem fenceFull (r : RArgs) : Statement (.fenceFull r) := fun hw hf _ => by
  exact decode_of_entry (rEntry r ⟨by decide, by decide, by decide, by decide⟩ hw fun w0 w1 h0 h1 h2 h3 h4 => by
    simp [entryOf, h0, h1, h2, h3, h4, mapA8]) rfl hf
theorem waitw (fn : Nat) (r : RArgs) : Statement (.waitw fn r) := fun hw hf _ => by
  simp only [Instr.wellFormed, Bool.and_eq_true, decide_eq_true_eq] at hw
  exact decode_of_entry (rEntry r ⟨by omega, by omega, by omega, by omega⟩ hw.2 fun w0 w1 h0 h1 h2 h3 h4 => by
    simp [entryOf, h0, h1, h2, h3, h4, mapA8, hw.1]) rfl hf
theorem holdHand (r : RArgs) : Statement (.holdHand r) := fun hw hf _ => by
  exact decode_of_entry (rEntry r ⟨by decide, by decide, by decide, by decide⟩ hw fun w0 w1 h0 h1 h2 h3 h4 => by
    simp [entryOf, h0, h1, h2, h3, h4, mapA8]) rfl hf
theorem holdTake (r : RArgs) : Statement (.holdTake r) := fun hw hf _ => by
  exact decode_of_entry (rEntry r ⟨by decide, by decide, by decide, by decide⟩ hw fun w0 w1 h0 h1 h2 h3 h4 => by
    simp [entryOf, h0, h1, h2, h3, h4, mapA8]) rfl hf
theorem holdHoldq (r : RArgs) : Statement (.holdHoldq r) := fun hw hf _ => by
  exact decode_of_entry (rEntry r ⟨by decide, by decide, by decide, by decide⟩ hw fun w0 w1 h0 h1 h2 h3 h4 => by
    simp [entryOf, h0, h1, h2, h3, h4, mapA8]) rfl hf
theorem holdSeal (r : RArgs) : Statement (.holdSeal r) := fun hw hf _ => by
  exact decode_of_entry (rEntry r ⟨by decide, by decide, by decide, by decide⟩ hw fun w0 w1 h0 h1 h2 h3 h4 => by
    simp [entryOf, h0, h1, h2, h3, h4, mapA8]) rfl hf
theorem waitkWait (r : RArgs) : Statement (.waitkWait r) := fun hw hf _ => by
  exact decode_of_entry (rEntry r ⟨by decide, by decide, by decide, by decide⟩ hw fun w0 w1 h0 h1 h2 h3 h4 => by
    simp [entryOf, h0, h1, h2, h3, h4, mapA8]) rfl hf
theorem waitkTest (r : RArgs) : Statement (.waitkTest r) := fun hw hf _ => by
  exact decode_of_entry (rEntry r ⟨by decide, by decide, by decide, by decide⟩ hw fun w0 w1 h0 h1 h2 h3 h4 => by
    simp [entryOf, h0, h1, h2, h3, h4, mapA8]) rfl hf
theorem waitkClearerr (r : RArgs) : Statement (.waitkClearerr r) := fun hw hf _ => by
  exact decode_of_entry (rEntry r ⟨by decide, by decide, by decide, by decide⟩ hw fun w0 w1 h0 h1 h2 h3 h4 => by
    simp [entryOf, h0, h1, h2, h3, h4, mapA8]) rfl hf
theorem freeb (r : RArgs) : Statement (.freeb r) := fun hw hf _ => by
  exact decode_of_entry (rEntry r ⟨by decide, by decide, by decide, by decide⟩ hw fun w0 w1 h0 h1 h2 h3 h4 => by
    simp [entryOf, h0, h1, h2, h3, h4, mapA8]) rfl hf
theorem trapTrap (r : RArgs) : Statement (.trapTrap r) := fun hw hf _ => by
  exact decode_of_entry (rEntry r ⟨by decide, by decide, by decide, by decide⟩ hw fun w0 w1 h0 h1 h2 h3 h4 => by
    simp [entryOf, h0, h1, h2, h3, h4, mapA8]) rfl hf
theorem trapBrk (r : RArgs) : Statement (.trapBrk r) := fun hw hf _ => by
  exact decode_of_entry (rEntry r ⟨by decide, by decide, by decide, by decide⟩ hw fun w0 w1 h0 h1 h2 h3 h4 => by
    simp [entryOf, h0, h1, h2, h3, h4, mapA8]) rfl hf
theorem ppt (i : IArgs) : Statement (.ppt i) := fun hw hf _ => by
  exact decode_of_entry (iEntry i ⟨by decide, by decide, by decide, by decide⟩ hw fun w0 w1 h0 h1 h2 h3 h4 => by
    simp [entryOf, h0, h1, h2, h3, h4, mapA8]) rfl hf
theorem gwGwset (r : RArgs) : Statement (.gwGwset r) := fun hw hf _ => by
  exact decode_of_entry (rEntry r ⟨by decide, by decide, by decide, by decide⟩ hw fun w0 w1 h0 h1 h2 h3 h4 => by
    simp [entryOf, h0, h1, h2, h3, h4, mapA8]) rfl hf
theorem gwGwclr (r : RArgs) : Statement (.gwGwclr r) := fun hw hf _ => by
  exact decode_of_entry (rEntry r ⟨by decide, by decide, by decide, by decide⟩ hw fun w0 w1 h0 h1 h2 h3 h4 => by
    simp [entryOf, h0, h1, h2, h3, h4, mapA8]) rfl hf
theorem gwGwver (r : RArgs) : Statement (.gwGwver r) := fun hw hf _ => by
  exact decode_of_entry (rEntry r ⟨by decide, by decide, by decide, by decide⟩ hw fun w0 w1 h0 h1 h2 h3 h4 => by
    simp [entryOf, h0, h1, h2, h3, h4, mapA8]) rfl hf
theorem taskTail (r : RArgs) : Statement (.taskTail r) := fun hw hf _ => by
  exact decode_of_entry (rEntry r ⟨by decide, by decide, by decide, by decide⟩ hw fun w0 w1 h0 h1 h2 h3 h4 => by
    simp [entryOf, h0, h1, h2, h3, h4, mapA8]) rfl hf
theorem taskJoin (r : RArgs) : Statement (.taskJoin r) := fun hw hf _ => by
  exact decode_of_entry (rEntry r ⟨by decide, by decide, by decide, by decide⟩ hw fun w0 w1 h0 h1 h2 h3 h4 => by
    simp [entryOf, h0, h1, h2, h3, h4, mapA8]) rfl hf
theorem spawn (fn : Nat) (x : CArgs) : Statement (.spawn fn x) := fun hw hf _ => by
  simp only [Instr.wellFormed, Bool.and_eq_true, decide_eq_true_eq, CArgs.fits] at hw
  exact decode_of_entry (rEntry x.r ⟨by omega, by omega, by omega, by omega⟩ hw.2.1 fun w0 w1 h0 h1 h2 h3 h4 => by
    simp [entryOf, h0, h1, h2, h3, h4, mapA16, hw.1, wordsExt_two]) rfl hf
theorem spawnq (x : CArgs) : Statement (.spawnq x) := fun hw hf _ => by
  simp only [Instr.wellFormed, Bool.and_eq_true, decide_eq_true_eq, CArgs.fits] at hw
  exact decode_of_entry (rEntry x.r ⟨by decide, by decide, by decide, by decide⟩ hw.1 fun w0 w1 h0 h1 h2 h3 h4 => by
    simp [entryOf, h0, h1, h2, h3, h4, mapA16, wordsExt_two]) rfl hf
theorem copy (fn : Nat) (x : CArgs) : Statement (.copy fn x) := fun hw hf _ => by
  simp only [Instr.wellFormed, Bool.and_eq_true, decide_eq_true_eq, CArgs.fits] at hw
  exact decode_of_entry (rEntry x.r ⟨by omega, by omega, by omega, by omega⟩ hw.2.1 fun w0 w1 h0 h1 h2 h3 h4 => by
    simp [entryOf, h0, h1, h2, h3, h4, mapA16, hw.1, wordsExt_two]) rfl hf
theorem copym (fn : Nat) (x : CArgs) : Statement (.copym fn x) := fun hw hf _ => by
  simp only [Instr.wellFormed, Bool.and_eq_true, decide_eq_true_eq, CArgs.fits] at hw
  exact decode_of_entry (rEntry x.r ⟨by omega, by omega, by omega, by omega⟩ hw.2.1 fun w0 w1 h0 h1 h2 h3 h4 => by
    simp [entryOf, h0, h1, h2, h3, h4, mapA16, hw.1, wordsExt_two]) rfl hf
theorem mxMclr (r : RArgs) : Statement (.mxMclr r) := fun hw hf _ => by
  exact decode_of_entry (rEntry r ⟨by decide, by decide, by decide, by decide⟩ hw fun w0 w1 h0 h1 h2 h3 h4 => by
    simp [entryOf, h0, h1, h2, h3, h4, mapA8]) rfl hf
theorem mxMstat (r : RArgs) : Statement (.mxMstat r) := fun hw hf _ => by
  exact decode_of_entry (rEntry r ⟨by decide, by decide, by decide, by decide⟩ hw fun w0 w1 h0 h1 h2 h3 h4 => by
    simp [entryOf, h0, h1, h2, h3, h4, mapA8]) rfl hf
theorem mloadw (fn : Nat) (x : CArgs) : Statement (.mloadw fn x) := fun hw hf _ => by
  simp only [Instr.wellFormed, Bool.and_eq_true, decide_eq_true_eq, CArgs.fits] at hw
  exact decode_of_entry (rEntry x.r ⟨by omega, by omega, by omega, by omega⟩ hw.2.1 fun w0 w1 h0 h1 h2 h3 h4 => by
    simp [entryOf, h0, h1, h2, h3, h4, mapA16, hw.1, wordsExt_two]) rfl hf
theorem mstream (fn : Nat) (x : CArgs) : Statement (.mstream fn x) := fun hw hf _ => by
  simp only [Instr.wellFormed, Bool.and_eq_true, decide_eq_true_eq, CArgs.fits] at hw
  exact decode_of_entry (rEntry x.r ⟨by omega, by omega, by omega, by omega⟩ hw.2.1 fun w0 w1 h0 h1 h2 h3 h4 => by
    simp [entryOf, h0, h1, h2, h3, h4, mapA16, hw.1, wordsExt_two]) rfl hf
theorem mread (fn : Nat) (x : CArgs) : Statement (.mread fn x) := fun hw hf _ => by
  simp only [Instr.wellFormed, Bool.and_eq_true, decide_eq_true_eq, CArgs.fits] at hw
  exact decode_of_entry (rEntry x.r ⟨by omega, by omega, by omega, by omega⟩ hw.2.1 fun w0 w1 h0 h1 h2 h3 h4 => by
    simp [entryOf, h0, h1, h2, h3, h4, mapA16, hw.1, wordsExt_two]) rfl hf
theorem maddraw (x : CArgs) : Statement (.maddraw x) := fun hw hf _ => by
  simp only [Instr.wellFormed, Bool.and_eq_true, decide_eq_true_eq, CArgs.fits] at hw
  exact decode_of_entry (rEntry x.r ⟨by decide, by decide, by decide, by decide⟩ hw.1 fun w0 w1 h0 h1 h2 h3 h4 => by
    simp [entryOf, h0, h1, h2, h3, h4, mapA16, wordsExt_two]) rfl hf
theorem mtile (fn : Nat) (x : CArgs) : Statement (.mtile fn x) := fun hw hf _ => by
  simp only [Instr.wellFormed, Bool.and_eq_true, decide_eq_true_eq, CArgs.fits] at hw
  exact decode_of_entry (rEntry x.r ⟨by omega, by omega, by omega, by omega⟩ hw.2.1 fun w0 w1 h0 h1 h2 h3 h4 => by
    simp [entryOf, h0, h1, h2, h3, h4, mapA16, wordsExt_two]) rfl hf
theorem mcmd (x : CArgs) : Statement (.mcmd x) := fun hw hf _ => by
  simp only [Instr.wellFormed, Bool.and_eq_true, decide_eq_true_eq, CArgs.fits] at hw
  exact decode_of_entry (rEntry x.r ⟨by decide, by decide, by decide, by decide⟩ hw.1 fun w0 w1 h0 h1 h2 h3 h4 => by
    simp [entryOf, h0, h1, h2, h3, h4, mapA16, wordsExt_two]) rfl hf
theorem rload (fn : Nat) (x : CArgs) : Statement (.rload fn x) := fun hw hf _ => by
  simp only [Instr.wellFormed, Bool.and_eq_true, decide_eq_true_eq, CArgs.fits] at hw
  exact decode_of_entry (rEntry x.r ⟨by omega, by omega, by omega, by omega⟩ hw.2.1 fun w0 w1 h0 h1 h2 h3 h4 => by
    simp [entryOf, h0, h1, h2, h3, h4, mapA16, hw.1, wordsExt_two]) rfl hf
theorem rstepSync (x : CArgs) : Statement (.rstepSync x) := fun hw hf _ => by
  simp only [Instr.wellFormed, Bool.and_eq_true, decide_eq_true_eq, CArgs.fits] at hw
  exact decode_of_entry (rEntry x.r ⟨by decide, by decide, by decide, by decide⟩ hw.1 fun w0 w1 h0 h1 h2 h3 h4 => by
    simp [entryOf, h0, h1, h2, h3, h4, mapA16, wordsExt_two]) rfl hf
theorem rstepCheq (x : CArgs) : Statement (.rstepCheq x) := fun hw hf _ => by
  simp only [Instr.wellFormed, Bool.and_eq_true, decide_eq_true_eq, CArgs.fits] at hw
  exact decode_of_entry (rEntry x.r ⟨by decide, by decide, by decide, by decide⟩ hw.1 fun w0 w1 h0 h1 h2 h3 h4 => by
    simp [entryOf, h0, h1, h2, h3, h4, mapA16, wordsExt_two]) rfl hf
theorem hpref (fn : Nat) (m : MArgs) : Statement (.hpref fn m) := fun hw hf _ => by
  simp only [Instr.wellFormed, Bool.and_eq_true, decide_eq_true_eq] at hw
  exact decode_of_entry (mEntry m ⟨by omega, by omega, by omega, by omega⟩ hw.2 fun w0 w1 h0 h1 h2 h3 h4 => by
    simp [entryOf, h0, h1, h2, h3, h4, mapA8]) rfl hf
theorem hprio (fn : Nat) (i : IArgs) : Statement (.hprio fn i) := fun hw hf _ => by
  simp only [Instr.wellFormed, Bool.and_eq_true, decide_eq_true_eq] at hw
  exact decode_of_entry (iEntry i ⟨by omega, by omega, by omega, by omega⟩ hw.2 fun w0 w1 h0 h1 h2 h3 h4 => by
    simp [entryOf, h0, h1, h2, h3, h4, mapA8]) rfl hf
theorem hgather (fn : Nat) (r : RArgs) : Statement (.hgather fn r) := fun hw hf _ => by
  simp only [Instr.wellFormed, Bool.and_eq_true, decide_eq_true_eq] at hw
  exact decode_of_entry (rEntry r ⟨by omega, by omega, by omega, by omega⟩ hw.2 fun w0 w1 h0 h1 h2 h3 h4 => by
    simp [entryOf, h0, h1, h2, h3, h4, mapA8]) rfl hf
theorem ldp (fn : Nat) (m : MArgs) : Statement (.ldp fn m) := fun hw hf _ => by
  simp only [Instr.wellFormed, Bool.and_eq_true, decide_eq_true_eq] at hw
  exact decode_of_entry (mEntry m ⟨by omega, by omega, by omega, by omega⟩ hw.2 fun w0 w1 h0 h1 h2 h3 h4 => by
    simp [entryOf, h0, h1, h2, h3, h4, mapA8]) rfl hf
theorem mma8 (fn : Nat) (r : RArgs) : Statement (.mma8 fn r) := fun hw hf _ => by
  simp only [Instr.wellFormed, Bool.and_eq_true, decide_eq_true_eq] at hw
  exact decode_of_entry (rEntry r ⟨by omega, by omega, by omega, by omega⟩ hw.2 fun w0 w1 h0 h1 h2 h3 h4 => by
    simp [entryOf, h0, h1, h2, h3, h4, mapA8]) rfl hf
theorem bindx (fn : Nat) (r : RArgs) : Statement (.bindx fn r) := fun hw hf _ => by
  simp only [Instr.wellFormed, Bool.and_eq_true, decide_eq_true_eq] at hw
  exact decode_of_entry (rEntry r ⟨by omega, by omega, by omega, by omega⟩ hw.2 fun w0 w1 h0 h1 h2 h3 h4 => by
    simp [entryOf, h0, h1, h2, h3, h4, mapA8]) rfl hf
theorem vlde (fn : Nat) (r : RArgs) : Statement (.vlde fn r) := fun hw hf _ => by
  simp only [Instr.wellFormed, Bool.and_eq_true, decide_eq_true_eq] at hw
  exact decode_of_entry (rEntry r ⟨by omega, by omega, by omega, by omega⟩ hw.2 fun w0 w1 h0 h1 h2 h3 h4 => by
    simp [entryOf, h0, h1, h2, h3, h4, mapE8]) rfl hf
theorem vste (fn : Nat) (r : RArgs) : Statement (.vste fn r) := fun hw hf _ => by
  simp only [Instr.wellFormed, Bool.and_eq_true, decide_eq_true_eq] at hw
  exact decode_of_entry (rEntry r ⟨by omega, by omega, by omega, by omega⟩ hw.2 fun w0 w1 h0 h1 h2 h3 h4 => by
    simp [entryOf, h0, h1, h2, h3, h4, mapE8]) rfl hf
theorem vdotq (fn : Nat) (r : RArgs) : Statement (.vdotq fn r) := fun hw hf _ => by
  simp only [Instr.wellFormed, Bool.and_eq_true, decide_eq_true_eq] at hw
  exact decode_of_entry (rEntry r ⟨by omega, by omega, by omega, by omega⟩ hw.2 fun w0 w1 h0 h1 h2 h3 h4 => by
    simp [entryOf, h0, h1, h2, h3, h4, mapE8]) rfl hf
theorem vbind (fn : Nat) (r : RArgs) : Statement (.vbind fn r) := fun hw hf _ => by
  simp only [Instr.wellFormed, Bool.and_eq_true, decide_eq_true_eq] at hw
  exact decode_of_entry (rEntry r ⟨by omega, by omega, by omega, by omega⟩ hw.2 fun w0 w1 h0 h1 h2 h3 h4 => by
    simp [entryOf, h0, h1, h2, h3, h4, mapE8]) rfl hf
theorem vbinde (fn : Nat) (r : RArgs) : Statement (.vbinde fn r) := fun hw hf _ => by
  simp only [Instr.wellFormed, Bool.and_eq_true, decide_eq_true_eq] at hw
  exact decode_of_entry (rEntry r ⟨by omega, by omega, by omega, by omega⟩ hw.2 fun w0 w1 h0 h1 h2 h3 h4 => by
    simp [entryOf, h0, h1, h2, h3, h4, mapE8, hw.1]) rfl hf
theorem vlinkUnbind (r : RArgs) : Statement (.vlinkUnbind r) := fun hw hf _ => by
  exact decode_of_entry (rEntry r ⟨by decide, by decide, by decide, by decide⟩ hw fun w0 w1 h0 h1 h2 h3 h4 => by
    simp [entryOf, h0, h1, h2, h3, h4, mapE8]) rfl hf
theorem vlinkUnbindall (r : RArgs) : Statement (.vlinkUnbindall r) := fun hw hf _ => by
  exact decode_of_entry (rEntry r ⟨by decide, by decide, by decide, by decide⟩ hw fun w0 w1 h0 h1 h2 h3 h4 => by
    simp [entryOf, h0, h1, h2, h3, h4, mapE8]) rfl hf
theorem vlinkLinkrd (r : RArgs) : Statement (.vlinkLinkrd r) := fun hw hf _ => by
  exact decode_of_entry (rEntry r ⟨by decide, by decide, by decide, by decide⟩ hw fun w0 w1 h0 h1 h2 h3 h4 => by
    simp [entryOf, h0, h1, h2, h3, h4, mapE8]) rfl hf
theorem vlinkLinkstat (r : RArgs) : Statement (.vlinkLinkstat r) := fun hw hf _ => by
  exact decode_of_entry (rEntry r ⟨by decide, by decide, by decide, by decide⟩ hw fun w0 w1 h0 h1 h2 h3 h4 => by
    simp [entryOf, h0, h1, h2, h3, h4, mapE8]) rfl hf
theorem vialuAdd (r : RArgs) : Statement (.vialuAdd r) := fun hw hf _ => by
  exact decode_of_entry (rEntry r ⟨by decide, by decide, by decide, by decide⟩ hw fun w0 w1 h0 h1 h2 h3 h4 => by
    simp [entryOf, h0, h1, h2, h3, h4, mapE8]) rfl hf
theorem vialuSub (r : RArgs) : Statement (.vialuSub r) := fun hw hf _ => by
  exact decode_of_entry (rEntry r ⟨by decide, by decide, by decide, by decide⟩ hw fun w0 w1 h0 h1 h2 h3 h4 => by
    simp [entryOf, h0, h1, h2, h3, h4, mapE8]) rfl hf
theorem vialuAnd (r : RArgs) : Statement (.vialuAnd r) := fun hw hf _ => by
  exact decode_of_entry (rEntry r ⟨by decide, by decide, by decide, by decide⟩ hw fun w0 w1 h0 h1 h2 h3 h4 => by
    simp [entryOf, h0, h1, h2, h3, h4, mapE8]) rfl hf
theorem vialuOr (r : RArgs) : Statement (.vialuOr r) := fun hw hf _ => by
  exact decode_of_entry (rEntry r ⟨by decide, by decide, by decide, by decide⟩ hw fun w0 w1 h0 h1 h2 h3 h4 => by
    simp [entryOf, h0, h1, h2, h3, h4, mapE8]) rfl hf
theorem vialuXor (r : RArgs) : Statement (.vialuXor r) := fun hw hf _ => by
  exact decode_of_entry (rEntry r ⟨by decide, by decide, by decide, by decide⟩ hw fun w0 w1 h0 h1 h2 h3 h4 => by
    simp [entryOf, h0, h1, h2, h3, h4, mapE8]) rfl hf
theorem vialuAndn (r : RArgs) : Statement (.vialuAndn r) := fun hw hf _ => by
  exact decode_of_entry (rEntry r ⟨by decide, by decide, by decide, by decide⟩ hw fun w0 w1 h0 h1 h2 h3 h4 => by
    simp [entryOf, h0, h1, h2, h3, h4, mapE8]) rfl hf
theorem vialuShl (r : RArgs) : Statement (.vialuShl r) := fun hw hf _ => by
  exact decode_of_entry (rEntry r ⟨by decide, by decide, by decide, by decide⟩ hw fun w0 w1 h0 h1 h2 h3 h4 => by
    simp [entryOf, h0, h1, h2, h3, h4, mapE8]) rfl hf
theorem vialuShr (r : RArgs) : Statement (.vialuShr r) := fun hw hf _ => by
  exact decode_of_entry (rEntry r ⟨by decide, by decide, by decide, by decide⟩ hw fun w0 w1 h0 h1 h2 h3 h4 => by
    simp [entryOf, h0, h1, h2, h3, h4, mapE8]) rfl hf
theorem vialuSar (r : RArgs) : Statement (.vialuSar r) := fun hw hf _ => by
  exact decode_of_entry (rEntry r ⟨by decide, by decide, by decide, by decide⟩ hw fun w0 w1 h0 h1 h2 h3 h4 => by
    simp [entryOf, h0, h1, h2, h3, h4, mapE8]) rfl hf
theorem vialuMin (r : RArgs) : Statement (.vialuMin r) := fun hw hf _ => by
  exact decode_of_entry (rEntry r ⟨by decide, by decide, by decide, by decide⟩ hw fun w0 w1 h0 h1 h2 h3 h4 => by
    simp [entryOf, h0, h1, h2, h3, h4, mapE8]) rfl hf
theorem vialuMax (r : RArgs) : Statement (.vialuMax r) := fun hw hf _ => by
  exact decode_of_entry (rEntry r ⟨by decide, by decide, by decide, by decide⟩ hw fun w0 w1 h0 h1 h2 h3 h4 => by
    simp [entryOf, h0, h1, h2, h3, h4, mapE8]) rfl hf
theorem vialuMinn (r : RArgs) : Statement (.vialuMinn r) := fun hw hf _ => by
  exact decode_of_entry (rEntry r ⟨by decide, by decide, by decide, by decide⟩ hw fun w0 w1 h0 h1 h2 h3 h4 => by
    simp [entryOf, h0, h1, h2, h3, h4, mapE8]) rfl hf
theorem vialuMaxn (r : RArgs) : Statement (.vialuMaxn r) := fun hw hf _ => by
  exact decode_of_entry (rEntry r ⟨by decide, by decide, by decide, by decide⟩ hw fun w0 w1 h0 h1 h2 h3 h4 => by
    simp [entryOf, h0, h1, h2, h3, h4, mapE8]) rfl hf
theorem vialuAddsat (r : RArgs) : Statement (.vialuAddsat r) := fun hw hf _ => by
  exact decode_of_entry (rEntry r ⟨by decide, by decide, by decide, by decide⟩ hw fun w0 w1 h0 h1 h2 h3 h4 => by
    simp [entryOf, h0, h1, h2, h3, h4, mapE8]) rfl hf
theorem vialuSubsat (r : RArgs) : Statement (.vialuSubsat r) := fun hw hf _ => by
  exact decode_of_entry (rEntry r ⟨by decide, by decide, by decide, by decide⟩ hw fun w0 w1 h0 h1 h2 h3 h4 => by
    simp [entryOf, h0, h1, h2, h3, h4, mapE8]) rfl hf
theorem vialuImm (fn : Nat) (x : XArgs) : Statement (.vialuImm fn x) := fun hw hf _ => by
  simp only [Instr.wellFormed, Bool.and_eq_true, decide_eq_true_eq, XArgs.fits] at hw
  exact decode_of_entry (rEntry x.r ⟨by omega, by omega, by omega, by omega⟩ hw.2.1 fun w0 w1 h0 h1 h2 h3 h4 => by
    simp [entryOf, h0, h1, h2, h3, h4, mapE12, hw.1, wordsExt]) rfl hf
theorem vimulMul (r : RArgs) : Statement (.vimulMul r) := fun hw hf _ => by
  exact decode_of_entry (rEntry r ⟨by decide, by decide, by decide, by decide⟩ hw fun w0 w1 h0 h1 h2 h3 h4 => by
    simp [entryOf, h0, h1, h2, h3, h4, mapE8]) rfl hf
theorem vimulMulhs (r : RArgs) : Statement (.vimulMulhs r) := fun hw hf _ => by
  exact decode_of_entry (rEntry r ⟨by decide, by decide, by decide, by decide⟩ hw fun w0 w1 h0 h1 h2 h3 h4 => by
    simp [entryOf, h0, h1, h2, h3, h4, mapE8]) rfl hf
theorem vimulMulhn (r : RArgs) : Statement (.vimulMulhn r) := fun hw hf _ => by
  exact decode_of_entry (rEntry r ⟨by decide, by decide, by decide, by decide⟩ hw fun w0 w1 h0 h1 h2 h3 h4 => by
    simp [entryOf, h0, h1, h2, h3, h4, mapE8]) rfl hf
theorem vimulMadd (r : RArgs) : Statement (.vimulMadd r) := fun hw hf _ => by
  exact decode_of_entry (rEntry r ⟨by decide, by decide, by decide, by decide⟩ hw fun w0 w1 h0 h1 h2 h3 h4 => by
    simp [entryOf, h0, h1, h2, h3, h4, mapE8]) rfl hf
theorem vimulDot4 (r : RArgs) : Statement (.vimulDot4 r) := fun hw hf _ => by
  exact decode_of_entry (rEntry r ⟨by decide, by decide, by decide, by decide⟩ hw fun w0 w1 h0 h1 h2 h3 h4 => by
    simp [entryOf, h0, h1, h2, h3, h4, mapE8]) rfl hf
theorem vimulDot2 (r : RArgs) : Statement (.vimulDot2 r) := fun hw hf _ => by
  exact decode_of_entry (rEntry r ⟨by decide, by decide, by decide, by decide⟩ hw fun w0 w1 h0 h1 h2 h3 h4 => by
    simp [entryOf, h0, h1, h2, h3, h4, mapE8]) rfl hf
theorem vicmp (fn : Nat) (r : RArgs) : Statement (.vicmp fn r) := fun hw hf _ => by
  simp only [Instr.wellFormed, Bool.and_eq_true, decide_eq_true_eq] at hw
  exact decode_of_entry (rEntry r ⟨by omega, by omega, by omega, by omega⟩ hw.2 fun w0 w1 h0 h1 h2 h3 h4 => by
    simp [entryOf, h0, h1, h2, h3, h4, mapE8, hw.1]) rfl hf
theorem vfaluAdd (r : RArgs) : Statement (.vfaluAdd r) := fun hw hf _ => by
  exact decode_of_entry (rEntry r ⟨by decide, by decide, by decide, by decide⟩ hw fun w0 w1 h0 h1 h2 h3 h4 => by
    simp [entryOf, h0, h1, h2, h3, h4, mapE8]) rfl hf
theorem vfaluSub (r : RArgs) : Statement (.vfaluSub r) := fun hw hf _ => by
  exact decode_of_entry (rEntry r ⟨by decide, by decide, by decide, by decide⟩ hw fun w0 w1 h0 h1 h2 h3 h4 => by
    simp [entryOf, h0, h1, h2, h3, h4, mapE8]) rfl hf
theorem vfaluMul (r : RArgs) : Statement (.vfaluMul r) := fun hw hf _ => by
  exact decode_of_entry (rEntry r ⟨by decide, by decide, by decide, by decide⟩ hw fun w0 w1 h0 h1 h2 h3 h4 => by
    simp [entryOf, h0, h1, h2, h3, h4, mapE8]) rfl hf
theorem vfaluMin (r : RArgs) : Statement (.vfaluMin r) := fun hw hf _ => by
  exact decode_of_entry (rEntry r ⟨by decide, by decide, by decide, by decide⟩ hw fun w0 w1 h0 h1 h2 h3 h4 => by
    simp [entryOf, h0, h1, h2, h3, h4, mapE8]) rfl hf
theorem vfaluMax (r : RArgs) : Statement (.vfaluMax r) := fun hw hf _ => by
  exact decode_of_entry (rEntry r ⟨by decide, by decide, by decide, by decide⟩ hw fun w0 w1 h0 h1 h2 h3 h4 => by
    simp [entryOf, h0, h1, h2, h3, h4, mapE8]) rfl hf
theorem vfaluAbs (r : RArgs) : Statement (.vfaluAbs r) := fun hw hf _ => by
  exact decode_of_entry (rEntry r ⟨by decide, by decide, by decide, by decide⟩ hw fun w0 w1 h0 h1 h2 h3 h4 => by
    simp [entryOf, h0, h1, h2, h3, h4, mapE8]) rfl hf
theorem vfaluNeg (r : RArgs) : Statement (.vfaluNeg r) := fun hw hf _ => by
  exact decode_of_entry (rEntry r ⟨by decide, by decide, by decide, by decide⟩ hw fun w0 w1 h0 h1 h2 h3 h4 => by
    simp [entryOf, h0, h1, h2, h3, h4, mapE8]) rfl hf
theorem vfaluCpsgn (r : RArgs) : Statement (.vfaluCpsgn r) := fun hw hf _ => by
  exact decode_of_entry (rEntry r ⟨by decide, by decide, by decide, by decide⟩ hw fun w0 w1 h0 h1 h2 h3 h4 => by
    simp [entryOf, h0, h1, h2, h3, h4, mapE8]) rfl hf
theorem vfaluImm (fn : Nat) (x : XArgs) : Statement (.vfaluImm fn x) := fun hw hf _ => by
  simp only [Instr.wellFormed, Bool.and_eq_true, decide_eq_true_eq, XArgs.fits] at hw
  exact decode_of_entry (rEntry x.r ⟨by omega, by omega, by omega, by omega⟩ hw.2.1 fun w0 w1 h0 h1 h2 h3 h4 => by
    simp [entryOf, h0, h1, h2, h3, h4, mapE12, hw.1, wordsExt]) rfl hf
theorem vfmaFma (r : RArgs) : Statement (.vfmaFma r) := fun hw hf _ => by
  exact decode_of_entry (rEntry r ⟨by decide, by decide, by decide, by decide⟩ hw fun w0 w1 h0 h1 h2 h3 h4 => by
    simp [entryOf, h0, h1, h2, h3, h4, mapE8]) rfl hf
theorem vfmaFms (r : RArgs) : Statement (.vfmaFms r) := fun hw hf _ => by
  exact decode_of_entry (rEntry r ⟨by decide, by decide, by decide, by decide⟩ hw fun w0 w1 h0 h1 h2 h3 h4 => by
    simp [entryOf, h0, h1, h2, h3, h4, mapE8]) rfl hf
theorem vfmaFnma (r : RArgs) : Statement (.vfmaFnma r) := fun hw hf _ => by
  exact decode_of_entry (rEntry r ⟨by decide, by decide, by decide, by decide⟩ hw fun w0 w1 h0 h1 h2 h3 h4 => by
    simp [entryOf, h0, h1, h2, h3, h4, mapE8]) rfl hf
theorem vfmaFnms (r : RArgs) : Statement (.vfmaFnms r) := fun hw hf _ => by
  exact decode_of_entry (rEntry r ⟨by decide, by decide, by decide, by decide⟩ hw fun w0 w1 h0 h1 h2 h3 h4 => by
    simp [entryOf, h0, h1, h2, h3, h4, mapE8]) rfl hf
theorem vfmaImm (fn : Nat) (x : XArgs) : Statement (.vfmaImm fn x) := fun hw hf _ => by
  simp only [Instr.wellFormed, Bool.and_eq_true, decide_eq_true_eq, XArgs.fits] at hw
  exact decode_of_entry (rEntry x.r ⟨by omega, by omega, by omega, by omega⟩ hw.2.1 fun w0 w1 h0 h1 h2 h3 h4 => by
    simp [entryOf, h0, h1, h2, h3, h4, mapE12, hw.1, wordsExt]) rfl hf
theorem vfuncDiv (r : RArgs) : Statement (.vfuncDiv r) := fun hw hf _ => by
  exact decode_of_entry (rEntry r ⟨by decide, by decide, by decide, by decide⟩ hw fun w0 w1 h0 h1 h2 h3 h4 => by
    simp [entryOf, h0, h1, h2, h3, h4, mapE8]) rfl hf
theorem vfuncSqrt (r : RArgs) : Statement (.vfuncSqrt r) := fun hw hf _ => by
  exact decode_of_entry (rEntry r ⟨by decide, by decide, by decide, by decide⟩ hw fun w0 w1 h0 h1 h2 h3 h4 => by
    simp [entryOf, h0, h1, h2, h3, h4, mapE8]) rfl hf
theorem vfuncRcp (r : RArgs) : Statement (.vfuncRcp r) := fun hw hf _ => by
  exact decode_of_entry (rEntry r ⟨by decide, by decide, by decide, by decide⟩ hw fun w0 w1 h0 h1 h2 h3 h4 => by
    simp [entryOf, h0, h1, h2, h3, h4, mapE8]) rfl hf
theorem vfuncRsqrt (r : RArgs) : Statement (.vfuncRsqrt r) := fun hw hf _ => by
  exact decode_of_entry (rEntry r ⟨by decide, by decide, by decide, by decide⟩ hw fun w0 w1 h0 h1 h2 h3 h4 => by
    simp [entryOf, h0, h1, h2, h3, h4, mapE8]) rfl hf
theorem vfuncExp2 (r : RArgs) : Statement (.vfuncExp2 r) := fun hw hf _ => by
  exact decode_of_entry (rEntry r ⟨by decide, by decide, by decide, by decide⟩ hw fun w0 w1 h0 h1 h2 h3 h4 => by
    simp [entryOf, h0, h1, h2, h3, h4, mapE8]) rfl hf
theorem vfuncLog2 (r : RArgs) : Statement (.vfuncLog2 r) := fun hw hf _ => by
  exact decode_of_entry (rEntry r ⟨by decide, by decide, by decide, by decide⟩ hw fun w0 w1 h0 h1 h2 h3 h4 => by
    simp [entryOf, h0, h1, h2, h3, h4, mapE8]) rfl hf
theorem vfcmp (fn : Nat) (r : RArgs) : Statement (.vfcmp fn r) := fun hw hf _ => by
  simp only [Instr.wellFormed, Bool.and_eq_true, decide_eq_true_eq] at hw
  exact decode_of_entry (rEntry r ⟨by omega, by omega, by omega, by omega⟩ hw.2 fun w0 w1 h0 h1 h2 h3 h4 => by
    simp [entryOf, h0, h1, h2, h3, h4, mapE8, hw.1]) rfl hf
theorem vcvt (fn : Nat) (r : RArgs) : Statement (.vcvt fn r) := fun hw hf _ => by
  simp only [Instr.wellFormed, Bool.and_eq_true, decide_eq_true_eq] at hw
  exact decode_of_entry (rEntry r ⟨by omega, by omega, by omega, by omega⟩ hw.2 fun w0 w1 h0 h1 h2 h3 h4 => by
    simp [entryOf, h0, h1, h2, h3, h4, mapE8, hw.1]) rfl hf
theorem vmxMxq (r : RArgs) : Statement (.vmxMxq r) := fun hw hf _ => by
  exact decode_of_entry (rEntry r ⟨by decide, by decide, by decide, by decide⟩ hw fun w0 w1 h0 h1 h2 h3 h4 => by
    simp [entryOf, h0, h1, h2, h3, h4, mapE8]) rfl hf
theorem vmxPlane (r : RArgs) : Statement (.vmxPlane r) := fun hw hf _ => by
  exact decode_of_entry (rEntry r ⟨by decide, by decide, by decide, by decide⟩ hw fun w0 w1 h0 h1 h2 h3 h4 => by
    simp [entryOf, h0, h1, h2, h3, h4, mapE8]) rfl hf
theorem vmxUnplane (r : RArgs) : Statement (.vmxUnplane r) := fun hw hf _ => by
  exact decode_of_entry (rEntry r ⟨by decide, by decide, by decide, by decide⟩ hw fun w0 w1 h0 h1 h2 h3 h4 => by
    simp [entryOf, h0, h1, h2, h3, h4, mapE8]) rfl hf
theorem vmxMxdq (r : RArgs) : Statement (.vmxMxdq r) := fun hw hf _ => by
  exact decode_of_entry (rEntry r ⟨by decide, by decide, by decide, by decide⟩ hw fun w0 w1 h0 h1 h2 h3 h4 => by
    simp [entryOf, h0, h1, h2, h3, h4, mapE8]) rfl hf
theorem vmaskMand (r : RArgs) : Statement (.vmaskMand r) := fun hw hf _ => by
  exact decode_of_entry (rEntry r ⟨by decide, by decide, by decide, by decide⟩ hw fun w0 w1 h0 h1 h2 h3 h4 => by
    simp [entryOf, h0, h1, h2, h3, h4, mapE8]) rfl hf
theorem vmaskMor (r : RArgs) : Statement (.vmaskMor r) := fun hw hf _ => by
  exact decode_of_entry (rEntry r ⟨by decide, by decide, by decide, by decide⟩ hw fun w0 w1 h0 h1 h2 h3 h4 => by
    simp [entryOf, h0, h1, h2, h3, h4, mapE8]) rfl hf
theorem vmaskMxor (r : RArgs) : Statement (.vmaskMxor r) := fun hw hf _ => by
  exact decode_of_entry (rEntry r ⟨by decide, by decide, by decide, by decide⟩ hw fun w0 w1 h0 h1 h2 h3 h4 => by
    simp [entryOf, h0, h1, h2, h3, h4, mapE8]) rfl hf
theorem vmaskMandn (r : RArgs) : Statement (.vmaskMandn r) := fun hw hf _ => by
  exact decode_of_entry (rEntry r ⟨by decide, by decide, by decide, by decide⟩ hw fun w0 w1 h0 h1 h2 h3 h4 => by
    simp [entryOf, h0, h1, h2, h3, h4, mapE8]) rfl hf
theorem vmaskMnot (r : RArgs) : Statement (.vmaskMnot r) := fun hw hf _ => by
  exact decode_of_entry (rEntry r ⟨by decide, by decide, by decide, by decide⟩ hw fun w0 w1 h0 h1 h2 h3 h4 => by
    simp [entryOf, h0, h1, h2, h3, h4, mapE8]) rfl hf
theorem vmaskMpopc (r : RArgs) : Statement (.vmaskMpopc r) := fun hw hf _ => by
  exact decode_of_entry (rEntry r ⟨by decide, by decide, by decide, by decide⟩ hw fun w0 w1 h0 h1 h2 h3 h4 => by
    simp [entryOf, h0, h1, h2, h3, h4, mapE8]) rfl hf
theorem vmaskMfirst (r : RArgs) : Statement (.vmaskMfirst r) := fun hw hf _ => by
  exact decode_of_entry (rEntry r ⟨by decide, by decide, by decide, by decide⟩ hw fun w0 w1 h0 h1 h2 h3 h4 => by
    simp [entryOf, h0, h1, h2, h3, h4, mapE8]) rfl hf
theorem vmaskMset (r : RArgs) : Statement (.vmaskMset r) := fun hw hf _ => by
  exact decode_of_entry (rEntry r ⟨by decide, by decide, by decide, by decide⟩ hw fun w0 w1 h0 h1 h2 h3 h4 => by
    simp [entryOf, h0, h1, h2, h3, h4, mapE8]) rfl hf
theorem vpermShuf (r : RArgs) : Statement (.vpermShuf r) := fun hw hf _ => by
  exact decode_of_entry (rEntry r ⟨by decide, by decide, by decide, by decide⟩ hw fun w0 w1 h0 h1 h2 h3 h4 => by
    simp [entryOf, h0, h1, h2, h3, h4, mapE8]) rfl hf
theorem vpermSlideup (r : RArgs) : Statement (.vpermSlideup r) := fun hw hf _ => by
  exact decode_of_entry (rEntry r ⟨by decide, by decide, by decide, by decide⟩ hw fun w0 w1 h0 h1 h2 h3 h4 => by
    simp [entryOf, h0, h1, h2, h3, h4, mapE8]) rfl hf
theorem vpermSlidedn (r : RArgs) : Statement (.vpermSlidedn r) := fun hw hf _ => by
  exact decode_of_entry (rEntry r ⟨by decide, by decide, by decide, by decide⟩ hw fun w0 w1 h0 h1 h2 h3 h4 => by
    simp [entryOf, h0, h1, h2, h3, h4, mapE8]) rfl hf
theorem vpermBcast (r : RArgs) : Statement (.vpermBcast r) := fun hw hf _ => by
  exact decode_of_entry (rEntry r ⟨by decide, by decide, by decide, by decide⟩ hw fun w0 w1 h0 h1 h2 h3 h4 => by
    simp [entryOf, h0, h1, h2, h3, h4, mapE8]) rfl hf
theorem vpermRev (r : RArgs) : Statement (.vpermRev r) := fun hw hf _ => by
  exact decode_of_entry (rEntry r ⟨by decide, by decide, by decide, by decide⟩ hw fun w0 w1 h0 h1 h2 h3 h4 => by
    simp [entryOf, h0, h1, h2, h3, h4, mapE8]) rfl hf
theorem vpermZiplo (r : RArgs) : Statement (.vpermZiplo r) := fun hw hf _ => by
  exact decode_of_entry (rEntry r ⟨by decide, by decide, by decide, by decide⟩ hw fun w0 w1 h0 h1 h2 h3 h4 => by
    simp [entryOf, h0, h1, h2, h3, h4, mapE8]) rfl hf
theorem vpermZiphi (r : RArgs) : Statement (.vpermZiphi r) := fun hw hf _ => by
  exact decode_of_entry (rEntry r ⟨by decide, by decide, by decide, by decide⟩ hw fun w0 w1 h0 h1 h2 h3 h4 => by
    simp [entryOf, h0, h1, h2, h3, h4, mapE8]) rfl hf
theorem vpermIota (r : RArgs) : Statement (.vpermIota r) := fun hw hf _ => by
  exact decode_of_entry (rEntry r ⟨by decide, by decide, by decide, by decide⟩ hw fun w0 w1 h0 h1 h2 h3 h4 => by
    simp [entryOf, h0, h1, h2, h3, h4, mapE8]) rfl hf
theorem vredIadd (r : RArgs) : Statement (.vredIadd r) := fun hw hf _ => by
  exact decode_of_entry (rEntry r ⟨by decide, by decide, by decide, by decide⟩ hw fun w0 w1 h0 h1 h2 h3 h4 => by
    simp [entryOf, h0, h1, h2, h3, h4, mapE8]) rfl hf
theorem vredImin (r : RArgs) : Statement (.vredImin r) := fun hw hf _ => by
  exact decode_of_entry (rEntry r ⟨by decide, by decide, by decide, by decide⟩ hw fun w0 w1 h0 h1 h2 h3 h4 => by
    simp [entryOf, h0, h1, h2, h3, h4, mapE8]) rfl hf
theorem vredImax (r : RArgs) : Statement (.vredImax r) := fun hw hf _ => by
  exact decode_of_entry (rEntry r ⟨by decide, by decide, by decide, by decide⟩ hw fun w0 w1 h0 h1 h2 h3 h4 => by
    simp [entryOf, h0, h1, h2, h3, h4, mapE8]) rfl hf
theorem vredIand (r : RArgs) : Statement (.vredIand r) := fun hw hf _ => by
  exact decode_of_entry (rEntry r ⟨by decide, by decide, by decide, by decide⟩ hw fun w0 w1 h0 h1 h2 h3 h4 => by
    simp [entryOf, h0, h1, h2, h3, h4, mapE8]) rfl hf
theorem vredIor (r : RArgs) : Statement (.vredIor r) := fun hw hf _ => by
  exact decode_of_entry (rEntry r ⟨by decide, by decide, by decide, by decide⟩ hw fun w0 w1 h0 h1 h2 h3 h4 => by
    simp [entryOf, h0, h1, h2, h3, h4, mapE8]) rfl hf
theorem vredFadd (r : RArgs) : Statement (.vredFadd r) := fun hw hf _ => by
  exact decode_of_entry (rEntry r ⟨by decide, by decide, by decide, by decide⟩ hw fun w0 w1 h0 h1 h2 h3 h4 => by
    simp [entryOf, h0, h1, h2, h3, h4, mapE8]) rfl hf
theorem vredFmax (r : RArgs) : Statement (.vredFmax r) := fun hw hf _ => by
  exact decode_of_entry (rEntry r ⟨by decide, by decide, by decide, by decide⟩ hw fun w0 w1 h0 h1 h2 h3 h4 => by
    simp [entryOf, h0, h1, h2, h3, h4, mapE8]) rfl hf
theorem vredFmin (r : RArgs) : Statement (.vredFmin r) := fun hw hf _ => by
  exact decode_of_entry (rEntry r ⟨by decide, by decide, by decide, by decide⟩ hw fun w0 w1 h0 h1 h2 h3 h4 => by
    simp [entryOf, h0, h1, h2, h3, h4, mapE8]) rfl hf
theorem vmovMov (r : RArgs) : Statement (.vmovMov r) := fun hw hf _ => by
  exact decode_of_entry (rEntry r ⟨by decide, by decide, by decide, by decide⟩ hw fun w0 w1 h0 h1 h2 h3 h4 => by
    simp [entryOf, h0, h1, h2, h3, h4, mapE8]) rfl hf
theorem vmovSel (r : RArgs) : Statement (.vmovSel r) := fun hw hf _ => by
  exact decode_of_entry (rEntry r ⟨by decide, by decide, by decide, by decide⟩ hw fun w0 w1 h0 h1 h2 h3 h4 => by
    simp [entryOf, h0, h1, h2, h3, h4, mapE8]) rfl hf
theorem vmovQpush (r : RArgs) : Statement (.vmovQpush r) := fun hw hf _ => by
  exact decode_of_entry (rEntry r ⟨by decide, by decide, by decide, by decide⟩ hw fun w0 w1 h0 h1 h2 h3 h4 => by
    simp [entryOf, h0, h1, h2, h3, h4, mapE8]) rfl hf
theorem vmovQpop (r : RArgs) : Statement (.vmovQpop r) := fun hw hf _ => by
  exact decode_of_entry (rEntry r ⟨by decide, by decide, by decide, by decide⟩ hw fun w0 w1 h0 h1 h2 h3 h4 => by
    simp [entryOf, h0, h1, h2, h3, h4, mapE8]) rfl hf
theorem xaccXacc (r : RArgs) : Statement (.xaccXacc r) := fun hw hf _ => by
  exact decode_of_entry (rEntry r ⟨by decide, by decide, by decide, by decide⟩ hw fun w0 w1 h0 h1 h2 h3 h4 => by
    simp [entryOf, h0, h1, h2, h3, h4, mapE8]) rfl hf
theorem xaccXacci (r : RArgs) : Statement (.xaccXacci r) := fun hw hf _ => by
  exact decode_of_entry (rEntry r ⟨by decide, by decide, by decide, by decide⟩ hw fun w0 w1 h0 h1 h2 h3 h4 => by
    simp [entryOf, h0, h1, h2, h3, h4, mapE8]) rfl hf
theorem xaccXrnd (r : RArgs) : Statement (.xaccXrnd r) := fun hw hf _ => by
  exact decode_of_entry (rEntry r ⟨by decide, by decide, by decide, by decide⟩ hw fun w0 w1 h0 h1 h2 h3 h4 => by
    simp [entryOf, h0, h1, h2, h3, h4, mapE8]) rfl hf
theorem nop : Statement .nop := fun _ _ _ => by decide
theorem enop : Statement .enop := fun _ _ _ => by decide
theorem trapResume : Statement .trapResume := fun _ _ _ => by decide
theorem taskDone : Statement .taskDone := fun _ _ _ => by decide
theorem taskYield : Statement .taskYield := fun _ _ _ => by decide
theorem mxMbegin : Statement .mxMbegin := fun _ _ _ => by decide
theorem mxMend : Statement .mxMend := fun _ _ _ => by decide
theorem mxMwait : Statement .mxMwait := fun _ _ _ => by decide
theorem waitwWake : Statement .waitwWake := fun _ _ h => absurd rfl h
theorem handoverArrival : Statement .handoverArrival := fun _ _ h => absurd rfl h
theorem copyComplete : Statement .copyComplete := fun _ _ h => absurd rfl h
theorem copyFailed : Statement .copyFailed := fun _ _ h => absurd rfl h
theorem multicastDelivery : Statement .multicastDelivery := fun _ _ h => absurd rfl h
theorem multicastAllFreed : Statement .multicastAllFreed := fun _ _ h => absurd rfl h
theorem mtileStep : Statement .mtileStep := fun _ _ h => absurd rfl h
theorem mcmdArrival : Statement .mcmdArrival := fun _ _ h => absurd rfl h
theorem hprioBoostEnd : Statement .hprioBoostEnd := fun _ _ h => absurd rfl h
theorem streamDeadlock : Statement .streamDeadlock := fun _ _ h => absurd rfl h
theorem parkedStoreReplay : Statement .parkedStoreReplay := fun _ _ h => absurd rfl h
theorem tlbWalk : Statement .tlbWalk := fun _ _ h => absurd rfl h
theorem launchKick : Statement .launchKick := fun _ _ h => absurd rfl h
theorem launchPacket : Statement .launchPacket := fun _ _ h => absurd rfl h
theorem loadrefPacket : Statement .loadrefPacket := fun _ _ h => absurd rfl h
theorem unloadPacket : Statement .unloadPacket := fun _ _ h => absurd rfl h
theorem unloadTakesEffect : Statement .unloadTakesEffect := fun _ _ h => absurd rfl h
theorem markerPacket : Statement .markerPacket := fun _ _ h => absurd rfl h
theorem markerComplete : Statement .markerComplete := fun _ _ h => absurd rfl h
theorem serialLaunchStart : Statement .serialLaunchStart := fun _ _ h => absurd rfl h
theorem objectLoad : Statement .objectLoad := fun _ _ h => absurd rfl h
theorem stationFire : Statement .stationFire := fun _ _ h => absurd rfl h
theorem gatherLimitExpiry : Statement .gatherLimitExpiry := fun _ _ h => absurd rfl h
theorem parkedFiringResume : Statement .parkedFiringResume := fun _ _ h => absurd rfl h
theorem lookForWork : Statement .lookForWork := fun _ _ h => absurd rfl h
theorem preempt : Statement .preempt := fun _ _ h => absurd rfl h
theorem contextSave : Statement .contextSave := fun _ _ h => absurd rfl h
theorem watchdogStopExpiry : Statement .watchdogStopExpiry := fun _ _ h => absurd rfl h
theorem watchdogSaveExpiry : Statement .watchdogSaveExpiry := fun _ _ h => absurd rfl h
theorem contextRestore : Statement .contextRestore := fun _ _ h => absurd rfl h
theorem threadResume : Statement .threadResume := fun _ _ h => absurd rfl h
theorem contextKill : Statement .contextKill := fun _ _ h => absurd rfl h
theorem contextCreate : Statement .contextCreate := fun _ _ h => absurd rfl h
theorem contextDestroy : Statement .contextDestroy := fun _ _ h => absurd rfl h
theorem holdingAdd : Statement .holdingAdd := fun _ _ h => absurd rfl h
theorem hostHandover : Statement .hostHandover := fun _ _ h => absurd rfl h
theorem shootdown : Statement .shootdown := fun _ _ h => absurd rfl h
theorem attest : Statement .attest := fun _ _ h => absurd rfl h
theorem loadKey : Statement .loadKey := fun _ _ h => absurd rfl h
theorem unloadKey : Statement .unloadKey := fun _ _ h => absurd rfl h
theorem gangStop : Statement .gangStop := fun _ _ h => absurd rfl h
theorem debugHalt : Statement .debugHalt := fun _ _ h => absurd rfl h
theorem belfryResume : Statement .belfryResume := fun _ _ h => absurd rfl h
theorem debugAccess : Statement .debugAccess := fun _ _ h => absurd rfl h
theorem errorInjection : Statement .errorInjection := fun _ _ h => absurd rfl h
theorem partitionConfig : Statement .partitionConfig := fun _ _ h => absurd rfl h
theorem bringUp : Statement .bringUp := fun _ _ h => absurd rfl h
theorem supplyDroop : Statement .supplyDroop := fun _ _ h => absurd rfl h
theorem thermalTrip : Statement .thermalTrip := fun _ _ h => absurd rfl h
theorem spanLinkDown : Statement .spanLinkDown := fun _ _ h => absurd rfl h
theorem poolLinkDown : Statement .poolLinkDown := fun _ _ h => absurd rfl h
theorem scrub : Statement .scrub := fun _ _ h => absurd rfl h
theorem uncorrectableError : Statement .uncorrectableError := fun _ _ h => absurd rfl h
theorem arrayCommandCompletion : Statement .arrayCommandCompletion := fun _ _ h => absurd rfl h
theorem generationBoundary : Statement .generationBoundary := fun _ _ h => absurd rfl h
theorem storePerformed : Statement .storePerformed := fun _ _ h => absurd rfl h
theorem queueEntryReadable : Statement .queueEntryReadable := fun _ _ h => absurd rfl h
theorem copyContinues : Statement .copyContinues := fun _ _ h => absurd rfl h
theorem supplyRecovery : Statement .supplyRecovery := fun _ _ h => absurd rfl h
theorem partitionReset : Statement .partitionReset := fun _ _ h => absurd rfl h
theorem hostNodeAccess : Statement .hostNodeAccess := fun _ _ h => absurd rfl h

theorem mapA8_hint (op fn : Nat) (r : RArgs) (i : IArgs) (m : MArgs) (j : JArgs) (h : 115 ≤ op) (h1 : op < 128) : mapA8 op fn r i m j = none := by
  interval_cases op <;> rfl

theorem mapE8_hint (op fn : Nat) (r : RArgs) (i : IArgs) (m : MArgs) (j : JArgs) (h : 112 ≤ op) (h1 : op < 128) : mapE8 op fn r i m j = none := by
  interval_cases op <;> rfl

theorem mapA12_hint (op fn : Nat) (r : RArgs) (i : IArgs) (e : Nat) (h : 112 ≤ op) (h1 : op < 128) : mapA12 op fn r i e = none := by
  interval_cases op <;> rfl

theorem mapE12_hint (op fn : Nat) (r : RArgs) (i : IArgs) (e : Nat) (h : 112 ≤ op) (h1 : op < 128) : mapE12 op fn r i e = none := by
  interval_cases op <;> rfl

theorem mapA16_hint (op fn : Nat) (r : RArgs) (e : Nat) (h : 112 ≤ op) (h1 : op < 128) : mapA16 op fn r e = none := by
  interval_cases op <;> rfl

theorem hintNop (h : HArgs) : Statement (.hintNop h) := by
  obtain ⟨len, st, op, fn, r, ext⟩ := h
  intro hw hf _
  simp only [Instr.wellFormed, HArgs.fits, Bool.and_eq_true, decide_eq_true_eq, Bool.not_eq_true', Bool.and_eq_false_iff,
    decide_eq_false_iff_not] at hw
  obtain ⟨⟨⟨⟨⟨⟨⟨h0, h1⟩, h2⟩, h3⟩, h4⟩, h5⟩, h6⟩, h7⟩ := hw
  have key : entryOf (word0 len st op fn r.d r.a r.b) (rWord1 r) ext = some (.hintNop ⟨len, st, op, fn, r, ext⟩) :=
    rEntry r ⟨by omega, h1, h3, h4⟩ h5 fun w0 w1 e0 e1 e2 e3 e4 => by
      have hlen : len = 0 ∨ len = 1 ∨ len = 2 := by omega
      have hst : st = 0 ∨ st = 1 := by omega
      rcases hlen with rfl | rfl | rfl <;> rcases hst with rfl | rfl <;>
        simp [entryOf, e0, e1, e2, e3, e4, h2, h3, mapE8_hint, mapA12_hint, mapE12_hint, mapA16_hint]
      rw [mapA8_hint _ _ _ _ _ _ (by omega) (by omega)]; rfl
  have hx : decodeWords (encode (.hintNop ⟨len, st, op, fn, r, ext⟩)) = decode (word0 len st op fn r.d r.a r.b) (rWord1 r) ext := by
    have hlen : len = 0 ∨ len = 1 ∨ len = 2 := by omega
    rcases hlen with rfl | rfl | rfl
    · have : ext = 0 := by simp at h6; omega
      subst this; rfl
    · simp [encode, hWords, rWords, decodeWords, wordsExt]
    · simp only [encode, hWords, rWords, decodeWords, List.cons_append, List.nil_append, wordsExt_two]
  rw [hx]; exact decode_of_entry key rfl hf

end Laws.RoundTrip

end Sys2Proof
end

