-- ==== Sys2Proof/Laws/Step.lean ====
section
/-! SUPPORT. Everything that a step can do: the chosen move is made, and a cycle passes. -/

namespace Sys2Proof.Machine

@[simp] theorem State.tick_mem (s : State) : s.tick.mem = s.mem := rfl
@[simp] theorem State.tick_reports (s : State) : s.tick.reports = s.reports := rfl
@[simp] theorem State.tick_agenda (s : State) : s.tick.agenda = s.agenda := rfl
@[simp] theorem State.tick_clock (s : State) : s.tick.clock = s.clock + 1 := rfl
@[simp] theorem tickOut_next (s : State) : tickOut (.next s) = .next s.tick := rfl

theorem tickOut_cases {o : Out} {t : State} (h : tickOut o = .next t) : ∃ u, o = .next u ∧ t = u.tick := by
  match o, h with
  | .next u, h => exact ⟨u, rfl, (Host.Outcome.next.inj h).symm⟩
  | .fault f, h => exact nomatch h
  | .refused f, h => exact nomatch h

/-- A step that goes on has made a move and let a cycle pass, or let a cycle pass where nothing is to be done. -/
theorem step_cases {s t : State} (h : step s = .next t) :
    (∃ s1 m u, s.choose = (s1, some m) ∧ s1.make m = .next u ∧ t = u.tick) ∨ (∃ s1, s.choose = (s1, none) ∧ t = s1.tick) := by
  unfold step State.advance at h
  split at h
  · rename_i s1 m hc
    obtain ⟨u, hu, rfl⟩ := tickOut_cases h
    exact .inl ⟨s1, m, u, hc, hu, rfl⟩
  · rename_i s1 hc
    exact .inr ⟨s1, hc, (Host.Outcome.next.inj h).symm⟩

@[simp] theorem State.nextCore_mem (s : State) : s.nextCore.mem = s.mem := by
  unfold State.nextCore; simp only; split <;> simp

theorem State.policy_mem (s : State) : s.policy.1.mem = s.mem := by
  unfold State.policy
  simp only
  split
  · split <;> simp
  · split <;> simp

/-- Choosing a move changes no memory. -/
theorem State.choose_mem (s : State) : s.choose.1.mem = s.mem := by
  unfold State.choose
  split
  · rfl
  · rfl
  · exact State.policy_mem s
  · rfl

/-- Everything that a move can be: the row of an engine, the issue of a stream of a thread that runs, or nothing. -/
theorem State.make_cases (s : State) (m : Move) :
    (∃ i r, m = .event i r ∧ Instr.isEvent i = true ∧ s.make m = exec i { s with req := r }) ∨
    (∃ t e, m = .run t e ∧ (s.focus t).ctx.runs = true ∧ (s.focus t).thr.status = .running ∧
      s.make m = if e then (s.focus t).issueE else (s.focus t).issueA) ∨
    s.make m = .next s := by
  cases m with
  | event i r =>
    by_cases h : Instr.isEvent i = true
    · exact .inl ⟨i, r, rfl, h, by simp [State.make, h]⟩
    · exact .inr (.inr (by simp [State.make, h]))
  | run t e =>
    by_cases h : (s.focus t).ctx.runs && (s.focus t).ctx.hasVc (s.focus t).vc.id && decide ((s.focus t).thr.status = .running)
    · have h' := h
      simp only [Bool.and_eq_true, decide_eq_true_eq] at h'
      exact .inr (.inl ⟨t, e, rfl, h'.1.1, h'.2, by simp only [State.make]; rw [if_pos h]⟩)
    · exact .inr (.inr (by simp only [State.make]; rw [if_neg h]))

end Sys2Proof.Machine
end

