-- ==== Sys2Proof/Laws/Walks.lean ====
section
/-! SUPPORT. What a walk of the page tables and a read by the hardware answer within one granule of 64 KiB. -/

namespace Sys2Proof.Machine

/-- A walk reads the tables at the same places for every address of one granule of 64 KiB (R359). -/
theorem walkIndex_granule {va vb : Nat} (h : vb / 65536 = va / 65536) (lv : Nat) : walkIndex vb lv = walkIndex va lv := by
  unfold walkIndex; split <;> omega
theorem walkFrom_granule {va vb : Nat} (h : vb / 65536 = va / 65536) (m : Memory) (n lv t : Nat) : walkFrom m vb n lv t = walkFrom m va n lv t := by
  induction n generalizing lv t with
  | zero => rfl
  | succ n ih => simp only [walkFrom, walkIndex_granule h lv, ih]

/-- A byte that the hardware reads from a slice, below the windows. -/
theorem State.hwByte_leaf {s : State} {va pte lv a : Nat} {own : Bool} (hw : s.walk va = .leaf pte lv a) (win : findWindow s.windows va = none)
    (lo : 0x1000000 ≤ va) (hi : va < 2 ^ 56) (tail : inTail s.ctx.nmax va 1 = false) (pt : paTail (leafAddr pte lv va) 1 = false)
    (hk : leafAddr pte lv va < 0x80000000000) : s.hwByte va own = some (s.mem.read (leafAddr pte lv va)) := by
  have b : busOf (pteSlot pte) (leafAddr pte lv va) = leafAddr pte lv va := by unfold busOf; rw [if_pos hk]
  have hp : paOf (leafAddr pte lv va) = leafAddr pte lv va := by unfold paOf; omega
  have l : s.linkFails (leafAddr pte lv va) = none := by
    unfold State.linkFails isPool isFar; rw [hp]
    rw [if_neg (by simp; omega), if_neg (by simp; omega)]
  have r : s.hwBus .read va own = .ok (leafAddr pte lv va) := by
    unfold State.hwBus
    rw [if_neg (by omega), if_neg (by rw [tail]; decide), if_neg (by simp [inGuard]; omega), if_neg (by omega), hw]
    simp only [pt, b, l, hk, decide_true, Bool.true_or, Bool.not_true]
    rfl
  unfold State.hwByte
  rw [win]
  simp only [r, Except.toOption, Option.map_some, State.busByte, if_pos hk]

/-- Bytes that the hardware reads from one page of 64 KiB of a slice, below the windows. -/
theorem State.hwRead_page {s : State} {va n pte a : Nat} {own : Bool} (hw : s.walk va = .leaf pte 5 a) (win : ∀ i, i < n → findWindow s.windows (va + i) = none)
    (lo : 0x1000000 ≤ va) (hi : va + n ≤ 2 ^ 56) (pg : va % 65536 + n ≤ 65536)
    (tail : ∀ i, i < n → inTail s.ctx.nmax (va + i) 1 = false ∧ paTail (leafAddr pte 5 va + i) 1 = false)
    (hk : leafAddr pte 5 va + n ≤ 0x80000000000) : s.hwRead va n own = some (s.mem.readN (leafAddr pte 5 va) n) := by
  have one : ∀ i, i < n → s.hwByte (va + i) own = some (s.mem.read (leafAddr pte 5 va + i)) := by
    intro i hi'
    have w : s.walk (va + i) = .leaf pte 5 a := by rw [← hw]; exact walkFrom_granule (by omega) _ _ _ _
    have l : leafAddr pte 5 (va + i) = leafAddr pte 5 va + i := by simp only [leafAddr, pageSize]; omega
    rw [← l]
    exact State.hwByte_leaf w (win i hi') (by omega) (by omega) (tail i hi').1 (by rw [l]; exact (tail i hi').2) (by rw [l]; omega)
  have all : ∀ k i, i + k ≤ n → (List.range' i k).mapM (fun j => s.hwByte (va + j) own) = some (s.mem.readN (leafAddr pte 5 va + i) k) := by
    intro k
    induction k with
    | zero => intro i _; rfl
    | succ k ih =>
      intro i h
      have e := ih (i + 1) (by omega)
      rw [List.range'_succ, List.mapM_cons, one i (by omega), e, Memory.readN, Nat.add_assoc]
      generalize s.mem.readN (leafAddr pte 5 va + (i + 1)) k = bs
      rfl
  have e := all n 0 (by omega)
  rw [Nat.add_zero] at e
  unfold State.hwRead
  rw [List.range_eq_range']
  exact e

end Sys2Proof.Machine
end

