-- ==== Sys2Proof/Tests/Slice0.lean ====
section
/-! SUPPORT. Tests: ill-formed terms that WellFormed refuses, words written out from the encodings of the spec, single steps with the
results that the spec's rules and examples give, and witnesses that the hypotheses of the statements can be met. -/

namespace Sys2Proof.Tests

set_option Elab.async false

open Sys2Proof.Machine Sys2Proof.Claims

/-! ## WellFormed refuses -/

/-- Fields that do not fit their bits, an FN that its major does not have, a hint entry that is an implemented hint or too long. -/
theorem test_ill_formed :
    (Instr.ialuAdd ⟨64, 0, 0, 0, 0, 0, 0, 0⟩).wellFormed = false ∧ (Instr.ialuAdd ⟨0, 64, 0, 0, 0, 0, 0, 0⟩).wellFormed = false ∧
    (Instr.ialuAdd ⟨0, 0, 64, 0, 0, 0, 0, 0⟩).wellFormed = false ∧ (Instr.ialuAdd ⟨0, 0, 0, 64, 0, 0, 0, 0⟩).wellFormed = false ∧
    (Instr.ialuAdd ⟨0, 0, 0, 0, 8, 0, 0, 0⟩).wellFormed = false ∧ (Instr.ialuAdd ⟨0, 0, 0, 0, 0, 8, 0, 0⟩).wellFormed = false ∧
    (Instr.ialuAdd ⟨0, 0, 0, 0, 0, 0, 16, 0⟩).wellFormed = false ∧ (Instr.ialuAdd ⟨0, 0, 0, 0, 0, 0, 0, 65536⟩).wellFormed = false ∧
    (Instr.liLi ⟨0, 0, 0, 4294967296⟩).wellFormed = false ∧ (Instr.liLi ⟨0, 0, 64, 0⟩).wellFormed = false ∧
    (Instr.ld 0 ⟨0, 0, 0, 4, 0, 0, 0, 0, 0⟩).wellFormed = false ∧ (Instr.ld 0 ⟨0, 0, 0, 0, 8, 0, 0, 0, 0⟩).wellFormed = false ∧
    (Instr.ld 0 ⟨0, 0, 0, 0, 0, 8, 0, 0, 0⟩).wellFormed = false ∧ (Instr.ld 0 ⟨0, 0, 0, 0, 0, 0, 8, 0, 0⟩).wellFormed = false ∧
    (Instr.ld 0 ⟨0, 0, 0, 0, 0, 0, 0, 2, 0⟩).wellFormed = false ∧ (Instr.ld 0 ⟨0, 0, 0, 0, 0, 0, 0, 0, 1048576⟩).wellFormed = false ∧
    (Instr.br 0 ⟨0, 0, 0, 4294967296⟩).wellFormed = false ∧ (Instr.br 6 ⟨0, 0, 0, 0⟩).wellFormed = false ∧
    (Instr.vialuImm 0 ⟨⟨0, 0, 0, 0, 0, 0, 0, 0⟩, 4294967296⟩).wellFormed = false ∧
    (Instr.li64 ⟨⟨0, 0, 0, 0⟩, 4294967296⟩).wellFormed = false ∧
    (Instr.spawnq ⟨⟨0, 0, 0, 0, 0, 0, 0, 0⟩, 18446744073709551616⟩).wellFormed = false ∧
    (Instr.hintNop ⟨0, 0, 112, 0, ⟨0, 0, 0, 0, 0, 0, 0, 0⟩, 0⟩).wellFormed = false ∧
    (Instr.hintNop ⟨0, 0, 111, 0, ⟨0, 0, 0, 0, 0, 0, 0, 0⟩, 0⟩).wellFormed = false ∧
    (Instr.hintNop ⟨3, 0, 127, 0, ⟨0, 0, 0, 0, 0, 0, 0, 0⟩, 0⟩).wellFormed = false ∧
    (Instr.hintNop ⟨0, 1, 127, 0, ⟨0, 0, 0, 0, 0, 0, 0, 0⟩, 1⟩).wellFormed = false ∧ Tid.fits ⟨64, 0, 0⟩ = false := by decide

/-! ## Words written out from the encodings of the spec -/

/-- An entry of the hint region that is no implemented hint (R54): LEN 1, ST 1, OP 0x7F, FN 3, D 5. -/
theorem test_word_hint :
    decodeTableWord 96 0x700000000000000000014FFD = some (.hintNop ⟨1, 1, 127, 3, ⟨5, 0, 0, 0, 0, 0, 0, 0⟩, 0x70000000⟩) := by decide

/-- From the encodings of the spec: `ialu.sub.w32 s3,s4,s5`; `ialui.shl.w64 s6,s6,3`; `imul.mul.w64 s6,s5,s20`; `icmp.ltn.w64 s9,s10,s13`; `icmpi.lt.w64 s9,s4,3`; `bits.bfx.w64.pos8.len4 s5,s6`; `sel s5,s6,s7,s8`. -/
theorem test_decode_scalar_arithmetic_1 :
    decodeTableWord 64 0x2001440C410 = some (.ialuSub ⟨3, 4, 5, 0, 0, 1, 0, 0⟩) ∧
    decodeTableWord 64 0x300619818 = some (.ialuiShl ⟨6, 6, 0, 3⟩) ∧
    decodeTableWord 64 0x50518020 = some (.imulMul ⟨6, 5, 20, 0, 0, 0, 0, 0⟩) ∧
    decodeTableWord 64 0x34A25028 = some (.icmp 4 ⟨9, 10, 13, 0, 0, 0, 0, 0⟩) ∧
    decodeTableWord 64 0x300424830 = some (.icmpi 2 ⟨9, 4, 0, 3⟩) ∧
    decodeTableWord 64 0x108000000615C38 = some (.bitsBfx ⟨5, 6, 0, 0, 0, 0, 0, 264⟩) ∧
    decodeTableWord 64 0x81C614040 = some (.sel ⟨5, 6, 7, 8, 0, 0, 0, 0⟩) := by decide

/-- From the encodings of the spec: `li.lih s7,s7,0x100`; `li64 s7,0x0100_0940_1000`; `lane.lkey.ln3 s7`; `link.linkrd.l3 s30`. -/
theorem test_decode_scalar_arithmetic_2 :
    decodeTableWord 64 0x1000071C448 = some (.liLih ⟨7, 7, 0, 256⟩) ∧
    decodeTableWord 96 0x100094010000001C049 = some (.li64 ⟨⟨7, 0, 0, 155193344⟩, 256⟩) ∧
    decodeTableWord 64 0x300000001C850 = some (.laneLkey ⟨7, 0, 0, 0, 0, 0, 0, 3⟩) ∧
    decodeTableWord 64 0x30000000788D0 = some (.linkLinkrd ⟨30, 0, 0, 0, 0, 0, 0, 3⟩) := by decide

/-- From the encodings of the spec: `jmp.calll s63,s62`; `ctl.ctlrd.cycle s5`; `ctl.ctlclr.fpflags s0,s9`; `trap.brk 0`; `trap.resume`. -/
theorem test_decode_control :
    decodeTableWord 64 0x3EFD088 = some (.jmpCalll ⟨63, 62, 0, 0⟩) ∧
    decodeTableWord 64 0x20000000014180 = some (.ctlCtlrd ⟨5, 0, 0, 0, 0, 0, 0, 32⟩) ∧
    decodeTableWord 64 0x10000000900D80 = some (.ctlCtlclr ⟨0, 9, 0, 0, 0, 0, 0, 16⟩) ∧
    decodeTableWord 64 0x588 = some (.trapBrk ⟨0, 0, 0, 0, 0, 0, 0, 0⟩) ∧
    decodeTableWord 64 0x988 = some .trapResume := by decide

/-- From the encodings of the spec: `st.b64.rel.dev [s11+16],s6`; `vlq.i16 q0,[s10]`; `vsq.sz16 [s12],q4`; `gathq.w32 q1,[s3+q5<<2]`; `scatq.sz32 [s3+q5<<2],q6`; `qop.qpushs.w64 q0,s5`; `qop.xsync`. -/
theorem test_decode_memory_and_queues :
    decodeTableWord 64 0x1034000B18D08 = some (.st 3 ⟨6, 11, 0, 0, 0, 2, 3, 0, 16⟩) ∧
    decodeTableWord 64 0x80000A00910 = some (.vlq 2 ⟨0, 10, 0, 0, 0, 0, 0, 1, 0⟩) ∧
    decodeTableWord 64 0x80400C10118 = some (.vsq 0 ⟨4, 12, 0, 0, 1, 0, 0, 1, 0⟩) ∧
    decodeTableWord 64 0x80214305120 = some (.gathq 4 ⟨1, 3, 5, 2, 0, 0, 0, 1, 0⟩) ∧
    decodeTableWord 64 0x80A14318128 = some (.scatq 0 ⟨6, 3, 5, 2, 2, 0, 0, 1, 0⟩) ∧
    decodeTableWord 64 0x500138 = some (.qopQpushs ⟨0, 5, 0, 0, 0, 0, 0, 0⟩) ∧
    decodeTableWord 64 0xD38 = some (.qopXsync ⟨0, 0, 0, 0, 0, 0, 0, 0⟩) := by decide

/-- From the encodings of the spec: `bind.mad.l0 s9,s3,s4,s6`; `bind.add.l2 s13,s9,8`; `binde.cnt.l5 s21,s5,s12`; `vbind.mad.l9 v12,v1,v2,v3`; `vbinde.acc.l3 v20,v5,v12`; `vlink.unbind.l9`. -/
theorem test_decode_links :
    decodeTableWord 64 0x6103248C0 = some (.bind 2 ⟨9, 3, 4, 6, 0, 0, 0, 0⟩) ∧
    decodeTableWord 96 0x800020000009340C1 = some (.bindImm 0 ⟨⟨13, 9, 0, 0, 0, 0, 0, 2⟩, 8⟩) ∧
    decodeTableWord 64 0x50000305544C8 = some (.binde 1 ⟨21, 5, 12, 0, 0, 0, 0, 5⟩) ∧
    decodeTableWord 64 0x90003081308C4 = some (.vbind 2 ⟨12, 1, 2, 3, 0, 0, 0, 9⟩) ∧
    decodeTableWord 64 0x30000305500CC = some (.vbinde 0 ⟨20, 5, 12, 0, 0, 0, 0, 3⟩) ∧
    decodeTableWord 64 0x90000000000D4 = some (.vlinkUnbind ⟨0, 0, 0, 0, 0, 0, 0, 9⟩) := by decide

/-- From the encodings of the spec: `atom.add.dev s5,[s7],s8`; `cas.acq.dev s5,[s9],s0,s1`; `atomq.or [s3+q5<<2],q6`; `fence.rel.dev`; `waitw.eq.acq.dev [s9],s1`; `waitk.test s5,0x03`; `hold.hand.dev s8,s11`. -/
theorem test_decode_atomics_and_waits_1 :
    decodeTableWord 64 0x18000020714140 = some (.atomAdd ⟨5, 7, 8, 0, 0, 0, 0, 24⟩) ∧
    decodeTableWord 64 0x19000100914148 = some (.cas ⟨5, 9, 0, 1, 0, 0, 0, 25⟩) ∧
    decodeTableWord 64 0x80A14318930 = some (.atomqOr ⟨6, 3, 5, 2, 2, 0, 0, 1, 0⟩) ∧
    decodeTableWord 64 0x18000000000550 = some (.fenceRel ⟨0, 0, 0, 0, 0, 0, 0, 24⟩) ∧
    decodeTableWord 64 0x19000004900158 = some (.waitw 0 ⟨0, 9, 1, 0, 0, 0, 0, 25⟩) ∧
    decodeTableWord 64 0x3000000014568 = some (.waitkTest ⟨5, 0, 0, 0, 0, 0, 0, 3⟩) ∧
    decodeTableWord 64 0x1800002C800160 = some (.holdHand ⟨0, 8, 11, 0, 0, 0, 0, 24⟩) := by decide

/-- From the encodings of the spec: `freeb s12`. -/
theorem test_decode_atomics_and_waits_2 :
    decodeTableWord 64 0xC00170 = some (.freeb ⟨0, 12, 0, 0, 0, 0, 0, 0⟩) := by decide

/-- From the encodings of the spec: `copy.none.core k0,...`; `task.join.joff0 s5,s6`; `task.tail s5,s0,m1`; `spawn.hash...`; `spawnq`; `ppt idx 2`; `gw.gwset.w1`. -/
theorem test_decode_tasks_and_copies_1 :
    decodeTableWord 128 0x40020000000000900018042 = some (.copy 0 ⟨⟨6, 0, 0, 9, 0, 0, 0, 0⟩, 67117056⟩) ∧
    decodeTableWord 64 0x18500A00 = some (.taskJoin ⟨0, 5, 6, 0, 0, 0, 0, 0⟩) ∧
    decodeTableWord 64 0x4000500600 = some (.taskTail ⟨0, 5, 0, 0, 1, 0, 0, 0⟩) ∧
    decodeTableWord 128 0x2020000100100004000000000081400A = some (.spawn 0 ⟨⟨5, 8, 0, 0, 0, 0, 0, 0⟩, 2314850212764450820⟩) ∧
    decodeTableWord 128 0x3010000100100002000000002481D812 = some (.spawnq ⟨⟨7, 8, 9, 0, 0, 0, 0, 0⟩, 3463268117743927298⟩) ∧
    decodeTableWord 64 0x200000190 = some (.ppt ⟨0, 0, 0, 2⟩) ∧
    decodeTableWord 64 0x10020000000001C0 = some (.gwGwset ⟨0, 0, 0, 0, 0, 0, 0, 4098⟩) := by decide

/-- From the encodings of the spec: `gw.gwver.w1 s8`. -/
theorem test_decode_tasks_and_copies_2 :
    decodeTableWord 64 0x10000000000209C0 = some (.gwGwver ⟨8, 0, 0, 0, 0, 0, 0, 4096⟩) := by decide

/-- From the encodings of the spec: `mx.mend`; `mx.mclr s0,s26,128`; `mloadw.b0.n128.kb4.p8 s20,s21`; `mstream.b0.p8.kb4.skip s22,s23,s24,s25`; `mread.bf16.c128.chk s24,s26,s25`; `maddraw.c128 s8,s9,s10`; `xacc.xacc.row5.col32 v7,m1`. -/
theorem test_decode_matrix_1 :
    decodeTableWord 64 0x640 = some .mxMend ∧
    decodeTableWord 64 0x80000068000A40 = some (.mxMclr ⟨0, 0, 26, 0, 0, 0, 0, 128⟩) ∧
    decodeTableWord 128 0x44800000000055400082 = some (.mloadw 0 ⟨⟨0, 20, 21, 0, 0, 0, 0, 0⟩, 17536⟩) ∧
    decodeTableWord 128 0x10408000000185D66408A = some (.mstream 0 ⟨⟨25, 22, 23, 24, 0, 0, 0, 0⟩, 66568⟩) ∧
    decodeTableWord 128 0x10800000000069864492 = some (.mread 1 ⟨⟨25, 24, 26, 0, 0, 0, 0, 0⟩, 4224⟩) ∧
    decodeTableWord 128 0x80000000090082809A = some (.maddraw ⟨⟨10, 8, 0, 9, 0, 0, 0, 0⟩, 128⟩) ∧
    decodeTableWord 64 0x2005004000700084 = some (.xaccXacc ⟨0, 7, 0, 0, 1, 0, 0, 8197⟩) := by decide

/-- From the encodings of the spec: `xacci`; `xrnd`; `mtile.g3 s30`. -/
theorem test_decode_matrix_2 :
    decodeTableWord 64 0x14000A00484 = some (.xaccXacci ⟨0, 10, 0, 0, 5, 0, 0, 0⟩) ∧
    decodeTableWord 64 0x100C000034884 = some (.xaccXrnd ⟨13, 0, 0, 0, 3, 0, 0, 1⟩) ∧
    decodeTableWord 128 0x1E00CA2 = some (.mtile 3 ⟨⟨0, 30, 0, 0, 0, 0, 0, 0⟩, 0⟩) := by decide

/-- From the encodings of the spec: `rload.total.b1.moore1 s5,s6`; `rstep.cheq s8,s9`. -/
theorem test_decode_rule_mode :
    decodeTableWord 128 0x100000000185004C2 = some (.rload 1 ⟨⟨0, 5, 6, 0, 0, 0, 0, 0⟩, 1⟩) ∧
    decodeTableWord 128 0x248004CA = some (.rstepCheq ⟨⟨0, 8, 9, 0, 0, 0, 0, 0⟩, 0⟩) := by decide

/-- From the encodings of the spec: `vfalu.add.f32.rne v3,v1,v2,m1`; `vimul.dot4.i8 v7,v8,v9,v7`; `vicmp.ltn.i32 m3,v3,v2,m1`; `vfunc.div.f32.rtz`; `vfcmp.lt.f32 m2,v4,v5`; `vfma.fma.f32 v4,v1,v2,0.5`; `vialu.add.i32 v2,v5,4,m1`. -/
theorem test_decode_vector_1 :
    decodeTableWord 64 0x400810C034 = some (.vfaluAdd ⟨3, 1, 2, 0, 1, 0, 0, 0⟩) ∧
    decodeTableWord 64 0x4072481D024 = some (.vimulDot4 ⟨7, 8, 9, 7, 0, 2, 0, 0⟩) ∧
    decodeTableWord 64 0x400830D02C = some (.vicmp 4 ⟨3, 3, 2, 0, 1, 0, 0, 0⟩) ∧
    decodeTableWord 64 0x10001C614044 = some (.vfuncDiv ⟨5, 6, 7, 0, 0, 0, 1, 0⟩) ∧
    decodeTableWord 64 0x1440844C = some (.vfcmp 1 ⟨2, 4, 5, 0, 0, 0, 0, 0⟩) ∧
    decodeTableWord 96 0x3F000000000000000811003D = some (.vfmaImm 0 ⟨⟨4, 1, 2, 0, 0, 0, 0, 0⟩, 1056964608⟩) ∧
    decodeTableWord 96 0x40000004000508015 = some (.vialuImm 0 ⟨⟨2, 5, 0, 0, 1, 0, 0, 0⟩, 4⟩) := by decide

/-- From the encodings of the spec: `vcvt.f32.bf16.stoch.pos1 v9,v4,v12`; `vmask.mnot m1,m2`; `vperm.slidedn.n3 v2,v3,v4`; `vred.fadd v9,v8`; `vmov.sel v4,v1,v5,m3`; `vmov.qpop v2,q1,m5`; `vmx.mxq.p4 v6,v1,m1`. -/
theorem test_decode_vector_2 :
    decodeTableWord 64 0x8520C00424054 = some (.vcvt 0 ⟨9, 4, 0, 12, 0, 1, 5, 8⟩) ∧
    decodeTableWord 64 0x205064 = some (.vmaskMnot ⟨1, 2, 0, 0, 0, 0, 0, 0⟩) ∧
    decodeTableWord 64 0x3000001030886C = some (.vpermSlidedn ⟨2, 3, 4, 0, 0, 0, 0, 48⟩) ∧
    decodeTableWord 64 0x825474 = some (.vredFadd ⟨9, 8, 0, 0, 0, 0, 0, 0⟩) ∧
    decodeTableWord 64 0xC01411047C = some (.vmovSel ⟨4, 1, 5, 0, 3, 0, 0, 0⟩) ∧
    decodeTableWord 64 0x500108C7C = some (.vmovQpop ⟨2, 1, 0, 5, 0, 0, 0, 0⟩) ∧
    decodeTableWord 64 0x4000400011805C = some (.vmxMxq ⟨6, 1, 0, 0, 1, 0, 0, 64⟩) := by decide

/-- From the encodings of the spec: `hprio 64`; `hgather s1`. -/
theorem test_decode_hints :
    decodeTableWord 64 0x4000000388 = some (.hprio 0 ⟨0, 0, 0, 64⟩) ∧
    decodeTableWord 64 0x100390 = some (.hgather 0 ⟨0, 1, 0, 0, 0, 0, 0, 0⟩) := by decide

/-! One word for every instruction, with its fields laid out as R42 to R50 say and its OP and FN as the maps of R56 and R57 say. -/

theorem test_word_1 :
    decodeTableWord 64 0x20050914010 = some (.ialuAdd ⟨5, 9, 20, 0, 0, 1, 0, 0⟩) ∧
    decodeTableWord 64 0x20050914410 = some (.ialuSub ⟨5, 9, 20, 0, 0, 1, 0, 0⟩) ∧
    decodeTableWord 64 0x20050914810 = some (.ialuAnd ⟨5, 9, 20, 0, 0, 1, 0, 0⟩) ∧
    decodeTableWord 64 0x20050914C10 = some (.ialuOr ⟨5, 9, 20, 0, 0, 1, 0, 0⟩) ∧
    decodeTableWord 64 0x20050915010 = some (.ialuXor ⟨5, 9, 20, 0, 0, 1, 0, 0⟩) ∧
    decodeTableWord 64 0x20050915410 = some (.ialuAndn ⟨5, 9, 20, 0, 0, 1, 0, 0⟩) ∧
    decodeTableWord 64 0x20050915810 = some (.ialuShl ⟨5, 9, 20, 0, 0, 1, 0, 0⟩) ∧
    decodeTableWord 64 0x20050915C10 = some (.ialuShr ⟨5, 9, 20, 0, 0, 1, 0, 0⟩) ∧
    decodeTableWord 64 0x20050916010 = some (.ialuSar ⟨5, 9, 20, 0, 0, 1, 0, 0⟩) ∧
    decodeTableWord 64 0x20050916410 = some (.ialuRotl ⟨5, 9, 20, 0, 0, 1, 0, 0⟩) ∧
    decodeTableWord 64 0x20050916810 = some (.ialuMin ⟨5, 9, 20, 0, 0, 1, 0, 0⟩) ∧
    decodeTableWord 64 0x20050916C10 = some (.ialuMax ⟨5, 9, 20, 0, 0, 1, 0, 0⟩) ∧
    decodeTableWord 64 0x20050917010 = some (.ialuMinn ⟨5, 9, 20, 0, 0, 1, 0, 0⟩) ∧
    decodeTableWord 64 0x20050917410 = some (.ialuMaxn ⟨5, 9, 20, 0, 0, 1, 0, 0⟩) ∧
    decodeTableWord 64 0x20050917810 = some (.ialuAddsat ⟨5, 9, 20, 0, 0, 1, 0, 0⟩) ∧
    decodeTableWord 64 0x20050917C10 = some (.ialuSubsat ⟨5, 9, 20, 0, 0, 1, 0, 0⟩) := by decide

theorem test_word_2 :
    decodeTableWord 64 0x1234567804914018 = some (.ialuiAdd ⟨5, 9, 1, 305419896⟩) ∧
    decodeTableWord 64 0x1234567804914418 = some (.ialuiSub ⟨5, 9, 1, 305419896⟩) ∧
    decodeTableWord 64 0x1234567804914818 = some (.ialuiAnd ⟨5, 9, 1, 305419896⟩) ∧
    decodeTableWord 64 0x1234567804914C18 = some (.ialuiOr ⟨5, 9, 1, 305419896⟩) ∧
    decodeTableWord 64 0x1234567804915018 = some (.ialuiXor ⟨5, 9, 1, 305419896⟩) ∧
    decodeTableWord 64 0x1234567804915418 = some (.ialuiAndn ⟨5, 9, 1, 305419896⟩) ∧
    decodeTableWord 64 0x1234567804915818 = some (.ialuiShl ⟨5, 9, 1, 305419896⟩) ∧
    decodeTableWord 64 0x1234567804915C18 = some (.ialuiShr ⟨5, 9, 1, 305419896⟩) ∧
    decodeTableWord 64 0x1234567804916018 = some (.ialuiSar ⟨5, 9, 1, 305419896⟩) ∧
    decodeTableWord 64 0x1234567804916418 = some (.ialuiRotl ⟨5, 9, 1, 305419896⟩) ∧
    decodeTableWord 64 0x1234567804916818 = some (.ialuiMin ⟨5, 9, 1, 305419896⟩) ∧
    decodeTableWord 64 0x1234567804916C18 = some (.ialuiMax ⟨5, 9, 1, 305419896⟩) ∧
    decodeTableWord 64 0x1234567804917018 = some (.ialuiMinn ⟨5, 9, 1, 305419896⟩) ∧
    decodeTableWord 64 0x1234567804917418 = some (.ialuiMaxn ⟨5, 9, 1, 305419896⟩) ∧
    decodeTableWord 64 0x1234567804917818 = some (.ialuiAddsat ⟨5, 9, 1, 305419896⟩) ∧
    decodeTableWord 64 0x1234567804917C18 = some (.ialuiSubsat ⟨5, 9, 1, 305419896⟩) := by decide

theorem test_word_3 :
    decodeTableWord 64 0x20050914020 = some (.imulMul ⟨5, 9, 20, 0, 0, 1, 0, 0⟩) ∧
    decodeTableWord 64 0x20050914420 = some (.imulMulhs ⟨5, 9, 20, 0, 0, 1, 0, 0⟩) ∧
    decodeTableWord 64 0x20050914820 = some (.imulMulhn ⟨5, 9, 20, 0, 0, 1, 0, 0⟩) ∧
    decodeTableWord 64 0x20350914C20 = some (.imulMadd ⟨5, 9, 20, 3, 0, 1, 0, 0⟩) ∧
    decodeTableWord 64 0x20350915020 = some (.imulMsub ⟨5, 9, 20, 3, 0, 1, 0, 0⟩) ∧
    decodeTableWord 64 0x20050915420 = some (.imulDivs ⟨5, 9, 20, 0, 0, 1, 0, 0⟩) ∧
    decodeTableWord 64 0x20050915820 = some (.imulDivn ⟨5, 9, 20, 0, 0, 1, 0, 0⟩) ∧
    decodeTableWord 64 0x20050915C20 = some (.imulRems ⟨5, 9, 20, 0, 0, 1, 0, 0⟩) ∧
    decodeTableWord 64 0x20050916020 = some (.imulRemn ⟨5, 9, 20, 0, 0, 1, 0, 0⟩) ∧
    decodeTableWord 64 0x20050915428 = some (.icmp 5 ⟨5, 9, 20, 0, 0, 1, 0, 0⟩) ∧
    decodeTableWord 64 0x1234567804915430 = some (.icmpi 5 ⟨5, 9, 1, 305419896⟩) := by decide

theorem test_word_4 :
    decodeTableWord 64 0x20000914038 = some (.bitsClz ⟨5, 9, 0, 0, 0, 1, 0, 0⟩) ∧
    decodeTableWord 64 0x20000914438 = some (.bitsCtz ⟨5, 9, 0, 0, 0, 1, 0, 0⟩) ∧
    decodeTableWord 64 0x20000914838 = some (.bitsPopc ⟨5, 9, 0, 0, 0, 1, 0, 0⟩) ∧
    decodeTableWord 64 0x20000914C38 = some (.bitsBrev ⟨5, 9, 0, 0, 0, 1, 0, 0⟩) ∧
    decodeTableWord 64 0x20000915038 = some (.bitsBswap ⟨5, 9, 0, 0, 0, 1, 0, 0⟩) ∧
    decodeTableWord 64 0x280020000915438 = some (.bitsSext ⟨5, 9, 0, 0, 0, 1, 0, 640⟩) ∧
    decodeTableWord 64 0x280020000915838 = some (.bitsZext ⟨5, 9, 0, 0, 0, 1, 0, 640⟩) ∧
    decodeTableWord 64 0x280020000915C38 = some (.bitsBfx ⟨5, 9, 0, 0, 0, 1, 0, 640⟩) ∧
    decodeTableWord 64 0x280020050916038 = some (.bitsBfi ⟨5, 9, 20, 0, 0, 1, 0, 640⟩) ∧
    decodeTableWord 64 0x350914040 = some (.sel ⟨5, 9, 20, 3, 0, 0, 0, 0⟩) ∧
    decodeTableWord 64 0x1234567800014048 = some (.liLi ⟨5, 0, 0, 305419896⟩) ∧
    decodeTableWord 64 0x1234567800914448 = some (.liLih ⟨5, 9, 0, 305419896⟩) ∧
    decodeTableWord 64 0x1234567800014848 = some (.liAddpc ⟨5, 0, 0, 305419896⟩) ∧
    decodeTableWord 96 0x89ABCDEF1234567800014049 = some (.li64 ⟨⟨5, 0, 0, 305419896⟩, 2309737967⟩) := by decide

theorem test_word_5 :
    decodeTableWord 64 0x14050 = some (.laneLive ⟨5, 0, 0, 0, 0, 0, 0, 0⟩) ∧
    decodeTableWord 64 0x18000000014450 = some (.laneLframe ⟨5, 0, 0, 0, 0, 0, 0, 24⟩) ∧
    decodeTableWord 64 0x18000000014850 = some (.laneLkey ⟨5, 0, 0, 0, 0, 0, 0, 24⟩) ∧
    decodeTableWord 64 0x14C50 = some (.laneLmask ⟨5, 0, 0, 0, 0, 0, 0, 0⟩) ∧
    decodeTableWord 64 0x15050 = some (.laneVcore ⟨5, 0, 0, 0, 0, 0, 0, 0⟩) ∧
    decodeTableWord 64 0x15450 = some (.laneThread ⟨5, 0, 0, 0, 0, 0, 0, 0⟩) ∧
    decodeTableWord 64 0xFFFFFFFA50901480 = some (.br 5 ⟨0, 9, 20, 4294967290⟩) ∧
    decodeTableWord 64 0xFFFFFFFA00000088 = some (.jmpJmp ⟨0, 0, 0, 4294967290⟩) ∧
    decodeTableWord 64 0xFFFFFFFA00014488 = some (.jmpCall ⟨5, 0, 0, 4294967290⟩) ∧
    decodeTableWord 64 0x900888 = some (.jmpJmpr ⟨0, 9, 0, 0⟩) ∧
    decodeTableWord 64 0x914C88 = some (.jmpCallr ⟨5, 9, 0, 0⟩) ∧
    decodeTableWord 64 0x915088 = some (.jmpCalll ⟨5, 9, 0, 0⟩) ∧
    decodeTableWord 64 0x901488 = some (.jmpRet ⟨0, 9, 0, 0⟩) ∧
    decodeTableWord 64 0x1234532350915900 = some (.ld 6 ⟨5, 9, 20, 3, 0, 1, 3, 0, 74565⟩) ∧
    decodeTableWord 64 0x1234534350914D08 = some (.st 3 ⟨5, 9, 20, 3, 0, 2, 3, 0, 74565⟩) ∧
    decodeTableWord 64 0x12345B2350909110 = some (.vlq 4 ⟨2, 9, 20, 3, 0, 1, 3, 1, 74565⟩) ∧
    decodeTableWord 64 0x12345B4B50914118 = some (.vsq 0 ⟨5, 9, 20, 3, 2, 2, 3, 1, 74565⟩) ∧
    decodeTableWord 64 0x12345B231C909120 = some (.gathq 4 ⟨2, 9, 7, 3, 0, 1, 3, 1, 74565⟩) := by decide

theorem test_word_6 :
    decodeTableWord 64 0x12345B4B1C914128 = some (.scatq 0 ⟨5, 9, 7, 3, 2, 2, 3, 1, 74565⟩) ∧
    decodeTableWord 64 0x12345B4B1C914130 = some (.atomqAdd ⟨5, 9, 7, 3, 2, 2, 3, 1, 74565⟩) ∧
    decodeTableWord 64 0x12345B4B1C914530 = some (.atomqAnd ⟨5, 9, 7, 3, 2, 2, 3, 1, 74565⟩) ∧
    decodeTableWord 64 0x12345B4B1C914930 = some (.atomqOr ⟨5, 9, 7, 3, 2, 2, 3, 1, 74565⟩) ∧
    decodeTableWord 64 0x12345B4B1C914D30 = some (.atomqXor ⟨5, 9, 7, 3, 2, 2, 3, 1, 74565⟩) ∧
    decodeTableWord 64 0x12345B4B1C915130 = some (.atomqMin ⟨5, 9, 7, 3, 2, 2, 3, 1, 74565⟩) ∧
    decodeTableWord 64 0x12345B4B1C915530 = some (.atomqMax ⟨5, 9, 7, 3, 2, 2, 3, 1, 74565⟩) ∧
    decodeTableWord 64 0x12345B4B1C915930 = some (.atomqMinn ⟨5, 9, 7, 3, 2, 2, 3, 1, 74565⟩) ∧
    decodeTableWord 64 0x12345B4B1C915D30 = some (.atomqMaxn ⟨5, 9, 7, 3, 2, 2, 3, 1, 74565⟩) ∧
    decodeTableWord 64 0x20000900138 = some (.qopQpushs ⟨0, 9, 0, 0, 0, 1, 0, 0⟩) ∧
    decodeTableWord 64 0x20000414538 = some (.qopQpops ⟨5, 4, 0, 0, 0, 1, 0, 0⟩) ∧
    decodeTableWord 64 0x414938 = some (.qopQcnt ⟨5, 4, 0, 0, 0, 0, 0, 0⟩) ∧
    decodeTableWord 64 0xD38 = some (.qopXsync ⟨0, 0, 0, 0, 0, 0, 0, 0⟩) ∧
    decodeTableWord 64 0xC07000000014180 = some (.ctlCtlrd ⟨5, 0, 0, 0, 0, 0, 0, 3079⟩) ∧
    decodeTableWord 64 0xC07000000914580 = some (.ctlCtlwr ⟨5, 9, 0, 0, 0, 0, 0, 3079⟩) ∧
    decodeTableWord 64 0xC07000000914980 = some (.ctlCtlset ⟨5, 9, 0, 0, 0, 0, 0, 3079⟩) ∧
    decodeTableWord 64 0xC07000000914D80 = some (.ctlCtlclr ⟨5, 9, 0, 0, 0, 0, 0, 3079⟩) ∧
    decodeTableWord 64 0x18000000917CC0 = some (.bind 15 ⟨5, 9, 0, 0, 0, 0, 0, 24⟩) := by decide

theorem test_word_7 :
    decodeTableWord 96 0x89ABCDEF00180000009170C1 = some (.bindImm 12 ⟨⟨5, 9, 0, 0, 0, 0, 0, 24⟩, 2309737967⟩) ∧
    decodeTableWord 64 0x180000509158C8 = some (.binde 6 ⟨5, 9, 20, 0, 0, 0, 0, 24⟩) ∧
    decodeTableWord 64 0x180000000000D0 = some (.linkUnbind ⟨0, 0, 0, 0, 0, 0, 0, 24⟩) ∧
    decodeTableWord 64 0x4D0 = some (.linkUnbindall ⟨0, 0, 0, 0, 0, 0, 0, 0⟩) ∧
    decodeTableWord 64 0x180000000148D0 = some (.linkLinkrd ⟨5, 0, 0, 0, 0, 0, 0, 24⟩) ∧
    decodeTableWord 64 0x14CD0 = some (.linkLinkstat ⟨5, 0, 0, 0, 0, 0, 0, 0⟩) ∧
    decodeTableWord 64 0x18000050914140 = some (.atomAdd ⟨5, 9, 20, 0, 0, 0, 0, 24⟩) ∧
    decodeTableWord 64 0x18000050914540 = some (.atomAnd ⟨5, 9, 20, 0, 0, 0, 0, 24⟩) ∧
    decodeTableWord 64 0x18000050914940 = some (.atomOr ⟨5, 9, 20, 0, 0, 0, 0, 24⟩) ∧
    decodeTableWord 64 0x18000050914D40 = some (.atomXor ⟨5, 9, 20, 0, 0, 0, 0, 24⟩) ∧
    decodeTableWord 64 0x18000050915140 = some (.atomMin ⟨5, 9, 20, 0, 0, 0, 0, 24⟩) ∧
    decodeTableWord 64 0x18000050915540 = some (.atomMax ⟨5, 9, 20, 0, 0, 0, 0, 24⟩) ∧
    decodeTableWord 64 0x18000050915940 = some (.atomMinn ⟨5, 9, 20, 0, 0, 0, 0, 24⟩) ∧
    decodeTableWord 64 0x18000050915D40 = some (.atomMaxn ⟨5, 9, 20, 0, 0, 0, 0, 24⟩) ∧
    decodeTableWord 64 0x18000050916140 = some (.atomSwap ⟨5, 9, 20, 0, 0, 0, 0, 24⟩) ∧
    decodeTableWord 64 0x18000350914148 = some (.cas ⟨5, 9, 20, 3, 0, 0, 0, 24⟩) := by decide

theorem test_word_8 :
    decodeTableWord 64 0x18000000000150 = some (.fenceAcq ⟨0, 0, 0, 0, 0, 0, 0, 24⟩) ∧
    decodeTableWord 64 0x18000000000550 = some (.fenceRel ⟨0, 0, 0, 0, 0, 0, 0, 24⟩) ∧
    decodeTableWord 64 0x18000000000950 = some (.fenceFull ⟨0, 0, 0, 0, 0, 0, 0, 24⟩) ∧
    decodeTableWord 64 0x21000050914958 = some (.waitw 2 ⟨5, 9, 20, 0, 0, 0, 0, 33⟩) ∧
    decodeTableWord 64 0x18000050900160 = some (.holdHand ⟨0, 9, 20, 0, 0, 0, 0, 24⟩) ∧
    decodeTableWord 64 0x18000000900560 = some (.holdTake ⟨0, 9, 0, 0, 0, 0, 0, 24⟩) ∧
    decodeTableWord 64 0x914960 = some (.holdHoldq ⟨5, 9, 0, 0, 0, 0, 0, 0⟩) ∧
    decodeTableWord 64 0x18000000900D60 = some (.holdSeal ⟨0, 9, 0, 0, 0, 0, 0, 24⟩) ∧
    decodeTableWord 64 0x18000000000168 = some (.waitkWait ⟨0, 0, 0, 0, 0, 0, 0, 24⟩) ∧
    decodeTableWord 64 0x18000000014568 = some (.waitkTest ⟨5, 0, 0, 0, 0, 0, 0, 24⟩) ∧
    decodeTableWord 64 0x18000000000968 = some (.waitkClearerr ⟨0, 0, 0, 0, 0, 0, 0, 24⟩) ∧
    decodeTableWord 64 0x900170 = some (.freeb ⟨0, 9, 0, 0, 0, 0, 0, 0⟩) ∧
    decodeTableWord 64 0xC07000000000188 = some (.trapTrap ⟨0, 0, 0, 0, 0, 0, 0, 3079⟩) ∧
    decodeTableWord 64 0xC07000000000588 = some (.trapBrk ⟨0, 0, 0, 0, 0, 0, 0, 3079⟩) ∧
    decodeTableWord 64 0x988 = some .trapResume ∧
    decodeTableWord 64 0x1234567800000190 = some (.ppt ⟨0, 0, 0, 305419896⟩) := by decide

theorem test_word_9 :
    decodeTableWord 64 0xC070000509141C0 = some (.gwGwset ⟨5, 9, 20, 0, 0, 0, 0, 3079⟩) ∧
    decodeTableWord 64 0x10000000000145C0 = some (.gwGwclr ⟨5, 0, 0, 0, 0, 0, 0, 4096⟩) ∧
    decodeTableWord 64 0x10000000000149C0 = some (.gwGwver ⟨5, 0, 0, 0, 0, 0, 0, 4096⟩) ∧
    decodeTableWord 64 0x18050900600 = some (.taskTail ⟨0, 9, 20, 0, 6, 0, 0, 0⟩) ∧
    decodeTableWord 64 0x18018050900A00 = some (.taskJoin ⟨0, 9, 20, 0, 6, 0, 0, 24⟩) ∧
    decodeTableWord 64 0x200 = some .taskDone ∧
    decodeTableWord 64 0xE00 = some .taskYield ∧
    decodeTableWord 128 0x3020000100100004000001805091540A = some (.spawn 5 ⟨⟨5, 9, 20, 0, 6, 0, 0, 0⟩, 3467771717371297796⟩) ∧
    decodeTableWord 128 0x30100001001000020000018050915812 = some (.spawnq ⟨⟨5, 9, 20, 0, 6, 0, 0, 0⟩, 3463268117743927298⟩) ∧
    decodeTableWord 128 0x40020000000038350901C42 = some (.copy 7 ⟨⟨0, 9, 20, 3, 6, 1, 0, 0⟩, 67117056⟩) ∧
    decodeTableWord 128 0x30040020000000038350914C4A = some (.copym 3 ⟨⟨5, 9, 20, 3, 6, 1, 0, 0⟩, 206225547264⟩) ∧
    decodeTableWord 64 0x280000050900A40 = some (.mxMclr ⟨0, 9, 20, 0, 0, 0, 0, 640⟩) ∧
    decodeTableWord 64 0x915240 = some (.mxMstat ⟨5, 9, 0, 0, 0, 0, 0, 0⟩) ∧
    decodeTableWord 64 0x240 = some .mxMbegin ∧
    decodeTableWord 64 0x640 = some .mxMend ∧
    decodeTableWord 64 0xE40 = some .mxMwait ∧
    decodeTableWord 128 0x44800000000050900482 = some (.mloadw 1 ⟨⟨0, 9, 20, 0, 0, 0, 0, 0⟩, 17536⟩) ∧
    decodeTableWord 128 0x408000000035091448A = some (.mstream 1 ⟨⟨5, 9, 20, 3, 0, 0, 0, 0⟩, 1032⟩) := by decide

theorem test_word_10 :
    decodeTableWord 128 0x10800000000050915492 = some (.mread 5 ⟨⟨5, 9, 20, 0, 0, 0, 0, 0⟩, 4224⟩) ∧
    decodeTableWord 128 0x80000000030091409A = some (.maddraw ⟨⟨5, 9, 0, 3, 0, 0, 0, 0⟩, 128⟩) ∧
    decodeTableWord 128 0x903CA2 = some (.mtile 15 ⟨⟨0, 9, 0, 0, 0, 0, 0, 0⟩, 0⟩) ∧
    decodeTableWord 128 0x100000003509000AA = some (.mcmd ⟨⟨0, 9, 20, 3, 0, 0, 0, 0⟩, 1⟩) ∧
    decodeTableWord 128 0x100000000509004C2 = some (.rload 1 ⟨⟨0, 9, 20, 0, 0, 0, 0, 0⟩, 1⟩) ∧
    decodeTableWord 128 0x509000CA = some (.rstepSync ⟨⟨0, 9, 20, 0, 0, 0, 0, 0⟩, 0⟩) ∧
    decodeTableWord 128 0x509004CA = some (.rstepCheq ⟨⟨0, 9, 20, 0, 0, 0, 0, 0⟩, 0⟩) ∧
    decodeTableWord 64 0x12345B4B50914380 = some (.hpref 0 ⟨5, 9, 20, 3, 2, 2, 3, 1, 74565⟩) ∧
    decodeTableWord 64 0x1234567804914388 = some (.hprio 0 ⟨5, 9, 1, 305419896⟩) ∧
    decodeTableWord 64 0xC07238350914390 = some (.hgather 0 ⟨5, 9, 20, 3, 6, 1, 2, 3079⟩) ∧
    decodeTableWord 64 0x12345B4B50914300 = some (.ldp 0 ⟨5, 9, 20, 3, 2, 2, 3, 1, 74565⟩) ∧
    decodeTableWord 64 0xC07238350914308 = some (.mma8 0 ⟨5, 9, 20, 3, 6, 1, 2, 3079⟩) ∧
    decodeTableWord 64 0xC07238350914310 = some (.bindx 0 ⟨5, 9, 20, 3, 6, 1, 2, 3079⟩) ∧
    decodeTableWord 64 0xC07238350914304 = some (.vlde 0 ⟨5, 9, 20, 3, 6, 1, 2, 3079⟩) ∧
    decodeTableWord 64 0xC0723835091430C = some (.vste 0 ⟨5, 9, 20, 3, 6, 1, 2, 3079⟩) ∧
    decodeTableWord 64 0xC07238350914314 = some (.vdotq 0 ⟨5, 9, 20, 3, 6, 1, 2, 3079⟩) ∧
    decodeTableWord 64 0x18000000917CC4 = some (.vbind 15 ⟨5, 9, 0, 0, 0, 0, 0, 24⟩) ∧
    decodeTableWord 64 0x180000509158CC = some (.vbinde 6 ⟨5, 9, 20, 0, 0, 0, 0, 24⟩) := by decide

theorem test_word_11 :
    decodeTableWord 64 0x180000000000D4 = some (.vlinkUnbind ⟨0, 0, 0, 0, 0, 0, 0, 24⟩) ∧
    decodeTableWord 64 0x4D4 = some (.vlinkUnbindall ⟨0, 0, 0, 0, 0, 0, 0, 0⟩) ∧
    decodeTableWord 64 0x180000000148D4 = some (.vlinkLinkrd ⟨5, 0, 0, 0, 0, 0, 0, 24⟩) ∧
    decodeTableWord 64 0x14CD4 = some (.vlinkLinkstat ⟨5, 0, 0, 0, 0, 0, 0, 0⟩) := by decide

theorem test_word_12 :
    decodeTableWord 64 0x38050914014 = some (.vialuAdd ⟨5, 9, 20, 0, 6, 1, 0, 0⟩) ∧
    decodeTableWord 64 0x38050914414 = some (.vialuSub ⟨5, 9, 20, 0, 6, 1, 0, 0⟩) ∧
    decodeTableWord 64 0x38050914814 = some (.vialuAnd ⟨5, 9, 20, 0, 6, 1, 0, 0⟩) ∧
    decodeTableWord 64 0x38050914C14 = some (.vialuOr ⟨5, 9, 20, 0, 6, 1, 0, 0⟩) ∧
    decodeTableWord 64 0x38050915014 = some (.vialuXor ⟨5, 9, 20, 0, 6, 1, 0, 0⟩) ∧
    decodeTableWord 64 0x38050915414 = some (.vialuAndn ⟨5, 9, 20, 0, 6, 1, 0, 0⟩) ∧
    decodeTableWord 64 0x38050915814 = some (.vialuShl ⟨5, 9, 20, 0, 6, 1, 0, 0⟩) ∧
    decodeTableWord 64 0x38050915C14 = some (.vialuShr ⟨5, 9, 20, 0, 6, 1, 0, 0⟩) ∧
    decodeTableWord 64 0x38050916014 = some (.vialuSar ⟨5, 9, 20, 0, 6, 1, 0, 0⟩) ∧
    decodeTableWord 64 0x38050916414 = some (.vialuMin ⟨5, 9, 20, 0, 6, 1, 0, 0⟩) ∧
    decodeTableWord 64 0x38050916814 = some (.vialuMax ⟨5, 9, 20, 0, 6, 1, 0, 0⟩) ∧
    decodeTableWord 64 0x38050916C14 = some (.vialuMinn ⟨5, 9, 20, 0, 6, 1, 0, 0⟩) ∧
    decodeTableWord 64 0x38050917014 = some (.vialuMaxn ⟨5, 9, 20, 0, 6, 1, 0, 0⟩) ∧
    decodeTableWord 64 0x38050917414 = some (.vialuAddsat ⟨5, 9, 20, 0, 6, 1, 0, 0⟩) ∧
    decodeTableWord 64 0x38050917814 = some (.vialuSubsat ⟨5, 9, 20, 0, 6, 1, 0, 0⟩) ∧
    decodeTableWord 96 0x89ABCDEF0000038000917815 = some (.vialuImm 14 ⟨⟨5, 9, 0, 0, 6, 1, 0, 0⟩, 2309737967⟩) := by decide

theorem test_word_13 :
    decodeTableWord 64 0x38050914024 = some (.vimulMul ⟨5, 9, 20, 0, 6, 1, 0, 0⟩) ∧
    decodeTableWord 64 0x38050914424 = some (.vimulMulhs ⟨5, 9, 20, 0, 6, 1, 0, 0⟩) ∧
    decodeTableWord 64 0x38050914824 = some (.vimulMulhn ⟨5, 9, 20, 0, 6, 1, 0, 0⟩) ∧
    decodeTableWord 64 0x38350914C24 = some (.vimulMadd ⟨5, 9, 20, 3, 6, 1, 0, 0⟩) ∧
    decodeTableWord 64 0x58350915024 = some (.vimulDot4 ⟨5, 9, 20, 3, 6, 2, 0, 0⟩) ∧
    decodeTableWord 64 0x38350915424 = some (.vimulDot2 ⟨5, 9, 20, 3, 6, 1, 0, 0⟩) ∧
    decodeTableWord 64 0x3805091542C = some (.vicmp 5 ⟨5, 9, 20, 0, 6, 1, 0, 0⟩) ∧
    decodeTableWord 64 0x238050914034 = some (.vfaluAdd ⟨5, 9, 20, 0, 6, 1, 2, 0⟩) ∧
    decodeTableWord 64 0x238050914434 = some (.vfaluSub ⟨5, 9, 20, 0, 6, 1, 2, 0⟩) ∧
    decodeTableWord 64 0x238050914834 = some (.vfaluMul ⟨5, 9, 20, 0, 6, 1, 2, 0⟩) ∧
    decodeTableWord 64 0x38050914C34 = some (.vfaluMin ⟨5, 9, 20, 0, 6, 1, 0, 0⟩) ∧
    decodeTableWord 64 0x38050915034 = some (.vfaluMax ⟨5, 9, 20, 0, 6, 1, 0, 0⟩) ∧
    decodeTableWord 64 0x38000915434 = some (.vfaluAbs ⟨5, 9, 0, 0, 6, 1, 0, 0⟩) ∧
    decodeTableWord 64 0x38000915834 = some (.vfaluNeg ⟨5, 9, 0, 0, 6, 1, 0, 0⟩) ∧
    decodeTableWord 64 0x38050915C34 = some (.vfaluCpsgn ⟨5, 9, 20, 0, 6, 1, 0, 0⟩) ∧
    decodeTableWord 96 0x89ABCDEF0000038000915C35 = some (.vfaluImm 7 ⟨⟨5, 9, 0, 0, 6, 1, 0, 0⟩, 2309737967⟩) := by decide

theorem test_word_14 :
    decodeTableWord 64 0x23835091403C = some (.vfmaFma ⟨5, 9, 20, 3, 6, 1, 2, 0⟩) ∧
    decodeTableWord 64 0x23835091443C = some (.vfmaFms ⟨5, 9, 20, 3, 6, 1, 2, 0⟩) ∧
    decodeTableWord 64 0x23835091483C = some (.vfmaFnma ⟨5, 9, 20, 3, 6, 1, 2, 0⟩) ∧
    decodeTableWord 64 0x238350914C3C = some (.vfmaFnms ⟨5, 9, 20, 3, 6, 1, 2, 0⟩) ∧
    decodeTableWord 96 0x89ABCDEF0000238050914C3D = some (.vfmaImm 3 ⟨⟨5, 9, 20, 0, 6, 1, 2, 0⟩, 2309737967⟩) ∧
    decodeTableWord 64 0x238050914044 = some (.vfuncDiv ⟨5, 9, 20, 0, 6, 1, 2, 0⟩) ∧
    decodeTableWord 64 0x238000914444 = some (.vfuncSqrt ⟨5, 9, 0, 0, 6, 1, 2, 0⟩) ∧
    decodeTableWord 64 0x38000914844 = some (.vfuncRcp ⟨5, 9, 0, 0, 6, 1, 0, 0⟩) ∧
    decodeTableWord 64 0x38000914C44 = some (.vfuncRsqrt ⟨5, 9, 0, 0, 6, 1, 0, 0⟩) ∧
    decodeTableWord 64 0x38000915044 = some (.vfuncExp2 ⟨5, 9, 0, 0, 6, 1, 0, 0⟩) ∧
    decodeTableWord 64 0x38000915444 = some (.vfuncLog2 ⟨5, 9, 0, 0, 6, 1, 0, 0⟩) ∧
    decodeTableWord 64 0x3805091504C = some (.vfcmp 4 ⟨5, 9, 20, 0, 6, 1, 0, 0⟩) ∧
    decodeTableWord 64 0x238000916054 = some (.vcvt 8 ⟨5, 9, 0, 0, 6, 1, 2, 0⟩) ∧
    decodeTableWord 64 0x5021800090005C = some (.vmxMxq ⟨0, 9, 0, 0, 6, 0, 2, 80⟩) ∧
    decodeTableWord 64 0x1001800091445C = some (.vmxPlane ⟨5, 9, 0, 0, 6, 0, 0, 16⟩) ∧
    decodeTableWord 64 0x1001800091485C = some (.vmxUnplane ⟨5, 9, 0, 0, 6, 0, 0, 16⟩) ∧
    decodeTableWord 64 0x10018000414C5C = some (.vmxMxdq ⟨5, 4, 0, 0, 6, 0, 0, 16⟩) := by decide

theorem test_word_15 :
    decodeTableWord 64 0x414064 = some (.vmaskMand ⟨5, 4, 0, 0, 0, 0, 0, 0⟩) ∧
    decodeTableWord 64 0x414464 = some (.vmaskMor ⟨5, 4, 0, 0, 0, 0, 0, 0⟩) ∧
    decodeTableWord 64 0x414864 = some (.vmaskMxor ⟨5, 4, 0, 0, 0, 0, 0, 0⟩) ∧
    decodeTableWord 64 0x414C64 = some (.vmaskMandn ⟨5, 4, 0, 0, 0, 0, 0, 0⟩) ∧
    decodeTableWord 64 0x415064 = some (.vmaskMnot ⟨5, 4, 0, 0, 0, 0, 0, 0⟩) ∧
    decodeTableWord 64 0x415464 = some (.vmaskMpopc ⟨5, 4, 0, 0, 0, 0, 0, 0⟩) ∧
    decodeTableWord 64 0x415864 = some (.vmaskMfirst ⟨5, 4, 0, 0, 0, 0, 0, 0⟩) ∧
    decodeTableWord 64 0x915C64 = some (.vmaskMset ⟨5, 9, 0, 0, 0, 0, 0, 0⟩) ∧
    decodeTableWord 64 0x1805091406C = some (.vpermShuf ⟨5, 9, 20, 0, 6, 0, 0, 0⟩) ∧
    decodeTableWord 64 0x1001805091446C = some (.vpermSlideup ⟨5, 9, 20, 0, 6, 0, 0, 16⟩) ∧
    decodeTableWord 64 0x1001805091486C = some (.vpermSlidedn ⟨5, 9, 20, 0, 6, 0, 0, 16⟩) ∧
    decodeTableWord 64 0x10018000914C6C = some (.vpermBcast ⟨5, 9, 0, 0, 6, 0, 0, 16⟩) ∧
    decodeTableWord 64 0x1800091506C = some (.vpermRev ⟨5, 9, 0, 0, 6, 0, 0, 0⟩) ∧
    decodeTableWord 64 0x1805091546C = some (.vpermZiplo ⟨5, 9, 20, 0, 6, 0, 0, 0⟩) ∧
    decodeTableWord 64 0x1805091586C = some (.vpermZiphi ⟨5, 9, 20, 0, 6, 0, 0, 0⟩) ∧
    decodeTableWord 64 0x18000015C6C = some (.vpermIota ⟨5, 0, 0, 0, 6, 0, 0, 0⟩) := by decide

theorem test_word_16 :
    decodeTableWord 64 0x18000914074 = some (.vredIadd ⟨5, 9, 0, 0, 6, 0, 0, 0⟩) ∧
    decodeTableWord 64 0x18000914474 = some (.vredImin ⟨5, 9, 0, 0, 6, 0, 0, 0⟩) ∧
    decodeTableWord 64 0x18000914874 = some (.vredImax ⟨5, 9, 0, 0, 6, 0, 0, 0⟩) ∧
    decodeTableWord 64 0x18000914C74 = some (.vredIand ⟨5, 9, 0, 0, 6, 0, 0, 0⟩) ∧
    decodeTableWord 64 0x18000915074 = some (.vredIor ⟨5, 9, 0, 0, 6, 0, 0, 0⟩) ∧
    decodeTableWord 64 0x18000915474 = some (.vredFadd ⟨5, 9, 0, 0, 6, 0, 0, 0⟩) ∧
    decodeTableWord 64 0x18000915874 = some (.vredFmax ⟨5, 9, 0, 0, 6, 0, 0, 0⟩) ∧
    decodeTableWord 64 0x18000915C74 = some (.vredFmin ⟨5, 9, 0, 0, 6, 0, 0, 0⟩) ∧
    decodeTableWord 64 0x1800091407C = some (.vmovMov ⟨5, 9, 0, 0, 6, 0, 0, 0⟩) ∧
    decodeTableWord 64 0x1805091447C = some (.vmovSel ⟨5, 9, 20, 0, 6, 0, 0, 0⟩) ∧
    decodeTableWord 64 0x1800091487C = some (.vmovQpush ⟨5, 9, 0, 0, 6, 0, 0, 0⟩) ∧
    decodeTableWord 64 0x18300014C7C = some (.vmovQpop ⟨5, 0, 0, 3, 6, 0, 0, 0⟩) ∧
    decodeTableWord 64 0xC07018000900084 = some (.xaccXacc ⟨0, 9, 0, 0, 6, 0, 0, 3079⟩) ∧
    decodeTableWord 64 0xC07018000900484 = some (.xaccXacci ⟨0, 9, 0, 0, 6, 0, 0, 3079⟩) ∧
    decodeTableWord 64 0xC07218000014884 = some (.xaccXrnd ⟨5, 0, 0, 0, 6, 0, 2, 3079⟩) ∧
    decodeTableWord 64 0x8 = some .nop ∧
    decodeTableWord 64 0xC = some .enop := by decide

/-! ## A small machine -/

/-- The page tables of a context: a code page, and a page of data at 0x20000010000 that may be read and written, both in the slice of
core 0; the words of `code` in the code page. -/
def tables (code : List Byte) : Memory := Memory.writeN (placeMem 0 [] code) (placeRoot + 0x4008) (leBytes 8 0x31030F)

/-- A task whose frame is the first 256 bytes of the arena. -/
def task : TaskRec :=
  { rs := 3, restart := false, code := placeVa, fsize := 16, count := 0, frame := 0, result := 0x200, join := 0xFFFFFFFE, key := 5 }

/-- The firing of one lane of that task. -/
def thr : Thread :=
  { Thread.fresh 0 with
    status := .running
    apc := BitVec.ofNat 64 placeVa
    lanes := [⟨task, false⟩]
    launch := 1
    m := (Vector.replicate 8 0).setIfInBounds 0 1 }

/-- A virtual core on physical core 0, with the translations of the code and the data page. -/
def core : VCore :=
  { VCore.fresh 0 0 with
    itlb := [{ ctx := 1, base := placeVa, size := 65536, pte := placePte 0 }]
    dtlb := [{ ctx := 1, base := 0x20000010000, size := 65536, pte := 0x31030F }]
    threads := [(0, thr)] }

/-- A launch, and a registered object whose pool stands at 0x2000001C000. -/
def launch : Launch := { det := false, replay := false, prio := 3, nv := 1, join := 2, queue := 0, object := 7, doneAddr := 0, doneVal := 0 }
def obj : Obj :=
  { handle := 7, entries := [placeVa], pool := 0x2000001C000, poolCount := 64, handlers := [], globals := [], linkages := [], holdings := [],
    nears := [] }

/-- A context with one virtual core: it holds its slice and the last quarter of the data page, the first half of the page is the arena. -/
def context : Ctx :=
  { Ctx.fresh 1 with
    live := true
    nmax := 1
    hosts := [9]
    root := placeRoot
    trapvec := BitVec.ofNat 64 (placeVa + 0x1000)
    framebase := 0x20000010000
    framesize := 0x8000
    qtable := 0x20000018000
    launches := [(1, launch)]
    objects := [obj]
    holdings := [(0, { base := 0x10000000000, lsize := 22, cls := .exclusive, holder := 0, inflight := none }),
      (1, { base := 0x20000010000, lsize := 15, cls := .frame, holder := 0, inflight := none }),
      (2, { base := 0x20000018000, lsize := 15, cls := .exclusive, holder := 0, inflight := none })]
    vcores := [(0, core)] }

/-- The machine with this thread in focus. -/
def demo : State :=
  { State.reset with
    phase := .up
    cores := [(0, PCore.fresh)]
    mem := tables []
    ctx := context
    vc := core
    thr := thr
    ctxs := [(1, context)]
    req := { Req.zero with t := { ctx := 1, vc := 0, th := 0 } } }

/-- The machine with another thread, other registers, an instruction in the code page, bytes at an address, another core, another context,
another request. -/
def demoT (f : Thread → Thread) : State := { demo with thr := f demo.thr }
def demoS (xs : List (Nat × W64)) : State := demoT fun t => xs.foldl (fun t x => t.setS x.1 x.2) t
def demoV (f : VCore → VCore) : State := { demo with vc := f demo.vc }
def demoC (f : Ctx → Ctx) : State := { demo with ctx := f demo.ctx }
def demoR (f : Req → Req) : State := { demo with req := f demo.req }
def poke (s : State) (pa : Nat) (bs : List Byte) : State := { s with mem := s.mem.writeN pa bs }

/-- An outcome's next state. -/
def nextOf (o : Host.Outcome State Fault Refusal) : State := match o with | .next s => s | _ => State.reset

theorem ok_of {ε α : Type} {r : Except ε α} (h : (match r with | .ok _ => true | .error _ => false) = true) : ∃ t, r = .ok t := by
  cases r with
  | ok t => exact ⟨t, rfl⟩
  | error e => simp at h
theorem trap_of {α : Type} {r : Res α} (h : (match r with | .error (.trap _) => true | _ => false) = true) : ∃ e, r = .error (.trap e) := by
  rcases r with (_ | _ | _ | _ | _) | _ <;> first | exact ⟨_, rfl⟩ | simp at h
theorem wait_of {α : Type} {r : Res α} (h : (match r with | .error (.wait _) => true | _ => false) = true) : ∃ w, r = .error (.wait w) := by
  rcases r with (_ | _ | _ | _ | _) | _ <;> first | exact ⟨_, rfl⟩ | simp at h

/-! ## Single steps -/

/-- R130: 0x7FFFFFFF + 1 at w32 is 0x80000000, sign-extended; ADDSAT stops at 0x7FFFFFFF. -/
theorem test_ialu_w32 :
    (nextOf (exec (.ialuAdd ⟨3, 1, 2, 0, 0, 1, 0, 0⟩) (demoS [(1, 0x7FFFFFFF), (2, 1)]))).thr.getS 3 = 0xFFFFFFFF80000000 ∧
    (nextOf (exec (.ialuAddsat ⟨3, 1, 2, 0, 0, 1, 0, 0⟩) (demoS [(1, 0x7FFFFFFF), (2, 1)]))).thr.getS 3 = 0x7FFFFFFF := by decide +kernel

/-- R101, R131: -7 divided by 2 is -3 with remainder -1; a division by zero gives all ones, its remainder the dividend. -/
theorem test_division :
    let s := demoS [(1, -7), (2, 2)]
    (nextOf (exec (.imulDivs ⟨3, 1, 2, 0, 0, 0, 0, 0⟩) s)).thr.getS 3 = -3 ∧ (nextOf (exec (.imulRems ⟨3, 1, 2, 0, 0, 0, 0, 0⟩) s)).thr.getS 3 = -1 ∧
    (nextOf (exec (.imulDivn ⟨3, 1, 0, 0, 0, 0, 0, 0⟩) s)).thr.getS 3 = 0xFFFFFFFFFFFFFFFF ∧
    (nextOf (exec (.imulRemn ⟨3, 1, 0, 0, 0, 0, 0, 0⟩) s)).thr.getS 3 = -7 := by decide +kernel

/-- R131: the high halves of -1 times -1, signed and unsigned; MSUB takes the product from sC. -/
theorem test_multiply :
    let s := demoS [(1, -1), (2, -1), (3, 10)]
    (nextOf (exec (.imulMulhs ⟨4, 1, 2, 0, 0, 0, 0, 0⟩) s)).thr.getS 4 = 0 ∧
    (nextOf (exec (.imulMulhn ⟨4, 1, 2, 0, 0, 0, 0, 0⟩) s)).thr.getS 4 = 0xFFFFFFFFFFFFFFFE ∧
    (nextOf (exec (.imulMsub ⟨4, 1, 2, 3, 0, 0, 0, 0⟩) s)).thr.getS 4 = 9 := by decide +kernel

/-- R130: a shift by 65 at w64 is a shift by 1; SAR keeps the sign; an immediate is sign-extended. -/
theorem test_shift_and_immediate :
    let s := demoS [(1, 0x8000000000000001), (2, 65)]
    (nextOf (exec (.ialuShl ⟨3, 1, 2, 0, 0, 0, 0, 0⟩) s)).thr.getS 3 = 2 ∧
    (nextOf (exec (.ialuSar ⟨3, 1, 2, 0, 0, 0, 0, 0⟩) s)).thr.getS 3 = 0xC000000000000000 ∧
    (nextOf (exec (.ialuiAdd ⟨3, 0, 0, 0xFFFFFFFF⟩) s)).thr.getS 3 = -1 ∧
    (nextOf (exec (.ialuiAdd ⟨3, 0, 0, 0xFFFFFFFF⟩) s)).thr.apc = 0x20000000008 := by decide +kernel

/-- R132: -1 lies below 0 signed and above it unsigned; ICMPI compares with the sign-extended immediate. -/
theorem test_compare :
    let s := demoS [(1, -1)]
    (nextOf (exec (.icmp 2 ⟨3, 1, 0, 0, 0, 0, 0, 0⟩) s)).thr.getS 3 = 1 ∧ (nextOf (exec (.icmp 4 ⟨3, 1, 0, 0, 0, 0, 0, 0⟩) s)).thr.getS 3 = 0 ∧
    (nextOf (exec (.icmpi 0 ⟨3, 1, 0, 0xFFFFFFFF⟩) s)).thr.getS 3 = 1 := by decide +kernel

/-- R134 (its example): with POS 8 and LEN 4, BFX of 0xABCD is 0xB; CLZ of 1 is 63; BSWAP at w32. -/
theorem test_bits :
    let s := demoS [(6, 0xABCD), (7, 1), (8, 0x11223344)]
    (nextOf (exec (.bitsBfx ⟨5, 6, 0, 0, 0, 0, 0, 264⟩) s)).thr.getS 5 = 0xB ∧ (nextOf (exec (.bitsClz ⟨5, 7, 0, 0, 0, 0, 0, 0⟩) s)).thr.getS 5 = 63 ∧
    (nextOf (exec (.bitsBswap ⟨5, 8, 0, 0, 0, 1, 0, 0⟩) s)).thr.getS 5 = 0x44332211 := by decide +kernel

/-- R135, R136, R137: SEL, LIH, LI64, ADDPC and LANE. -/
theorem test_constants_and_lanes :
    let s := demoS [(6, 1), (7, 0xAAAAAAAA12345678)]
    (nextOf (exec (.sel ⟨5, 6, 7, 0, 0, 0, 0, 0⟩) s)).thr.getS 5 = 0xAAAAAAAA12345678 ∧
    (nextOf (exec (.liLih ⟨7, 7, 0, 0x100⟩) s)).thr.getS 7 = 0x10012345678 ∧
    (nextOf (exec (.li64 ⟨⟨7, 0, 0, 0x09401000⟩, 0x100⟩) s)).thr.getS 7 = 0x10009401000 ∧
    (nextOf (exec (.liAddpc ⟨7, 0, 0, 0x10⟩) s)).thr.getS 7 = 0x20000000010 ∧
    (nextOf (exec (.laneLive ⟨7, 0, 0, 0, 0, 0, 0, 0⟩) s)).thr.getS 7 = 1 ∧ (nextOf (exec (.laneLkey ⟨7, 0, 0, 0, 0, 0, 0, 0⟩) s)).thr.getS 7 = 5 ∧
    (nextOf (exec (.laneLframe ⟨7, 0, 0, 0, 0, 0, 0, 1⟩) s)).thr.getS 7 = 0 := by decide +kernel

/-- R138 to R140: a branch back by 6 words, a call's link, and a jump past 2^56. -/
theorem test_jumps :
    let s := demoS [(1, 0x100000000000000)]
    (nextOf (exec (.br 2 ⟨0, 0, 1, 0xFFFFFFFA⟩) s)).thr.apc = 0x1FFFFFFFFE8 ∧ (nextOf (exec (.br 3 ⟨0, 0, 1, 0xFFFFFFFA⟩) s)).thr.apc = 0x20000000008 ∧
    (nextOf (exec (.jmpCall ⟨62, 0, 0, 4⟩) s)).thr.getS 62 = 0x20000000008 ∧ (nextOf (exec (.jmpCall ⟨62, 0, 0, 4⟩) s)).thr.apc = 0x20000000010 ∧
    (nextOf (exec (.jmpJmpr ⟨0, 1, 0, 0⟩) s)).thr.cause = 47 ∧ (nextOf (exec (.jmpJmpr ⟨0, 1, 0, 0⟩) s)).thr.faddr = 0x100000000000000 := by
  decide +kernel

/-- R170, R173 (its example): BIND evaluates at once; LINKRD of `bind.ltn.l3 s12, s10, s13`. -/
theorem test_bind_and_linkrd :
    let s := demoS [(1, 3), (2, 4)]
    let t := nextOf (exec (.bind 0 ⟨5, 1, 2, 0, 0, 0, 0, 0⟩) s)
    t.thr.getS 5 = 7 ∧ (nextOf (exec (.liLi ⟨1, 0, 0, 10⟩) t)).thr.getS 5 = 14 ∧
    (nextOf (exec (.linkLinkrd ⟨30, 0, 0, 0, 0, 0, 0, 3⟩) (nextOf (exec (.bind 8 ⟨12, 10, 13, 0, 0, 0, 0, 3⟩) s)))).thr.getS 30 =
      0x0000000D00028C08 := by decide +kernel

/-- R163, R382: a write of a level link's destination is BOUND_WRITE with the slot, a link that closes a cycle BIND_CYCLE. -/
theorem test_bound_write :
    let t := nextOf (exec (.bind 0 ⟨5, 1, 2, 0, 0, 0, 0, 4⟩) demo)
    let u := nextOf (exec (.liLi ⟨5, 0, 0, 1⟩) t)
    u.thr.cause = 17 ∧ u.thr.fdetail = 4 ∧ u.thr.apc = 0x20000001000 ∧ u.thr.epc = 0x20000000008 ∧
    (nextOf (exec (.bind 0 ⟨1, 5, 2, 0, 0, 0, 0, 1⟩) t)).thr.cause = 16 := by decide +kernel

/-- R143, R144: a store is seen by the thread's own load and stands in memory once performed; a halfword is sign-extended. -/
theorem test_load_store :
    let s := demoS [(1, 0x100), (2, 0x1122334455668001)]
    let t := nextOf (exec (.st 1 ⟨2, 1, 0, 0, 0, 0, 0, 0, 2⟩) s)
    (nextOf (exec (.ld 2 ⟨3, 1, 0, 0, 0, 0, 0, 0, 2⟩) t)).thr.getS 3 = 0xFFFFFFFFFFFF8001 ∧ t.mem.read 0x102 = 0 ∧
    (nextOf (exec .storePerformed t)).mem.read 0x102 = 1 ∧ (nextOf (exec .storePerformed t)).mem.read 0x103 = 0x80 ∧
    (nextOf (exec .storePerformed t)).mem.read 0x104 = 0 := by decide +kernel

/-- R14, R15, R141: a misaligned load, one in the near guard, one in the reserved top of the slice, and a read of 0x20000020000, which no
leaf maps. -/
theorem test_access_faults :
    let s := demoS [(1, 0x101), (2, 0x400000), (3, 0x3C0000), (4, 0x20000020000)]
    (nextOf (exec (.ld 6 ⟨5, 1, 0, 0, 0, 0, 0, 0, 0⟩) s)).thr.cause = 28 ∧ (nextOf (exec (.ld 6 ⟨5, 2, 0, 0, 0, 0, 0, 0, 0⟩) s)).thr.cause = 41 ∧
    (nextOf (exec (.ld 6 ⟨5, 3, 0, 0, 0, 0, 0, 0, 0⟩) s)).thr.cause = 40 ∧
    ((nextOf (exec (.ld 6 ⟨5, 4, 0, 0, 0, 0, 0, 0, 0⟩) s)).reports.map fun r => (r.cause, r.disp, r.faddr)) =
      [(.pageFaultRead, 1, 0x20000020000)] := by decide +kernel

/-- R145: a store whose page is missing parks, and the thread goes on. -/
theorem test_parked_store :
    let t := nextOf (exec (.st 3 ⟨2, 1, 0, 0, 0, 0, 0, 0, 0⟩) (demoS [(1, 0x20000020000)]))
    t.thr.replay.length = 1 ∧ t.thr.apc = 0x20000000008 ∧ t.thr.status = .running := by decide +kernel

/-- R152: QPUSHS at w64 pushes the two halves in turn; QPOPS takes lanes 0 and 1. -/
theorem test_queue_operations :
    let t := nextOf (exec (.qopQpushs ⟨4, 1, 0, 0, 0, 0, 0, 0⟩) (demoS [(1, 0x1122334455667788)]))
    ((t.thr.getQ 4).map fun e => (e.lanes.lane 0, e.lanes.lane 1, e.lanes.lane 31, e.mask)) =
      [(0x55667788, 0x11223344, 0x11223344, 0xFFFFFFFF)] ∧
    (nextOf (exec (.qopQpops ⟨5, 4, 0, 0, 0, 0, 0, 0⟩) t)).thr.getS 5 = 0x1122334455667788 ∧
    (nextOf (exec (.qopQpops ⟨5, 4, 0, 0, 0, 0, 0, 0⟩) demo)).thr.waitA = .pop 4 := by decide +kernel

/-- R277, R278: an atomic adds in memory and returns the old word; CAS writes only where the word is equal. -/
theorem test_atomics :
    let s := poke (demoS [(1, 0x100), (2, 5), (3, 7), (4, 99)]) 0x100 (leBytes 8 7)
    let t := nextOf (exec (.atomAdd ⟨5, 1, 2, 0, 0, 0, 0, 0⟩) s)
    t.mem.readLe 0x100 8 = 12 ∧ t.thr.getS 5 = 7 ∧ (nextOf (exec (.cas ⟨5, 1, 3, 4, 0, 0, 0, 0⟩) s)).mem.readLe 0x100 8 = 99 ∧
    (nextOf (exec (.cas ⟨5, 1, 2, 4, 0, 0, 0, 0⟩) s)).mem.readLe 0x100 8 = 7 := by decide +kernel

/-- R281, R283: WAITW completes with the word where it holds, and sleeps where not; TEST of a token with an error. -/
theorem test_waits :
    let s := poke (demoS [(1, 0x100), (2, 7)]) 0x100 (leBytes 8 7)
    (nextOf (exec (.waitw 0 ⟨5, 1, 2, 0, 0, 0, 0, 0⟩) s)).thr.getS 5 = 7 ∧ (nextOf (exec (.waitw 1 ⟨5, 1, 2, 0, 0, 0, 0, 0⟩) s)).thr.waitA = .word ∧
    (nextOf (exec (.waitkTest ⟨5, 0, 0, 0, 0, 0, 0, 3⟩) (demoT fun t => t.setK 1 ⟨2, true, 71, 0⟩))).thr.getS 5 = 0x470202 := by decide +kernel

/-- R285, R287, R288: HAND leaves its holding in flight, HOLDQ says so in bit 63, the arrival makes the host node the holder. -/
theorem test_holdings :
    let t := nextOf (exec (.holdHand ⟨0, 1, 2, 0, 0, 0, 0, 24⟩) (demoS [(1, 2), (2, 0x20009)]))
    (nextOf (exec (.holdHoldq ⟨5, 1, 0, 0, 0, 0, 0, 0⟩) demo)).thr.getS 5 = 0 ∧
    (nextOf (exec (.holdHoldq ⟨5, 1, 0, 0, 0, 0, 0, 0⟩) t)).thr.getS 5 = 0x8000000000030000 ∧
    (SMap.find (nextOf (exec .handoverArrival t)).ctx.holdings 2).map (fun h => (h.holder, h.inflight)) = some (0x20009, none) := by
  decide +kernel

/-- R314, R378: DONE frees the thread and takes one from the launch join; TRAP enters the handler with SOFT_TRAP and its code. -/
theorem test_done_and_trap :
    let t := nextOf (exec .taskDone demo)
    t.thr.status = .free ∧ (SMap.find t.ctx.launches 1).map Launch.join = some 1 ∧
    (let u := (nextOf (exec (.trapTrap ⟨0, 0, 0, 0, 0, 0, 0, 0x1234⟩) demo)).thr
     u.cause = 12 ∧ u.epc = 0x20000000000 ∧ u.fdetail = 0x1234 ∧ u.handler = true ∧ u.apc = 0x20000001000) := by decide +kernel

/-- R379, R380: BRK parks its thread with the next instruction's address; RESUME goes back to ctl.epc. -/
theorem test_brk_and_resume :
    ((nextOf (exec (.trapBrk ⟨0, 0, 0, 0, 0, 0, 0, 3⟩) demo)).reports.map fun r => (r.cause, r.epc, r.fdetail)) = [(.breakpoint, 0x20000000008, 3)] ∧
    (let t := (nextOf (exec .trapResume (demoT fun t => { t with handler := true, epc := 0x20000000040 }))).thr
     t.handler = false ∧ t.apc = 0x20000000040) ∧
    (nextOf (exec .trapResume demo)).thr.cause = 9 := by decide +kernel

/-- R34, R36, R156: CTLRD of ctl.gather after a context's creation is 256; a handler-only register cannot be written outside the handler. -/
theorem test_control_registers :
    (nextOf (exec (.ctlCtlrd ⟨5, 0, 0, 0, 0, 0, 0, 0x40⟩) demo)).thr.getS 5 = 256 ∧
    (nextOf (exec (.ctlCtlwr ⟨5, 0, 0, 0, 0, 0, 0, 0x40⟩) demo)).thr.cause = 9 ∧
    (nextOf (exec (.ctlCtlwr ⟨0, 1, 0, 0, 0, 0, 0, 0x12⟩) (demoS [(1, 0xFF)]))).thr.rmode = 7 ∧
    (nextOf (exec (.ctlCtlwr ⟨5, 0, 0, 0, 0, 0, 0, 0x20⟩) demo)).thr.cause = 10 := by decide +kernel

/-- R246, R248: GWVER of a clear window; R384: PPT keeps what its record names and clears the rest. -/
theorem test_window_and_ppt :
    let s := poke (demoS [(5, 55), (6, 66)]) 0x31C000 (leBytes 8 0x20)
    (nextOf (exec (.gwGwver ⟨5, 0, 0, 0, 0, 0, 0, 0x1000⟩) s)).thr.getS 5 = 0 ∧ (nextOf (exec (.ppt ⟨0, 0, 0, 0⟩) s)).thr.getS 5 = 55 ∧
    (nextOf (exec (.ppt ⟨0, 0, 0, 0⟩) s)).thr.getS 6 = 0 := by decide +kernel

/-- R320, R323: SPAWN of two children enqueues records whose keys are those of R323. -/
theorem test_spawn :
    let s := nextOf (exec (.spawn 1 ⟨⟨2, 1, 0, 0, 0, 0, 0, 0⟩, 0x100000000⟩) (demoS [(1, 0x20000000000), (2, 2)]))
    ((s.vc.stations.map fun x => x.recs.map fun r => r.task.key).flatten) = [0x1715609F7C746C6A, 0x1715609F7C746C6B] := by decide +kernel

/-- A lane list from its first values. -/
def lanes (xs : List W32) : Lanes := Lanes.make fun i => xs[i]?.getD 0

/-- R183, R186: 0x7FFF + 1 in each half stays in its half; 1.0 + 2.0 is 3.0; an inactive lane keeps its value. -/
theorem test_vector_add :
    let s := demoT fun t => ((t.setV 1 (lanes [0x7FFF0001, 5])).setV 2 (lanes [0x0001FFFF, 6])).setM 1 1
    let u := demoT fun t => ((t.setV 1 (lanes [0x3F800000])).setV 2 (lanes [0x40000000])).setM 1 1
    ((nextOf (exec (.vialuAdd ⟨3, 1, 2, 0, 1, 1, 0, 0⟩) s)).thr.getV 3).lane 0 = 0x80000000 ∧
    ((nextOf (exec (.vialuAdd ⟨3, 1, 2, 0, 1, 1, 0, 0⟩) s)).thr.getV 3).lane 1 = 0 ∧
    ((nextOf (exec (.vfaluAdd ⟨3, 1, 2, 0, 1, 0, 0, 0⟩) u)).thr.getV 3).lane 0 = 0x40400000 := by decide +kernel

/-- R188, R189, R192: 1/0 raises DIVZERO and is an infinity; 1.0 < 2.0; 1.0 as BF16 is 0x3F80. -/
theorem test_vector_float :
    let u := demoT fun t => ((t.setV 1 (lanes [0x3F800000])).setV 2 (lanes [0x40000000])).setM 1 1
    ((nextOf (exec (.vfuncDiv ⟨3, 1, 4, 0, 1, 0, 0, 0⟩) u)).thr.getV 3).lane 0 = 0x7F800000 ∧
    (nextOf (exec (.vfuncDiv ⟨3, 1, 4, 0, 1, 0, 0, 0⟩) u)).thr.fpflags = 8 ∧
    (nextOf (exec (.vfcmp 1 ⟨2, 1, 2, 0, 1, 0, 0, 0⟩) u)).thr.getM 2 = 1 ∧
    ((nextOf (exec (.vcvt 0 ⟨3, 1, 0, 0, 1, 1, 0, 0⟩) u)).thr.getV 3).lane 0 = 0x3F80 := by decide +kernel

/-- R196 to R198: MPOPC, SLIDEDN and a sum over the active lanes. -/
theorem test_vector_moves :
    let s := demoT fun t => (t.setV 1 (lanes [3, 4, 5])).setM 1 5
    ((nextOf (exec (.vmaskMpopc ⟨3, 1, 0, 0, 0, 0, 0, 0⟩) s)).thr.getV 3).lane 7 = 2 ∧
    ((nextOf (exec (.vpermSlidedn ⟨3, 1, 2, 0, 1, 0, 0, 0x10⟩) s)).thr.getV 3).lane 0 = 4 ∧
    ((nextOf (exec (.vredIadd ⟨3, 1, 0, 0, 1, 0, 0, 0⟩) s)).thr.getV 3).lane 0 = 8 := by decide +kernel

/-- R207 (its examples): with E = 100 two contributions of 3 × 2^-30 round to 1 grid each, X = 2, which reads as 2 × 2^-28; with E = 0 a
contribution of 2^40 adds 2^160 - 1 and sets ANCHOR. -/
theorem test_accumulator :
    let s := demoT fun t => (t.setV 1 (lanes [0x31400000, 0x53800000])).setM 1 1
    let x := fun s => nextOf (exec (.xaccXacc ⟨0, 1, 0, 0, 1, 0, 0, 0⟩) s)
    let t := x (x (nextOf (exec (.mxMclr ⟨0, 0, 1, 0, 0, 0, 0, 100⟩) (s.setThr (s.thr.setS 1 1)))))
    let u := nextOf (exec (.xaccXacc ⟨0, 1, 0, 0, 2, 0, 0, 0⟩) (s.setThr (s.thr.setM 2 2)))
    (t.vc.row 0).e = 100 ∧ (t.vc.row 0).col 0 = 2 ∧ (t.vc.row 0).value 0 = .fin false 2 (-28) ∧ (t.vc.row 0).anchor = false ∧
    (u.vc.row 0).col 1 = 0xFFFFFFFFFFFFFFFFFFFFFFFFFFFFFFFFFFFFFFFF ∧ (u.vc.row 0).anchor = true := by decide +kernel

/-- R325, R327: a record that has waited fires: s1 holds the code, s2 the lanes, s3 the arena, v1 the keys. -/
theorem test_station_fires :
    let r : DRec := { task := task, launch := 1, domain := 0, group := 1, since := 0, entered := 0, slot := none }
    let s := { demoV fun v => { v with stations := { launch := 1, code := placeVa, recs := [r], expired := true } :: v.stations.drop 1 } with
      thr := Thread.fresh 0 }
    let t := (nextOf (exec .stationFire s)).thr
    t.status = .running ∧ t.getS 1 = 0x20000000000 ∧ t.getS 2 = 1 ∧ t.getS 3 = 0x20000010000 ∧ (t.getV 1).lane 0 = 5 ∧ t.getM 0 = 1 := by
  decide +kernel

/-- R361, R363: the walk of a write that misses sets A and D in the leaf and fills the L1 TLB. -/
theorem test_table_walk :
    let s := { demo with
      mem := demo.mem.writeN (placeRoot + 0x4008) (leBytes 8 0x31000F)
      vc := { core with dtlb := [] }
      thr := { thr with waitA := .tlb 0x20000010008 .write }
      req := { demo.req with n := 0x20000010008, kind := .write } }
    let t := nextOf (exec .tlbWalk s)
    t.mem.readLe (placeRoot + 0x4008) 8 = 0x31030F ∧ t.vc.dtlb.map TlbEntry.pte = [0x31030F] ∧ t.thr.waitA = .none := by decide +kernel

/-- R385, R386, R394: PREEMPT leaves a request pending; CONTEXT_KILL kills and reports. -/
theorem test_management :
    (nextOf (exec .preempt demo)).ctx.preempt = .pending [0] ∧ (nextOf (exec .contextKill demo)).ctx.killed = true ∧
    ((nextOf (exec .contextKill demo)).reports.map fun r => (r.cause, r.disp)) = [(.contextKilled, 2)] := by decide +kernel

/-- R33: bring-up publishes the cores that are not fused. -/
theorem test_reset : Sys2Proof.Machine.State.reset.mem = [] ∧ State.reset.phase = .reset ∧ State.reset.thr.getS 5 = 0 := by decide

/-- What the hardware reads at an offset of the data page. -/
theorem page_read {s : State} {off : Nat} {own : Bool} (n : Nat) {bs : List Byte} (h : off + n ≤ 0x10000) (hw : s.walk (0x20000010000 + off) = .leaf 0x31030F 5 (placeRoot + 0x4008))
    (hc : ∀ i, i < n → findWindow s.windows (0x20000010000 + off + i) = none ∧ inTail s.ctx.nmax (0x20000010000 + off + i) 1 = false ∧ paTail (0x310000 + off + i) 1 = false)
    (hm : s.mem.readN (0x310000 + off) n = bs) (h0 : off < 0x10000 := by omega) : s.hwRead (0x20000010000 + off) n own = some bs := by
  have e : leafAddr 0x31030F 5 (0x20000010000 + off) = 0x310000 + off := by simp only [leafAddr, pageSize]; omega
  rw [State.hwRead_page hw (fun i hi => (hc i hi).1) (by omega) (by omega) (by omega) (fun i hi => by rw [e]; exact (hc i hi).2) (by rw [e]; omega), e, hm]

/-! ## Witnesses: the hypotheses of every statement can be met, clause by clause -/

theorem next_of {o : Host.Outcome State Fault Refusal} (h : (match o with | .next _ => true | _ => false) = true) : ∃ s, o = .next s := by
  cases o with
  | next s => exact ⟨s, rfl⟩
  | fault f => simp at h
  | refused r => simp at h

/-- s5 is the destination of a level link, s1 + s2, with CK set; s6 that of an edge link which adds s1. -/
def sumLink : Link := { ek := false, edge := false, imm := false, ck := true, op := 0, d := 5, a := 1, c := 0, sh := 0, opb := 2 }
def accLink : Link := { ek := false, edge := true, imm := false, ck := false, op := 0, d := 6, a := 1, c := 0, sh := 0, opb := 0 }
def linked : State := demoT fun t => ((t.setL 3 (some sumLink)).setL 4 (some accLink)).setS 2 1
/-- The same for v5, an E-kind link. -/
def linkedV : State := demoT fun t => ((t.setL 3 (some { sumLink with ek := true })).setV 2 (Lanes.make fun _ => 1))

theorem witness_scalar_writes :
    (demo.thr.checkDest 5 = .ok () ∧ ∃ t, demo.thr.writeS 5 7 = .ok t) ∧ (5 ≠ 0 ∧ linked.thr.levelDest false 5 = some 3) ∧
    (linked.thr.checkDest 1 = .ok () ∧ ∃ e, linked.thr.writeS 1 0x7FFFFFFFFFFFFFFF = .error (.trap e)) := by
  refine ⟨⟨by decide +kernel, ok_of (by decide +kernel)⟩, by decide +kernel, by decide +kernel, trap_of (by decide +kernel)⟩

/-- The lowest unassigned FN of every entry of the opcode maps that has one: LEN, ST, OP, FN. -/
theorem witness_unassigned :
    ∀ x ∈ [(0, 0, 4, 9), (0, 0, 5, 6), (0, 0, 6, 6), (0, 0, 8, 1), (1, 0, 9, 1), (0, 0, 9, 3), (0, 0, 7, 9), (0, 0, 10, 6), (0, 0, 25, 7),
        (0, 0, 26, 4), (0, 0, 16, 6), (0, 0, 17, 6), (0, 0, 49, 3), (0, 0, 39, 4), (0, 0, 40, 9), (0, 0, 41, 1), (0, 0, 42, 3), (0, 0, 45, 3),
        (0, 0, 44, 4), (0, 0, 56, 3), (0, 0, 64, 4), (2, 0, 1, 6), (2, 0, 1, 15), (2, 0, 8, 8), (2, 0, 9, 4), (0, 0, 46, 1), (0, 0, 72, 5),
        (2, 0, 16, 2), (2, 0, 17, 2), (2, 0, 18, 6), (2, 0, 19, 1), (0, 1, 16, 3), (2, 0, 21, 1), (2, 0, 24, 2), (2, 0, 25, 2), (0, 1, 2, 15),
        (1, 1, 2, 15), (0, 1, 4, 6), (0, 1, 5, 6), (0, 1, 6, 8), (1, 1, 6, 8), (0, 1, 7, 4), (1, 1, 7, 4), (0, 1, 8, 6), (0, 1, 9, 5),
        (0, 1, 10, 9), (0, 1, 11, 4), (0, 1, 15, 4), (0, 1, 12, 8), (0, 1, 13, 8), (0, 1, 14, 8), (0, 0, 1, 1), (0, 1, 1, 1)],
      let w := x.1 + 4 * x.2.1 + 8 * x.2.2.1 + 1024 * x.2.2.2
      lenOf w = x.1 ∧ stOf w = x.2.1 ∧ opOf w = x.2.2.1 ∧ fnOf w = x.2.2.2 := by decide

/-- TY 2 and a field that must be zero, at their lowest values. -/
theorem witness_reserved_fields :
    1 < (⟨0, 0, 0, 0, 0, 2, 0, 0⟩ : RArgs).ty ∧ 1 < (⟨0, 0, 2, 0⟩ : IArgs).b % 8 ∧ (⟨0, 0, 0, 0, 0, 0, 1, 0⟩ : RArgs).rm ≠ 0 ∧
    (⟨0, 0, 0, 0, 1, 0, 0, 0⟩ : RArgs).msk ≠ 0 ∧ (⟨0, 0, 0, 0, 0, 0, 0, 1⟩ : RArgs).x16 ≠ 0 ∧ (⟨0, 0, 0, 1, 0, 0, 0, 0⟩ : RArgs).c ≠ 0 ∧
    (⟨0, 0, 1, 0⟩ : JArgs).b ≠ 0 ∧ (⟨0, 0, 0, 1⟩ : JArgs).off ≠ 0 ∧ (⟨1, 0, 0, 0⟩ : JArgs).d ≠ 0 := by decide

/-- BITS: a field that ends at bit 63 and at bit 31, and one bit further; the reserved bits of X16. -/
theorem witness_bits :
    FieldFits ⟨0, 0, 0, 0, 0, 0, 0, 4 * 64 + 60⟩ ∧ ¬FieldFits ⟨0, 0, 0, 0, 0, 0, 0, 4 * 64 + 61⟩ ∧ FieldFits ⟨0, 0, 0, 0, 0, 1, 0, 4 * 64 + 28⟩ ∧
    ¬FieldFits ⟨0, 0, 0, 0, 0, 1, 0, 4 * 64 + 29⟩ ∧ ¬FieldFits ⟨0, 0, 0, 0, 0, 0, 0, 5⟩ ∧ FieldFits ⟨0, 0, 0, 0, 0, 0, 0, 64 * 64⟩ ∧
    (8192 ≤ (⟨0, 0, 0, 0, 0, 0, 0, 8192⟩ : RArgs).x16 ∧ (⟨0, 0, 0, 0, 0, 0, 0, 8192⟩ : RArgs).x16 < 65536) := by
  simp only [FieldFits, widthOf]; decide

theorem witness_scalar_frame :
    (∃ s', IsScalarR ⟨5, 1, 2, 0, 0, 0, 0, 0⟩ (.ialuAdd ⟨5, 1, 2, 0, 0, 0, 0, 0⟩) ∧ demo.thr.checkDest 5 = .ok () ∧
      exec (.ialuAdd ⟨5, 1, 2, 0, 0, 0, 0, 0⟩) demo = .next s') ∧
    (∃ s', Instr.liLi ⟨5, 0, 0, 7⟩ ∈ constForms ⟨5, 0, 0, 7⟩ ∧ exec (.liLi ⟨5, 0, 0, 7⟩) demo = .next s') := by
  obtain ⟨a, ha⟩ := next_of (o := exec (.ialuAdd ⟨5, 1, 2, 0, 0, 0, 0, 0⟩) demo) (by decide +kernel)
  obtain ⟨b, hb⟩ := next_of (o := exec (.liLi ⟨5, 0, 0, 7⟩) demo) (by decide +kernel)
  exact ⟨⟨a, .inl (by simp [ialuForms]), by decide +kernel, ha⟩, ⟨b, by simp [constForms], hb⟩⟩

/-! ### Links -/

theorem noWait (s : State) (h : s.thr.ePath = []) : NoSlotWait s := fun a ha => by rw [h] at ha; cases ha

theorem witness_link_functions : (0 < 64 ∧ 15 < 16) ∧ 3 < 4 ∧ 6 < 7 := by decide

theorem witness_settle :
    hasCycle (linked.thr.links false) = false ∧ LinksOk linked.thr ∧
    (∀ e ∈ (linked.thr.setS 5 1).links false, e.2.edge = false → Holds (linked.thr.setS 5 1) e.2) ∧ linked.thr.checkDest 1 = .ok () ∧
    ∃ t, linked.thr.writeS 1 7 = .ok t := by
  refine ⟨by decide +kernel, ?_, ?_, by decide +kernel, ok_of (by decide +kernel)⟩
  · unfold LinksOk; decide +kernel
  · unfold Holds; decide +kernel

/-- BIND into an empty slot and into one of its own kind; LINK_STREAM, LINK_OPERAND, BOUND_WRITE, BIND_CYCLE, and an overflow at once. -/
theorem witness_bind :
    NoSlotWait linked ∧
    (∃ o, (linkedV.thr.getL 3) = some o ∧ o.ek ≠ sumLink.ek) ∧
    ({ sumLink with d := 0 }.badOperand = true ∧ sumLink.badOperand = false) ∧ linked.thr.otherDest false 7 5 = some 3 ∧
    (linked.thr.otherDest false 7 1 = none ∧ hasCycle ((linked.thr.setL 7 (some { sumLink with d := 1, a := 5 })).links false) = true) ∧
    Installs linked.thr 7 { sumLink with d := 7 } ∧
    (∃ t, (linked.thr.setL 7 (some { sumLink with d := 7 })).writeS 7 1 = .ok t) ∧
    (firstValue (linked.thr.setS 1 0x7FFFFFFFFFFFFFFF) sumLink).2 = true := by
  refine ⟨?_, ⟨{ sumLink with ek := true }, by decide +kernel, by decide⟩, by decide, by decide +kernel, by decide +kernel, ?_,
    ok_of (by decide +kernel), ?_⟩
  · exact noWait linked (by decide +kernel)
  · have h : linked.thr.getL 7 = none := by decide +kernel
    exact ⟨fun o e => (by rw [h] at e; cases e), by decide +kernel, by decide +kernel, by decide +kernel⟩
  · unfold firstValue; decide +kernel

theorem witness_edge_operands :
    { accLink with a := 6 }.badOperand = true ∧ { accLink with opb := 6 }.badOperand = true ∧ accLink.badOperand = false := by decide

/-- An older E-stream instruction that names a slot: VLINK.UNBIND. -/
def slotWaits : State :=
  poke (demoT fun t => { t with apc := 0x20000000008, ePath := [0x20000000000] }) 0x300000 (leBytes 8 0x90000000000D4)

theorem witness_link_table :
    NoSlotWait linked ∧ (∀ l, linked.thr.getL 3 = some l → l.ek = false) ∧ (∃ l, linkedV.thr.getL 3 = some l ∧ l.ek = true) ∧
    (∀ l, linked.thr.getL 3 = some l → LinkFits l) ∧ (∃ t, linked.thr.writeS 9 (slotValue linked.thr 3) = .ok t) ∧
    (∃ t, linked.thr.writeS 9 (statValue linked.thr) = .ok t) ∧ linked.thr.levelDest false 5 = some 3 ∧ ¬NoSlotWait slotWaits := by
  have h : linked.thr.getL 3 = some sumLink := by decide +kernel
  refine ⟨?_, fun l e => ?_, ⟨_, (by decide +kernel : linkedV.thr.getL 3 = some { sumLink with ek := true }), rfl⟩, fun l e => ?_,
    ok_of (by decide +kernel), ok_of (by decide +kernel), by decide +kernel, ?_⟩
  · exact noWait linked (by decide +kernel)
  · rw [h] at e; cases e; rfl
  · rw [h] at e; cases e; unfold LinkFits; decide
  · exact fun h => absurd (h 0x20000000000 (by decide +kernel)) (by decide +kernel)

theorem witness_vector_links :
    Installs linkedV.thr 7 { sumLink with ek := true, d := 7 } ∧
    (∃ t, (linkedV.thr.setV 7 Lanes.zero).settleE [(7, BitVec.allOnes 32)] = .ok t) ∧
    laneOverflows (linkedV.thr.setV 1 (Lanes.make fun _ => 0x7FFFFFFF)) { sumLink with ek := true } ≠ 0 ∧
    (∃ l, linked.thr.getL 3 = some l ∧ l.ek = false) ∧ linkedV.thr.checkDestV 9 = .ok () ∧
    (∃ t, linkedV.thr.writeV 9 (BitVec.allOnes 32) (twoLanes (slotValue linkedV.thr 3)) = .ok t) := by
  refine ⟨?_, ok_of (by decide +kernel), by decide +kernel, ⟨sumLink, by decide +kernel, rfl⟩, by decide +kernel, ok_of (by decide +kernel)⟩
  have h : linkedV.thr.getL 7 = none := by decide +kernel
  exact ⟨fun o e => (by rw [h] at e; cases e), by decide +kernel, by decide +kernel, by decide +kernel⟩

/-! ### Control flow and traps -/

theorem witness_branches :
    let s := demoS [(1, 5)]
    (cmp 2 (s.thr.getS 0) (s.thr.getS 1) = true ∧ (labelOf ⟨0, 0, 1, 4⟩ s).toNat < 2 ^ 56) ∧
    (cmp 3 (s.thr.getS 0) (s.thr.getS 1) = false) ∧
    2 ^ 56 ≤ (labelOf ⟨0, 0, 1, 1⟩ (demoT fun t => { t with apc := 0xFFFFFFFFFFFFFC })).toNat := by decide +kernel

/-- CALLL's word holds an address below 2^56 at 0x100, and 2^56 at 0x108. -/
def callWords : State := poke (demoS [(1, 0x100), (2, 0x108), (3, 0x101)]) 0x100 (leBytes 8 0x20000000040 ++ leBytes 8 (2 ^ 56))

theorem witness_jumps :
    (demo.thr.checkDest 62 = .ok () ∧ ∃ t, demo.thr.writeS 62 (demo.thr.apc + 8) = .ok t) ∧ linked.thr.levelDest false 5 = some 3 ∧
    2 ^ 56 ≤ ((demoS [(1, 0x100000000000000)]).thr.getS 1).toNat ∧
    (∃ e, callWords.check callWords.agent (readAcc (callWords.thr.getS 3).toNat 8) = .error (.trap e)) ∧
    (callWords.check callWords.agent (readAcc (callWords.thr.getS 1).toNat 8) = .ok (.mem 0x100) ∧
      callWords.readTarget callWords.agent (readAcc (callWords.thr.getS 1).toNat 8) (.mem 0x100) = .ok (leBytes 8 0x20000000040)) ∧
    (callWords.check callWords.agent (readAcc (callWords.thr.getS 2).toNat 8) = .ok (.mem 0x108) ∧
      callWords.readTarget callWords.agent (readAcc (callWords.thr.getS 2).toNat 8) (.mem 0x108) = .ok (leBytes 8 (2 ^ 56))) ∧
    (let s := demoT fun _ => (linked.thr.setS 1 0).setS 2 0x7FFFFFFFFFFFFFFF
     s.thr.checkDest 1 = .ok () ∧ ∃ e, s.thr.writeS 1 (s.thr.apc + 8) = .error (.trap e)) := by
  refine ⟨⟨by decide +kernel, ok_of (by decide +kernel)⟩, by decide +kernel, by decide +kernel, trap_of (by decide +kernel), by decide +kernel,
    by decide +kernel, by decide +kernel, trap_of (by decide +kernel)⟩

theorem witness_traps :
    NoJob demo ∧ causeDisp .softTrap = .h ∧ causeDisp .breakpoint = .p ∧ demo.ctx.trapvec ≠ 0 ∧ demo.thr.handler = false ∧ demo.thr.ePath = [] ∧
    (demoC fun c => { c with trapvec := 0 }).ctx.trapvec = 0 ∧ (demoT fun t => { t with handler := true }).thr.handler = true ∧
    slotWaits.thr.ePath ≠ [] ∧ (SMap.find demo.sync.ctxs 1).isSome = true := by
  unfold NoJob; decide +kernel

/-- The handler of an E-stream trap at the second of two instructions of the path. -/
def inHandler (aepc epc : W64) (path : List W64) : State :=
  demoT fun t => { t with handler := true, aepc := aepc, epc := epc, trapPath := path }

theorem witness_resume :
    (∃ s, (inHandler 0 0x20000000010 []).drain = .ok s ∧ s.thr.aepc = 0) ∧
    (∃ s, (inHandler 0x20000000020 0x20000000010 []).drain = .ok s ∧ s.thr.aepc ≠ 0 ∧ s.thr.trapPath = []) ∧
    (∃ s, (inHandler 0x20000000020 0x20000000010 [0x20000000008, 0x20000000010]).drain = .ok s ∧ s.thr.aepc ≠ 0 ∧
      s.thr.epc ∈ s.thr.trapPath) :=
  ⟨⟨inHandler 0 0x20000000010 [], by decide +kernel, by decide +kernel⟩,
    ⟨inHandler 0x20000000020 0x20000000010 [], by decide +kernel, by decide +kernel, by decide +kernel⟩,
    ⟨inHandler 0x20000000020 0x20000000010 [0x20000000008, 0x20000000010], by decide +kernel, by decide +kernel, by decide +kernel⟩⟩

/-- An index beside each range of the table; a key, a read-only register, a handler's register and a thread's own, at the ends of ranges. -/
theorem witness_control_registers :
    (∀ n ∈ [0x008, 0x00F, 0x013, 0x026, 0x034, 0x042, 0x054, 0x068, 0x071], ∀ e ∈ ctlTable, e.1 ≠ n) ∧
    ((0x050, 64, .h) ∈ ctlTable ∧ (0x053, 64, .h) ∈ ctlTable ∧ (0x020, 64, .hw) ∈ ctlTable ∧ (0x041, 5, .h) ∈ ctlTable ∧
      (0x010, 5, .t) ∈ ctlTable ∧ (0x012, 3, .t) ∈ ctlTable) ∧
    (CtlAllowed demo 1 0x012 .t ∧ CtlAllowed demo 0 0x041 .h ∧ CtlAllowed (inHandler 0 0 []) 1 0x053 .h) ∧
    (IsKey 0x050 ∧ IsKey 0x053 ∧ ¬IsKey 0x04F ∧ ¬IsKey 0x054 ∧ IsFpCtl 0x010 ∧ IsFpCtl 0x012 ∧ ¬IsFpCtl 0x013) ∧ slotWaits.thr.ePath ≠ [] ∧
    (∃ t, (demo.ctlWrite 0x012 3 5).thr.writeS 5 (demo.ctlRead 0x012) = .ok t) := by
  refine ⟨by decide, by decide, ⟨?_, ?_, ?_⟩, ?_, by decide +kernel, ok_of (by decide +kernel)⟩
  · unfold CtlAllowed IsKey; decide +kernel
  · unfold CtlAllowed IsKey; decide +kernel
  · unfold CtlAllowed IsKey; decide +kernel
  · unfold IsKey IsFpCtl; decide

/-- A word at the thread's position. -/
def coded (w : Nat) : State := poke demo 0x300000 (leBytes 8 w)

/-- A trap finds an MTILE of its own thread. -/
theorem witness_trap_finds :
    let s := demoV fun v => { v with tile := some ⟨0, 0x20000018000, [], 0, []⟩, groupLock := some 0 }
    (∃ j, s.vc.tile = some j ∧ j.thread = s.thr.id) ∧ ∃ x, SMap.find s.ctx.vcores 0 = some x ∧ x.groupLock ≠ some 0 :=
  ⟨⟨⟨0, 0x20000018000, [], 0, []⟩, by decide +kernel, by decide +kernel⟩, core, by decide +kernel, by decide +kernel⟩

/-- ENOP, NOP and a pad word stand at the A-stream's position. -/
theorem witness_pass_over :
    (∀ w ∈ [0xC, 0x8, 0xFFFFFFFF], (coded w).codeAt (coded w).thr.apc = some (placePte 0, 0x300000) ∧
      (coded w).codeBytes (coded w).thr.apc = some (leBytes 8 w ++ leBytes 8 0)) ∧
    (demo.thr.apc.toNat % 4 = 0 ∧ (placePte 0).testBit 4 = true ∧ (placePte 0).testBit 3 = false) := by
  exact ⟨by decide +kernel, by decide +kernel⟩
theorem test_pass_over :
    (∀ x ∈ [(0xC, Instr.enop, true), (0x8, .nop, false)], decodeAt 0 (leBytes 8 x.1 ++ leBytes 8 0) = .instr x.2.1 8 ∧
      stBit (leBytes 8 x.1 ++ leBytes 8 0) = x.2.2) ∧ decodeAt 0 (leBytes 8 0xFFFFFFFF ++ leBytes 8 0) = .pad := by
  exact ⟨by decide +kernel, by decide +kernel⟩
theorem witness_fresh : Fresh demo ∧ ¬Fresh (demoT fun t => { t with waitA := .word }) := by unfold Fresh; decide +kernel

/-- RESUME after a trap of the E-stream: the interrupted instruction is on the kept path, has completed, or stands nowhere on it. -/
theorem witness_resume_path :
    let s := inHandler 0x20000000020 0x20000000010 [0x20000000008, 0x20000000018]
    s.thr.trapPath = [] ++ 0x20000000008 :: [0x20000000018] ∧ 0x20000000008 + s.lengthAt 0x20000000008 = s.thr.epc := by
  intro s
  rw [(by decide +kernel : s.lengthAt 0x20000000008 = 8), (by decide +kernel : s.thr.epc = 0x20000000010)]
  exact ⟨by decide +kernel, by decide⟩
theorem witness_resume_off_path :
    let s := inHandler 0x20000000020 0x20000000018 [0x20000000008]
    ∀ p ∈ s.thr.trapPath, p ≠ s.thr.epc ∧ p + s.lengthAt p ≠ s.thr.epc := by
  intro s p h
  rw [(by decide +kernel : s.thr.trapPath = [0x20000000008])] at h
  obtain rfl := List.mem_singleton.1 h
  rw [(by decide +kernel : s.lengthAt 0x20000000008 = 8), (by decide +kernel : s.thr.epc = 0x20000000018)]
  decide
theorem witness_resume_order :
    (∀ a e : W64, (inHandler a e []).thr.aepc = a ∧ (inHandler a e []).thr.epc = e) ∧ (0x20000000010 : W64) < 0x20000000018 ∧
    (0x20000000018 : W64) < 0x20000000020 := ⟨fun _ _ => ⟨rfl, rfl⟩, by decide, by decide⟩
theorem witness_resume_search :
    ((inHandler 0x20000000010 0x20000000000 []).thr.epc = demo.thr.apc ∧ (demo.thr.apc : W64) < 0x20000000010) ∧
    (coded 0xC).codeBytes demo.thr.apc = some (leBytes 8 0xC ++ leBytes 8 0) := by
  exact ⟨by decide +kernel, by decide +kernel⟩

/-! ### Memory -/

/-- A RAMP of N32 from 5 by 3, and a CONVERT view of E4M3 blocks at 0x20000018000 as FP32. -/
def ramp : Window := { isSet := true, version := 1, base := 0x20000030000, lsize := 16, kind := 1, fmt := 4, p := [5, 3], freq := [] }
def view : Window :=
  { isSet := true, version := 1, base := 0x20000040000, lsize := 16, kind := 6, fmt := 8, p := [0x18000, 0x200, 0], freq := [] }
def withWindows : State := demoC fun c => { c with windows := (c.windows.setIfInBounds 0 ramp).setIfInBounds 1 view }

/-- R239 (element 2 of the ramp is 11), R243. -/
theorem test_windows :
    (nextOf (exec (.ld 4 ⟨5, 1, 0, 0, 0, 0, 0, 0, 8⟩) { withWindows with thr := withWindows.thr.setS 1 0x20000030000 })).thr.getS 5 = 11 := by
  decide +kernel

theorem noWindow : NoWindow demo 0x100 ∧ NoWindow demo 0x20000020000 ∧ NoWindow demo 0x20000018000 := by
  unfold NoWindow; decide +kernel

/-- A thread without parked stores holds no access back. -/
theorem notHeldBack {s : State} {ag : Agent} {va : Nat} (h : s.thr.replay = []) : NotHeldBack s ag va := by
  intro _ p hp; rw [h] at hp; cases hp

/-- Each clause at its boundary: the last address of the address space, the first byte of the reserved top directly and through the view of
core 0 and the last below it, both ends of the near guard. -/
theorem witness_access_order :
    2 ^ 56 < (readAcc (2 ^ 56 - 4) 8).va + (readAcc (2 ^ 56 - 4) 8).size ∧
    (readAcc (2 ^ 56 - 8) 8).va + (readAcc (2 ^ 56 - 8) 8).size ≤ 2 ^ 56 ∧ (readAcc 1 2).va % (readAcc 1 2).align ≠ 0 ∧
    (InTail 1 0x3C0000 1 ∧ ¬InTail 1 0x3BFFFF 1 ∧ InTail 1 0x3BFFFF 2 ∧ InTail 1 0x3FFFFF 1 ∧ ¬InTail 1 0x400000 1 ∧ InTail 1 0x100003C0000 1 ∧
      ¬InTail 1 0x100007C0000 1) ∧
    (InGuard 0x400000 ∧ InGuard 0xFFFFFF ∧ ¬InGuard 0x3FFFFF ∧ ¬InGuard 0x1000000) ∧
    (findWindow withWindows.windows 0x20000030000 = some ramp ∧ findWindow withWindows.windows 0x2000003FFFF = some ramp ∧ ramp.kind ≠ 6 ∧
      withWindows.watchHit withWindows.agent (readAcc 0x20000030000 1) = none) ∧
    (demo.ctx.holdingCause demo.agent (readAcc 0x100 8) = none ∧ demo.watchHit demo.agent (readAcc 0x100 8) = none ∧
      NotHeldBack demo demo.agent 0x100 ∧ ReadsDone demo demo.agent (writeAcc 0x100 8) 0x100 ∧
      (demoC fun c => { c with holdings := [] }).ctx.holdingCause demo.agent (writeAcc 0x100 8) = some .holdingInvalid) := by
  refine ⟨by decide, by decide, by decide, ?_, ?_, by decide +kernel, by decide +kernel, by decide +kernel, ?_, ?_, by decide +kernel⟩
  · unfold InTail; decide
  · unfold InGuard; decide
  · exact notHeldBack (by decide +kernel)
  · unfold ReadsDone; decide +kernel

/-- A read through the view, below whose blocks memory lies; a store parked on the granule of a view's blocks (R145, R244). -/
theorem witness_view_checks :
    (placeCheck 1 { readAcc 0x20000040000 8 with va := (view.backing 0x20000040000).1, size := (mxKind (view.par 2)).2.2.2 } = .ok () ∧
      withWindows.checkMem withWindows.agent { readAcc 0x20000040000 8 with va := (view.backing 0x20000040000).1, size := (mxKind (view.par 2)).2.2.2 } =
        .ok 0x318000 ∧ withWindows.watchHit withWindows.agent (readAcc 0x20000040000 8) = none) ∧
    (ParkedOn 0 ⟨0x20000040000, [1], none, true, some view⟩ (granuleOf 0 0x2000001FFFF) ∧
      ParkedOn 0 ⟨0x20000040000, [1], none, true, some view⟩ (granuleOf 0 0x20000040080) ∧
      ¬ParkedOn 0 ⟨0x20000040000, [1], none, true, some view⟩ (granuleOf 0 0x20000020000) ∧ granuleOf 0 0x100 = granuleOf 0 0x10000000100) := by
  refine ⟨by decide +kernel, .inr ⟨view, rfl, by decide +kernel⟩, .inl (by decide), ?_, by decide⟩
  rintro (h | ⟨w, h, e⟩)
  · exact absurd h (by decide)
  · cases h; exact absurd e (by decide +kernel)

/-- A holding of each class, held by core 0 or by another. -/
def classCtx (cls : HClass) (holder : Nat) : Ctx :=
  { context with holdings := [(4, { base := 0x20000018000, lsize := 15, cls := cls, holder := holder, inflight := none })] }

theorem witness_holding_classes :
    restartConfines demo.agent.lanes (writeAcc 0x20000018000 8) = false ∧
    findHolding ({ context with holdings := [] } : Ctx).holdings (holdingAddr 0 0x20000018000) = none ∧
    (∀ cls ∈ [HClass.exclusive, .localOnly, .common, .frame, .queue, .sealed],
      ∃ h, findHolding (classCtx cls 0).holdings (holdingAddr 0 0x20000018000) = some (4, h) ∧ h.cls = cls) ∧
    (∃ h, findHolding (classCtx .exclusive 0).holdings (holdingAddr 0 0x2000001FFFF) = some (4, h) ∧ h.heldBy 0 = true) ∧
    (∃ h, findHolding (classCtx .exclusive 1).holdings (holdingAddr 0 0x2000001FFFF) = some (4, h) ∧ h.heldBy 0 = false) ∧
    demo.agent.det = false := by
  refine ⟨by decide +kernel, by decide +kernel, ?_, ⟨_, rfl, by decide⟩, ⟨_, rfl, by decide⟩, by decide +kernel⟩
  intro cls h
  simp only [List.mem_cons, List.not_mem_nil, or_false] at h
  rcases h with rfl | rfl | rfl | rfl | rfl | rfl <;> exact ⟨_, rfl, rfl⟩

/-- The data page in the pool, with a loaded key, one of whose words cannot be corrected. -/
def pool : State :=
  { demo with
    vc := { core with dtlb := [{ ctx := 1, base := 0x20000010000, size := 65536, pte := 0x10000001030F }] }
    keySlots := [(0, { key := 0, loaded := true, ctxs := [1] })]
    badWords := [0x100000018000] }
/-- No translation in the L1 TLB. -/
def cold : State := demoV fun v => { v with dtlb := [] }

/-- The data page mapped to the top of the slice of core 0; a leaf of class 3; stores and accesses of a lane of the arena. -/
def mapped (pte : Nat) : State := demoV fun v => { v with dtlb := [{ ctx := 1, base := 0x20000010000, size := 65536, pte := pte }] }
theorem witness_translated :
    (NotHeldBack demo demo.agent 0x20000018000 ∧ NotHeldBack demo { demo.agent with thread := false } 0x100) ∧
    ((mapped 0x3C030F).translate demo.agent (readAcc 0x20000018000 8) = .ok (0x3C030F, 0x3C8000) ∧ PaTail 0x3C8000 8 ∧ ¬PaTail 0x318000 8) ∧
    (permCause 0x31030F (writeAcc 0x20000018000 8) = none ∧ permCause 0x31036F (readAcc 0x20000018000 8) = some .permRead ∧
      permCause 0x310307 (writeAcc 0x20000018000 8) = some .permWrite ∧ permCause 0x31032F (atomicAcc 0x20000018000 8 true) = some .atomicClass) ∧
    (pool.keyLoaded (pteSlot 0x10000001030F) 1 = true ∧ demo.keyLoaded (pteSlot 0x10000001030F) 1 = false ∧ 0x80000000000 ≤ 0x100000018000) := by
  refine ⟨⟨?_, ?_⟩, ⟨by decide +kernel, ?_, ?_⟩, ?_, by decide +kernel⟩
  · exact notHeldBack (by decide +kernel)
  · exact notHeldBack (by decide +kernel)
  · unfold PaTail; decide
  · unfold PaTail; decide
  · unfold permCause; decide

/-- The frame of the task is [0, 256) of the arena, its result slot [0x200, 0x208). -/
theorem witness_frames :
    let l : LaneRec := ⟨task, false⟩
    LaneWrites 0x20000010000 l 0x200000100FF ∧ LaneWrites 0x20000010000 l 0x20000010207 ∧ ¬LaneWrites 0x20000010000 l 0x20000010208 ∧
    ¬LaneWrites 0x20000010000 ⟨{ task with restart := true }, false⟩ 0x20000010000 ∧ InLaneFrame 0x20000010000 l 0x200000100FF ∧
    ¬InLaneFrame 0x20000010000 l 0x20000010100 ∧
    (∀ k ∈ [AccKind.read, .write, .atomic], ∃ a : Access, a.kind = k ∧ restartConfines [l] a = false) := by
  refine ⟨?_, ?_, ?_, ?_, ?_, ?_, fun k h => ?_⟩
  · unfold LaneWrites InLaneFrame; decide
  · unfold LaneWrites InLaneFrame; decide
  · unfold LaneWrites InLaneFrame; decide
  · unfold LaneWrites InLaneFrame; decide
  · unfold InLaneFrame; decide
  · unfold InLaneFrame; decide
  · exact ⟨{ readAcc 0 8 with kind := k }, rfl, by
      simp only [List.mem_cons, List.not_mem_nil, or_false] at h
      rcases h with rfl | rfl | rfl <;> decide⟩

theorem witness_loads :
    Reaches demo 0x100 8 ∧ (demo.thr.checkDest 5 = .ok () ∧ linked.thr.levelDest false 5 = some 3) ∧
    (∃ e, demo.check demo.agent (readAcc 0x101 8) = .error (.trap e)) ∧ (∃ w, cold.check cold.agent (readAcc 0x20000018000 8) = .error (.wait w)) ∧
    (demo.check demo.agent (readAcc 0x20000018000 8) = .ok (.mem 0x318000) ∧ Reaches demo 0x318000 8 ∧
      ∃ t, demo.thr.writeS 5 (loadExtend 6 (seenNum demo 0x318000 8)) = .ok t) ∧
    (pool.check pool.agent (readAcc 0x20000018000 8) = .ok (.mem 0x100000018000) ∧
      ∃ d, pool.accessFails 0x100000018000 8 = some (.poolError, d)) ∧
    withWindows.check withWindows.agent (readAcc 0x20000030000 8) = .ok (.gen ramp) ∧
    (withWindows.check withWindows.agent (readAcc 0x20000040000 8) = .ok (.conv view 0x318000) ∧
      ∃ bs, withWindows.viewBytes withWindows.agent view 0x318000 0x20000040000 8 = .ok bs) := by
  refine ⟨?_, by decide +kernel, trap_of (by decide +kernel), wait_of (by decide +kernel), ⟨by decide +kernel, ?_, ok_of (by decide +kernel)⟩,
    ⟨by decide +kernel, _, rfl⟩, by decide +kernel, by decide +kernel, ok_of (by decide +kernel)⟩
  · unfold Reaches Whole; decide +kernel
  · unfold Reaches Whole; decide +kernel

/-- Parked stores to a page that no leaf maps: one, and 16 with failures of their own. -/
def parkedStore : Parked := { order := 0, accs := [⟨0x20000020000, [1], none, true, none⟩], failed := none }
def fullQueue : State := demoT fun t => { t with replay := List.replicate 16 { parkedStore with accs := [⟨0x20000050000, [1], none, true, none⟩] } }

theorem witness_stores :
    (Before demo 0 demo ∧ Before demo 2 demo) ∧ demo.check demo.agent (writeAcc 0x100 8) = .ok (.mem 0x100) ∧
    (∃ e, demo.check demo.agent (writeAcc 0x20000020000 8) = .error (.trap e) ∧ e.cause = .pageFaultWrite ∧ NoWindow demo 0x20000020000 ∧
      demo.thr.replay.length < 16) ∧
    (∃ e, fullQueue.check fullQueue.agent (writeAcc 0x20000020000 8) = .error (.trap e) ∧ e.cause = .pageFaultWrite ∧
      16 ≤ fullQueue.thr.replay.length) ∧
    (∃ e, demo.check demo.agent (writeAcc 0x101 8) = .error (.trap e) ∧ e.cause ≠ .pageFaultWrite) ∧
    (∃ w, cold.check cold.agent (writeAcc 0x20000018000 8) = .error (.wait w)) := by
  refine ⟨?_, by decide +kernel, ⟨⟨.pageFaultWrite, 0x20000020000, 5⟩, by decide +kernel, rfl, noWindow.2.1, by decide +kernel⟩,
    ⟨⟨.pageFaultWrite, 0x20000020000, 5⟩, by decide +kernel, rfl, by decide +kernel⟩,
    ⟨⟨.misaligned, 0x101, 0⟩, by decide +kernel, by decide⟩, wait_of (by decide +kernel)⟩
  unfold Before
  exact ⟨.inl ⟨rfl, rfl⟩, .inr ⟨rfl, by decide +kernel⟩⟩

/-- A store of the 32 view elements of a block: a CONVERT view takes it whole (R128, R242, R244: 64 bytes, with the scale and the padding, at its backing address). -/
theorem witness_view_store :
    let a := { writeAcc 0x20000040000 128 with align := 8 }
    withWindows.check withWindows.agent a = .ok (.conv view 0x318000) ∧
    (storesOf [(a, List.replicate 128 0)] [(a, List.replicate 128 0)] [.ready (.conv view 0x318000)]).map
      (fun p => (p.va, p.pa, p.bytes.length, p.view)) = [(0x20000018000, 0x318000, 64, some 0x20000040000)] := by
  exact ⟨by decide +kernel, by decide +kernel⟩

/-- R128: a store into the view. -/
theorem witness_store_to_view :
    let a := writeAcc 0x20000040000 8
    a.va + a.size ≤ 2 ^ 56 ∧ a.va % a.align = 0 ∧ ¬InTail 1 a.va a.size ∧ ¬InGuard a.va ∧ findWindow withWindows.windows a.va = some view ∧
    view.kind = 6 ∧ 0 < winSize view.fmt := by
  refine ⟨by decide, by decide, ?_, ?_, by decide +kernel, by decide, by decide⟩
  · unfold InTail; decide
  · unfold InGuard; decide

/-- A store that waits for a free entry of the replay queue; one whose page is missing meets a watchpoint. -/
theorem witness_store_waits :
    (∃ p, (demoT fun t => { t with waitA := .replayRoom p }).thr.waitA = .replayRoom p) ∧ (∀ p, demo.thr.waitA ≠ .replayRoom p) ∧
    (let s := demoC fun c => { c with watch := c.watch.setIfInBounds 2 (some ⟨0x20000020000, 3, false, true⟩) }
     s.watchHit s.agent (writeAcc 0x20000020000 8) = some 2 ∧ s.watchHit s.agent (readAcc 0x20000020000 8) = none) ∧
    demo.watchHit demo.agent (writeAcc 0x20000020000 8) = none := by
  refine ⟨⟨parkedStore, rfl⟩, fun p h => ?_, by decide +kernel, by decide +kernel⟩
  rw [(by decide +kernel : demo.thr.waitA = .none)] at h; cases h

/-! ### Queues -/

/-- A queue entry with the given first lanes and mask. -/
def entry (xs : List W32) (mask : W32) (ready : Bool) : QEntry := { lanes := lanes xs, mask := mask, ready := ready }
/-- q0 is full; q4 holds an entry with offsets 0 and 8, q5 one with data, q6 one whose lanes have not arrived. -/
def queues : State :=
  demoT fun t => (((t.setQ 0 (List.replicate 16 (entry [] 0 true))).setQ 4 [entry [0, 8] 3 true]).setQ 5 [entry [7, 9] 3 true]).setQ 6
    [entry [] 0 false]
def base : State := { queues with thr := (queues.thr.setS 3 0x100).setS 4 0x20000020000 }

theorem witness_queue_loads :
    let as := fun (s : State) a => (List.range 32).map fun i => readAcc (lineAddr ⟨1, a, 0, 0, 0, 0, 0, 1, 0⟩ s 4 i) 4 (.anyLane i)
    let gs := (lanesOf 3).map fun i => readAcc (pickAddr ⟨1, 3, 4, 0, 0, 0, 0, 1, 0⟩ base (lanes [0, 8]) i) 4 (.lane i)
    (∃ e, base.checkAll base.agent (as base 4) = .error (.trap e)) ∧
    (∃ ts xs, base.checkAll base.agent (as base 3) = .ok ts ∧ base.readAll base.agent (as base 3) ts = .ok xs) ∧
    (16 ≤ (base.thr.getQ 0).length ∧ (base.thr.getQ 1).length < 16) ∧ base.thr.getQ 2 = [] ∧
    (base.thr.getQ 6 = [entry [] 0 false] ∧ base.thr.getQ 4 = [entry [0, 8] 3 true] ∧ (entry [0, 8] 3 true).ready = true) ∧
    (∃ ts xs, base.checkAll base.agent gs = .ok ts ∧ base.readAll base.agent gs ts = .ok xs) := by
  refine ⟨trap_of (by decide +kernel), ?_, by decide +kernel, by decide +kernel, by decide +kernel, ?_⟩
  · exact ⟨(List.range 32).map fun i => .mem (0x100 + 4 * i), List.replicate 32 0, by decide +kernel, by decide +kernel⟩
  · exact ⟨[.mem 0x100, .mem 0x108], [0, 0], by decide +kernel, by decide +kernel⟩

/-- VSQ and SCATQ: two lanes that pass, two whose page is missing, one that is misaligned. -/
theorem witness_queue_stores :
    let st := fun (s : State) a off => laneWrites (3 : W32) 4 (lineAddr ⟨4, a, 0, 0, 2, 0, 0, 1, off⟩ s 4) (lanes [0, 8])
    let sc := laneWrites (3 &&& 3 : W32) 4 (pickAddr ⟨5, 3, 4, 0, 2, 0, 0, 1, 0⟩ base (lanes [0, 8])) (lanes [7, 9])
    Before base 0 base ∧
    base.checkStores base.agent ((st base 3 0).map Prod.fst) = .ok [.ready (.mem 0x100), .ready (.mem 0x104)] ∧
    (base.checkStores base.agent ((st base 4 0).map Prod.fst) = .ok [.missing, .missing] ∧ base.thr.replay.length < 16) ∧
    (∃ e, base.checkStores base.agent ((st base 3 1).map Prod.fst) = .error (.trap e)) ∧
    (base.checkStores base.agent (sc.map Prod.fst) = .ok [.ready (.mem 0x100), .ready (.mem 0x108)] ∧
      storesOf sc sc [.ready (.mem 0x100), .ready (.mem 0x108)] = [⟨0x100, 0x100, leBytes 4 7, none⟩, ⟨0x108, 0x108, leBytes 4 9, none⟩]) ∧
    (let s := { fullQueue with thr := fullQueue.thr.setS 4 0x20000020000 }
     s.checkStores s.agent ((st s 4 0).map Prod.fst) = .ok [.missing, .missing] ∧ 16 ≤ s.thr.replay.length) := by
  exact ⟨.inl ⟨rfl, rfl⟩, by decide +kernel, by decide +kernel, trap_of (by decide +kernel), by decide +kernel, by decide +kernel⟩

theorem witness_queue_operations :
    (∃ t, (queues.thr.setQ 4 []).writeS 5 0 = .ok t) ∧ (queues.thr.checkDest 5 = .ok () ∧ queues.thr.getQ 7 = []) ∧
    (queues.thr.ePath = [] ∧ slotWaits.thr.ePath ≠ []) := by
  exact ⟨ok_of (by decide +kernel), by decide +kernel, by decide +kernel⟩

/-- An entry whose lanes have been read and wait for room; a store that waits for a free entry; QPOPS into a register whose write could
overflow a link with CK set, and into one whose write could not. -/
theorem witness_queue_waits :
    ((demoT fun t => { t with waitA := .held 3 (entry [] 0 false) }).thr.waitA = .held 3 (entry [] 0 false)) ∧ (∀ q e, demo.thr.waitA ≠ .held q e) ∧
    (linked.thr.mayOverflow 1 = true ∧ linked.thr.mayOverflow 9 = false ∧ linked.thr.checkDest 1 = .ok () ∧ linked.thr.getQ 0 = []) := by
  refine ⟨rfl, fun q e h => ?_, by decide +kernel⟩
  rw [(by decide +kernel : demo.thr.waitA = .none)] at h; cases h

/-- Two lanes of one block of the view at 0x20000040000, whose blocks lie at 0x20000018000: the block's store is the last lane's (R151). -/
theorem witness_lane_bytes :
    let a := { writeAcc 0x20000040000 4 (.lane 0) with align := 1 }
    let b := view.par 0 + 2 ^ 32 * view.par 1 + (a.va - view.base) / (32 * winSize view.fmt) * (mxKind (view.par 2)).2.2.2
    b = 0x20000018000 ∧ withWindows.checkMem withWindows.agent { writeAcc b (mxKind (view.par 2)).2.2.2 (.lane 0) with align := 1 } = .ok 0x318000 ∧
    storesOf [] [(a, leBytes 4 1), ({ a with va := a.va + 4 }, leBytes 4 2)] [.ready (.conv view 0x318000)] = [] ∧ (lanesOf 6)[1]? = some 2 ∧
    Covers ⟨0x100, 0x100, [1, 2], none⟩ 0x101 ∧ ¬Covers ⟨0x100, 0x100, [1, 2], none⟩ 0x102 := by
  refine ⟨by decide +kernel, by decide +kernel, by decide +kernel, by decide +kernel, ?_, ?_⟩
  · unfold Covers; decide
  · unfold Covers; decide

/-! ### Atomics, waits, holdings -/

theorem witness_atomics :
    (8, Instr.atomSwap ⟨5, 3, 0, 0, 0, 0, 0, 0⟩) ∈ atomForms ⟨5, 3, 0, 0, 0, 0, 0, 0⟩ ∧
    (∃ x, (linked.thr.links false).find? (fun y => y.2.ck && y.2.reads.contains 1) = some x) ∧ NoCkReader linked.thr 9 ∧
    linked.thr.levelDest false 5 = some 3 ∧ NoCkReader linked.thr 5 ∧
    (∃ e, base.check base.agent (atomicAcc 0x101 8 true) = .error (.trap e)) ∧
    (base.check base.agent (atomicAcc 0x100 8 true) = .ok (.mem 0x100) ∧ Ordered base 1 base.flush ∧ Ordered base 3 base.flush ∧
      Reaches base.flush 0x100 8 ∧ ∃ t, base.flush.thr.writeS 5 (BitVec.ofNat 64 (seenNum base.flush 0x100 8)) = .ok t) := by
  refine ⟨by decide, ⟨(3, sumLink), by decide +kernel⟩, ?_, by decide +kernel, ?_, trap_of (by decide +kernel), by decide +kernel, .inl ⟨.inr rfl, rfl⟩,
    .inr ⟨.inr rfl, by decide +kernel⟩, ?_, ok_of (by decide +kernel)⟩
  · unfold NoCkReader; decide +kernel
  · unfold NoCkReader; decide +kernel
  · unfold Reaches Whole; decide +kernel

/-- The word equals the compared register, and does not. -/
theorem witness_compare_and_swap :
    BitVec.ofNat 64 (seenNum base.flush 0x100 8) = base.thr.getS 1 ∧ BitVec.ofNat 64 (seenNum base.flush 0x100 8) ≠ base.thr.getS 3 := by
  decide +kernel

theorem witness_queue_atomics :
    let as := (lanesOf (3 &&& 3)).map fun k => atomicAcc (pickAddr ⟨5, 3, 4, 0, 2, 0, 0, 1, 0⟩ base (lanes [0, 8]) k) 4 false (.lane k)
    (7, Instr.atomqMaxn ⟨5, 3, 4, 0, 2, 0, 0, 1, 0⟩) ∈ atomqForms ⟨5, 3, 4, 0, 2, 0, 0, 1, 0⟩ ∧
    base.checkAll base.agent as = .ok ([0x100, 0x108].map .mem) ∧ (∀ pa ∈ [0x100, 0x108], Reaches base.flush pa 4) ∧
    (∃ e, { base with thr := base.thr.setS 3 1 }.checkAll base.agent
      ((lanesOf 3).map fun k => atomicAcc (1 + 4 * k) 4 false (.lane k)) = .error (.trap e)) := by
  refine ⟨by decide, by decide +kernel, ?_, trap_of (by decide +kernel)⟩
  unfold Reaches Whole; decide +kernel

/-- A store that failed after it left the thread; a parked store that failed on replay behind one that waits. -/
def lateStore : State := demoT fun t => { t with storeErr := [⟨.spanLinkDown, 0x20000018000, 3⟩] }
def lateReplay : State :=
  demoT fun t => { t with replay := [parkedStore, { parkedStore with failed := some ⟨.replayFailed, 0x20000020000, 27⟩ }] }

theorem witness_fences :
    (demo.flush.thr.storeErr = [] ∧ demo.flush.thr.replay = []) ∧
    (let s := demoT fun t => { t with replay := [parkedStore] }
     s.flush.thr.storeErr = [] ∧ s.flush.thr.replay ≠ [] ∧ ∀ p ∈ s.flush.thr.replay, p.failed = none) ∧
    (lateStore.thr.ePath = [] ∧ lateStore.flush.thr.storeErr = [⟨.spanLinkDown, 0x20000018000, 3⟩]) ∧
    (lateReplay.thr.ePath = [] ∧ lateReplay.flush.thr.storeErr = [] ∧
      lateReplay.flush.thr.replay = [parkedStore] ++ { parkedStore with failed := some ⟨.replayFailed, 0x20000020000, 27⟩ } :: []) := by
  decide +kernel

theorem witness_waits :
    (wordHolds 0 7 7 = true ∧ wordHolds 1 7 7 = false ∧ wordHolds 2 7 7 = true ∧ wordHolds 2 6 7 = false) ∧
    (∃ p bs, base.check base.agent (readAcc (base.thr.getS 3).toNat 8) = .ok p ∧
      base.readTarget base.agent (readAcc (base.thr.getS 3).toNat 8) p = .ok bs) := by
  exact ⟨by decide, .mem 0x100, List.replicate 8 0, by decide +kernel, by decide +kernel⟩

/-- k1 counts 2 and k7 has an error; named by the mask 0x82, and 0x80, and 1. -/
def tokens : State := demoT fun t => (t.setK 1 ⟨2, false, 0, 0⟩).setK 7 ⟨0, true, 71, 5⟩
theorem witness_tokens :
    (∃ k ∈ (List.range 8).filter fun k => Nat.testBit 0x82 k, (tokens.thr.getK k).count ≠ 0) ∧
    (∀ k ∈ (List.range 8).filter fun k => Nat.testBit 1 k, (tokens.thr.getK k).count = 0 ∧ (tokens.thr.getK k).err = false) ∧
    (((List.range 8).filter fun k => Nat.testBit 0x80 k).find? fun k => (tokens.thr.getK k).err) = some 7 ∧
    (∀ k ∈ (List.range 8).filter fun k => Nat.testBit 0x80 k, (tokens.thr.getK k).count = 0) := by decide +kernel

/-- A firing with a RESTARTABLE lane. -/
def restartThr : Thread := { thr with lanes := [⟨{ task with restart := true }, false⟩] }

/-- The lowest index that no table has; a holding that the core holds, one in flight, a COMMON and a SEALED one; agents that exist. -/
theorem witness_holdings :
    let s := { demoC fun c => { c with holdings := c.holdings ++
        [(3, { base := 0x1000000, lsize := 12, cls := .common, holder := 0, inflight := none }),
         (4, { base := 0x2000000, lsize := 12, cls := .sealed, holder := 0, inflight := none }),
         (5, { base := 0x3000000, lsize := 12, cls := .exclusive, holder := 0, inflight := some 0 }),
         (6, { base := 0x4000000, lsize := 12, cls := .exclusive, holder := 0x20009, inflight := none })] } with
      thr := (((thr.setS 1 2).setS 2 4096).setS 3 5).setS 4 0x20009 }
    (HasRestartable { s with thr := restartThr }.thr ∧ ¬HasRestartable s.thr) ∧
    (holdingOf s ⟨0, 2, 0, 0, 0, 0, 0, 0⟩ = none ∧ s.thr.checkDest 5 = .ok ()) ∧
    (∃ x, holdingOf s ⟨0, 1, 4, 0, 0, 0, 0, 0⟩ = some x ∧ x.heldBy s.vc.id = true ∧ NamesAgent s.ctx 0x20009 ∧ ¬NamesAgent s.ctx 0x2000A ∧
      NamesAgent s.ctx 0 ∧ ¬NamesAgent s.ctx 1 ∧ ∃ s1, s.drain = .ok s1) ∧
    (∃ x, holdingOf s ⟨0, 3, 0, 0, 0, 0, 0, 0⟩ = some x ∧ x.heldBy s.vc.id = false ∧ x.inflight ≠ none ∧ x.cls ≠ .sealed) ∧
    s.det = false ∧ (∃ t, s.thr.writeS 5 0 = .ok t) ∧
    { s with ctx := { s.ctx with launches := [(1, { launch with det := true })] } }.det = true ∧
    (∃ x, SMap.find s.ctx.holdings 3 = some x ∧ x.cls = .common ∧ x.inflight = none) ∧ (∃ x, SMap.find s.ctx.holdings 4 = some x ∧ x.cls = .sealed) ∧
    (∃ x, SMap.find s.ctx.holdings 6 = some x ∧ x.heldBy 0 = false ∧ x.cls ≠ .common) := by
  unfold HasRestartable holdingOf NamesAgent
  refine ⟨by decide +kernel, by decide +kernel, ⟨⟨0x20000018000, 15, .exclusive, 0, none⟩, by decide +kernel, by decide +kernel, by decide +kernel,
      by decide +kernel, by decide +kernel, by decide +kernel, ok_of (by decide +kernel)⟩,
    ⟨⟨0x3000000, 12, .exclusive, 0, some 0⟩, by decide +kernel, by decide +kernel, by decide, by decide⟩, by decide +kernel, ok_of (by decide +kernel),
    by decide +kernel, ⟨_, rfl, rfl, rfl⟩, ⟨_, rfl, rfl⟩, ⟨_, rfl, by decide, by decide⟩⟩

/-! ### Windows and tasks -/

/-- Pool records 0, 2, 4 and 6: a RAMP window, a ROTARY window of one pair whose table stands at 0x20000018000, one that starts at 0x20000050001,
one as small as 2^15 bytes. -/
def windowBytes (base lsize kind fmt : Nat) (p : List Nat) : List Byte :=
  leBytes 8 base ++ leBytes 1 lsize ++ leBytes 1 kind ++ leBytes 1 fmt ++ leBytes 1 0 ++ ((List.range 13).map fun k => leBytes 4 (p[k]?.getD 0)).flatten
def rampBytes : List Byte := windowBytes 0x20000050000 16 1 4 [5, 3]
def rotaryBytes : List Byte := windowBytes 0x20000050000 16 4 8 [1, 0, 0x18000, 0x200]
def oddBytes : List Byte := windowBytes 0x20000050001 16 1 4 [5, 3]
def smallBytes : List Byte := windowBytes 0x20000050000 15 1 4 [5, 3]
def gwState : State := poke demo 0x31C000 (rampBytes ++ rotaryBytes ++ oddBytes ++ smallBytes)
/-- GWSET of entry 15 from pool record n. -/
def gwset (n : Nat) : RArgs := ⟨5, 0, 0, 0, 0, 0, 0, 15 * 4096 + n⟩

/-- A VLDE on the path of the E-stream. -/
def vectorAhead : State := { coded 0x304 with thr := { thr with apc := 0x20000000008, ePath := [0x20000000000] } }

theorem witness_all_done : AllDone demo ∧ ¬AllDone fullQueue ∧ ¬AllDone vectorAhead := by
  refine ⟨⟨?_, fun p h => ?_⟩, fun h => ?_, fun h => ?_⟩
  · rintro ⟨a, h, -⟩
    rw [(by decide +kernel : demo.thr.ePath = [])] at h; cases h
  · rw [(by decide +kernel : demo.thr.replay = [])] at h; cases h
  · exact h.2 { parkedStore with accs := [⟨0x20000050000, [1], none, true, none⟩] } (by decide +kernel) rfl
  · have e : vectorAhead.einstAt 0x20000000000 = 0x304 := by decide +kernel
    exact h.1 ⟨0x20000000000, by decide +kernel, by rw [e]; exact .inl ⟨by decide, by decide, by decide⟩⟩

/-- No running launch; an index outside the pool and an odd one of a large record; a pool under a window, in a slice, in pool memory. -/
theorem witness_pool_records :
    (demoC fun c => { c with launches := [] }).launchObj = none ∧ demo.launchObj = some obj ∧ obj.poolCount < 64 + 64 / 32 ∧ 62 + 64 / 32 ≤ obj.poolCount ∧
    (findWindow (demoC fun c => { c with windows := c.windows.setIfInBounds 0 { ramp with base := 0x20000010000 } }).windows (obj.pool + 32 * 0) =
      some { ramp with base := 0x20000010000 }) ∧
    (NoWindow demo (obj.pool + 32 * 2) ∧ demo.translate demo.agent (readAcc (obj.pool + 32 * 2) 64) = .ok (0x31030F, 0x31C040) ∧
      demo.accessFails (busOf (pteSlot 0x31030F) 0x31C040) 64 = none) ∧
    (∃ w, cold.translate cold.agent (readAcc (obj.pool + 32 * 2) 64) = .error (.wait w)) ∧
    (∃ pte pa, pool.translate pool.agent (readAcc (obj.pool + 32 * 2) 64) = .ok (pte, pa) ∧ 0x80000000000 ≤ pa) := by
  refine ⟨by decide +kernel, by decide +kernel, by decide, by decide, by decide +kernel, ⟨?_, by decide +kernel, by decide +kernel⟩, wait_of (by decide +kernel),
    ⟨0x10000001030F, 0x10000001C040, by decide +kernel⟩⟩
  unfold NoWindow; decide +kernel

theorem witness_window_order :
    (HasRestartable restartThr ∧ ¬HasRestartable demo.thr ∧ MayWindow demo) ∧
    (demoC fun c => { c with launches := [(1, { launch with det := true })] }).det = true ∧ linked.thr.levelDest false 5 = some 3 ∧
    (∃ e, gwState.poolRead 64 64 = .error (.trap e)) ∧ fullQueue.thr.replay ≠ [] ∧ demo.thr.replay = [] ∧
    (∃ t, demo.flush.thr.writeS 5 1 = .ok t) := by
  unfold MayWindow HasRestartable
  exact ⟨by decide +kernel, by decide +kernel, by decide +kernel, trap_of (by decide +kernel), by decide +kernel, by decide +kernel,
    ok_of (by decide +kernel)⟩

/-- WINDOW_CONFIG at the ends of its ranges: LSIZE 15 and 41, the last base below 2^24, a base that is no multiple of 65,536, an entry that
overlaps. -/
theorem witness_window_records :
    (gwState.poolRead 0 64 = .ok rampBytes ∧ (gwEntry (gwset 0) gwState rampBytes).kind ≠ 4 ∧
      ¬WindowBad gwState.flush (gwEntry (gwset 0) gwState rampBytes) 15 0) ∧
    (gwState.poolRead 2 64 = .ok rotaryBytes ∧ (gwEntry (gwset 2) gwState rotaryBytes).kind = 4 ∧
      ∃ f, gwState.flush.rotaryTable (gwEntry (gwset 2) gwState rotaryBytes) = .ok f) ∧
    WindowBad gwState.flush (gwEntry (gwset 4) gwState oddBytes) 15 0 ∧ WindowBad gwState.flush (gwEntry (gwset 6) gwState smallBytes) 15 0 ∧
    WindowBad demo { ramp with lsize := 41 } 15 0 ∧ WindowBad demo { ramp with base := 0xFF0000 } 15 0 ∧
    WindowBad withWindows { ramp with base := 0x20000030000 } 15 0 ∧ ¬WindowBad withWindows { ramp with base := 0x20000050000 } 15 0 ∧
    ¬WindowBad withWindows { ramp with base := 0x20000030000 } 0 0 := by
  unfold WindowBad
  refine ⟨⟨?_, ?_, ?_⟩, ⟨?_, ?_, ok_of (by decide +kernel)⟩, ?_, ?_, ?_, ?_, ?_, ?_, ?_⟩ <;> decide +kernel

/-- Quiescing: each of its steps is where a state stops, and none. -/
def arrayCmd (e : Option LateErr) : ArrayCmd := { vcore := 0, thread := 0, first := 3, count := 2, err := e }
def lateArray : State := demoT fun t => { t with deferred := [⟨.mcmdReject, 0, 0⟩] }
def busyArray : State := demoV fun v => { v with outstanding := [arrayCmd none] }
theorem witness_quiesce :
    slotWaits.thr.ePath ≠ [] ∧ demo.thr.ePath = [] ∧ (∃ q, q < 8 ∧ queues.thr.getQ q ≠ []) ∧ (∀ q, q < 8 → demo.thr.getQ q = []) ∧
    (∃ k, k < 8 ∧ (tokens.thr.getK k).count ≠ 0) ∧ (∀ k, k < 8 → (demo.thr.getK k).count = 0 ∧ (demo.thr.getK k).err = false) ∧
    (let s := demoT fun t => t.setK 7 ⟨0, true, 71, 5⟩
     (∀ k, k < 8 → (s.thr.getK k).count = 0) ∧ (s.thr.getK 7).err = true ∧ ∀ j, j < 7 → (s.thr.getK j).err = false) ∧
    (fullQueue.drain = .error (.wait .other)) ∧ (busyArray.drain = .ok busyArray ∧ busyArray.arrayBusy = true) ∧
    (lateArray.drain = .ok lateArray ∧ lateArray.arrayBusy = false ∧ lateArray.thr.deferred = [⟨.mcmdReject, 0, 0⟩]) ∧
    (demo.drain = .ok demo ∧ demo.arrayBusy = false ∧ demo.thr.deferred = [] ∧ demo.quiesce 255 = .ok demo) := by
  and_intros <;> decide +kernel

/-- A join record with a count at offset 0x400 of the arena, and a lane that ends in it. -/
def joinLane : LaneRec := ⟨{ task with join := 0x400 }, false⟩
def joinRec (n : Nat) : List Byte := { task with count := n, result := 0xFFFFFFFF, join := 0xFFFFFFFF }.bytes
def joined (n : Nat) : State := poke (demoT fun t => { t with lanes := [joinLane] }) 0x310400 (joinRec n)

theorem witness_lane_ends :
    SMap.find demo.ctx.launches demo.thr.launch = some launch ∧ launch.join = 1 + 1 ∧
    (∀ n ∈ [0, 1, 2], (joined n).hwRead ((joined n).ctx.framebase.toNat + joinLane.task.join) 32 true = some (joinRec n)) ∧
    (fld (joinRec 0) 8 4 % 2 ^ 20 = 0 ∧ fld (joinRec 1) 8 4 % 2 ^ 20 = 1 ∧ fld (joinRec 2) 8 4 % 2 ^ 20 = 2) ∧
    (joined 1).ctx.recordCause (joinRec 1) = none ∧
    { context with objects := [] }.recordCause (joinRec 1) = some .badCodePointer ∧ joinLane.task.join < 0xFFFFFFFE ∧
    (SMap.find (demoC fun c => { c with launches := [(1, { launch with join := 1, doneAddr := 0x20000018000 })] }).ctx.launches 1).map
      (fun x => (x.join, decide (x.doneAddr ≠ 0))) = some (0 + 1, true) := by
  refine ⟨by decide +kernel, by decide, fun n h => ?_, by decide +kernel, by decide +kernel, by decide +kernel, by decide, by decide +kernel⟩
  have e : (joined n).ctx.framebase.toNat + joinLane.task.join = 0x20000010000 + 0x400 := by rfl
  rw [e]
  simp only [List.mem_cons, List.not_mem_nil, or_false] at h
  rcases h with rfl | rfl | rfl <;> exact page_read 32 (by omega) (by decide +kernel) (by decide +kernel) (by decide +kernel)

theorem witness_done_and_tail :
    (demoT fun t => { t with donePending := true }).thr.donePending = true ∧ demo.thr.donePending = false ∧
    ((outOfHandler (joined 1)).quiesce 255 = .ok (outOfHandler (joined 1)) ∧
      (liveOf (joined 1).thr).map Prod.snd = [joinLane] ∧ ∃ as, (joined 1).hwAddrs true 32 ((joined 1).ctx.framebase.toNat + 0x400) = .ok as) ∧
    (∃ e, (outOfHandler queues).quiesce 255 = .error (.trap e)) ∧
    (∃ x ∈ liveOf (demoT fun t => { t with lanes := [⟨task, true⟩] }).thr, x.2.joined = true) ∧ (∀ x ∈ liveOf demo.thr, x.2.joined = false) ∧
    (let s := demoS [(1, BitVec.ofNat 64 placeVa), (2, 8)]
     liveOf s.thr = [] ++ (0, ⟨task, false⟩) :: [] ∧ tailPick ⟨0, 1, 2, 0, 0, 0, 0, 0⟩ s.thr 0 = 1 ∧ tailPick ⟨0, 1, 2, 0, 1, 0, 0, 0⟩ s.thr 0 = 2 ∧
     s.ctx.isEntry (s.thr.getS 1).toNat = true ∧ s.ctx.isEntry (s.thr.getS 2).toNat = false ∧ tailPick ⟨0, 1, 0, 0, 1, 0, 0, 0⟩ s.thr 0 = 0) := by
  exact ⟨by decide +kernel, by decide +kernel, ⟨by decide +kernel, by decide +kernel, ok_of (by decide +kernel)⟩, trap_of (by decide +kernel),
    by decide +kernel, by decide +kernel, by decide +kernel⟩

/-- JOIN: the lane's window of 256 bytes takes a record at JOFF 14 and none at 15; counts 0, 1 and 2^20. -/
theorem witness_join :
    let s := demoS [(1, BitVec.ofNat 64 placeVa), (2, 1), (3, 0x100000)]
    s.thr.ePath = [] ∧ s.ctx.isEntry (s.thr.getS 2).toNat = false ∧ s.ctx.isEntry (s.thr.getS 1).toNat = true ∧
    activeOf ⟨0, 2, 1, 0, 0, 0, 0, 14⟩ s.thr = [(0, ⟨task, false⟩)] ∧ ¬(16 * task.fsize < 16 * 14 + 32) ∧ 16 * task.fsize < 16 * 15 + 32 ∧
    Lowest (activeOf ⟨0, 2, 1, 0, 0, 0, 0, 15⟩ s.thr) (fun l => l.task.restart = true ∨ 16 * l.task.fsize < 16 * 15 + 32) 0 ⟨task, false⟩ ∧
    (s.thr.getS 0).toNat = 0 ∧ 1 ≤ (s.thr.getS 2).toNat ∧ 2 ^ 20 ≤ (s.thr.getS 3).toNat ∧
    ∃ ts, (activeOf ⟨0, 2, 1, 0, 0, 0, 0, 14⟩ s.thr).mapM (fun x => s.joinTarget (s.ctx.framebase.toNat + x.2.task.frame + 16 * 14)) = .ok ts ∧
      ∃ s1, joinStores ⟨0, 2, 1, 0, 0, 0, 0, 14⟩ s (activeOf ⟨0, 2, 1, 0, 0, 0, 0, 14⟩ s.thr) ts s.flush = .ok s1 := by
  refine ⟨?_, ?_, ?_, ?_, by decide, by decide, ⟨[], [], ?_, .inr (by decide), fun y h => by cases h⟩, ?_, ?_, ?_, ?found⟩
  case found => exact ⟨[[({ va := 0x200000100E0, size := 32, align := 16, kind := .write, who := .scalar, fetching := false, cover := [] }, 0x3100E0)]],
      by decide +kernel, ok_of (by decide +kernel)⟩
  all_goals decide +kernel

/-- YIELD with a record waiting and every thread taken, and with four parked firings. -/
def record (t : TaskRec) : DRec := { task := t, launch := 1, domain := 0, group := 1, since := 0, entered := 0, slot := none }
def crowded : State :=
  demoV fun v => { v with
    deque := [record task]
    threads := (List.range 8).map fun n => (n, { thr with id := n }) }
theorem witness_yield :
    (crowded.quiesce 255 = .ok crowded ∧ crowded.vc.deque ≠ [] ∧ crowded.thr.status ≠ .free ∧ crowded.vc.parks.length < 4 ∧
      ∀ n, n < 8 → n ≠ crowded.thr.id → (SMap.get (Thread.fresh n) crowded.vc.threads n).status ≠ .free) ∧
    4 ≤ (demoV fun v => { v with parks := List.replicate 4 ⟨thr, 0⟩ }).vc.parks.length ∧
    (demoC fun c => { c with preempt := .pending [9] }).ctx.preempt ≠ .none ∧ demo.ctx.preempt = .none ∧ demo.vc.deque = [] := by
  and_intros <;> decide +kernel

/-- SPAWN with FSIZE 1, and the fields RS, ROFF, JOFF, FSTRIDE and FOFF given. -/
def spawnCmd (rs roff joff fsize fstride foff : Nat) : Nat :=
  rs * 2 ^ 60 + roff * 2 ^ 52 + joff * 2 ^ 44 + fsize * 2 ^ 32 + fstride * 2 ^ 20 + foff
def spawnArgs (cmd : Nat) : CArgs := ⟨⟨2, 1, 3, 0, 0, 0, 0, 0⟩, cmd⟩
/-- s1 the code, s2 the number of children, s3 the index of the core's holding. -/
def spawns (n : Nat) : State := demoS [(1, BitVec.ofNat 64 placeVa), (2, BitVec.ofNat 64 n), (3, 2)]

/-- The frame of 256 bytes takes 32 result slots of 8 bytes and no more; the arena of 0x8000 bytes takes windows up to its end; 4,096 children. -/
theorem witness_spawn :
    (spawns 1).det = false ∧ (demoC fun c => { c with launches := [(1, { launch with det := true })] }).det = true ∧
    (spawns 1).ctx.isEntry ((spawns 1).thr.getS 1).toNat = true ∧ demo.ctx.isEntry (demo.thr.getS 1).toNat = false ∧
    (AtCore (spawnArgs 0) (spawns 1) 0 ∧ ∀ v, ¬AtCore (spawnArgs 0) (demoS [(3, 1)]) v) ∧
    (¬SpawnWindow (spawnArgs (spawnCmd 3 0 14 1 1 16)) 32 ⟨task, false⟩ ∧ SpawnWindow (spawnArgs (spawnCmd 3 0 14 1 1 16)) 33 ⟨task, false⟩ ∧
      SpawnWindow (spawnArgs (spawnCmd 3 0 15 1 1 16)) 1 ⟨task, false⟩) ∧
    Lowest (activeOf (spawnArgs 0).r (spawns 33).thr) (SpawnWindow (spawnArgs (spawnCmd 3 0 14 1 1 16)) 33) 0 ⟨task, false⟩ ∧
    (¬SpawnArena (spawnArgs (spawnCmd 3 0 0 1 1 2047)) (spawns 1) 1 ⟨task, false⟩ ∧
      SpawnArena (spawnArgs (spawnCmd 3 0 0 1 1 2047)) (spawns 2) 2 ⟨task, false⟩) ∧
    (((spawns 4096).thr.getS 2).toNat ≤ 4096 ∧ 4096 < ((spawns 4097).thr.getS 2).toNat ∧ ((spawns 0).thr.getS 2).toNat = 0) ∧
    ((childrenOf (spawnArgs (spawnCmd 3 0 14 1 1 16)) (spawns 2)).length = 2 ∧ (spawns 2).fits 0 2 = true ∧ (spawns 2).fits 0 1025 = false ∧
      ∃ s1, (spawns 2).drain = .ok s1) := by
  refine ⟨?_, ?_, ?_, ?_, ⟨?_, ?_⟩, ?_, ?_, ?_, by decide +kernel, ?_, ?_, ?_, ok_of (by decide +kernel)⟩
  iterate 4 (· decide +kernel)
  · exact ⟨_, rfl, .inl rfl, rfl, by decide +kernel, by decide⟩
  · rintro v ⟨h, e, c, -⟩
    rw [(by decide +kernel : SMap.find (demoS [(3, 1)]).ctx.holdings ((demoS [(3, 1)]).thr.getS (spawnArgs 0).r.b).toNat =
      some ⟨0x20000010000, 15, .frame, 0, none⟩)] at e
    cases e; rcases c with c | c <;> cases c
  · unfold SpawnWindow; decide
  · refine ⟨[], [], by decide +kernel, ?_, fun y h => by cases h⟩; unfold SpawnWindow; decide
  · unfold SpawnArena; decide +kernel
  all_goals decide +kernel

/-- A named queue of 16 records in a QUEUE holding. -/
def queueEntry : List Byte := leBytes 8 0x10000000000 ++ leBytes 4 16 ++ leBytes 4 0 ++ leBytes 8 0 ++ leBytes 2 0 ++ leBytes 2 1 ++ leBytes 1 1 ++
  List.replicate 35 0
def named (n q : Nat) : State :=
  poke { (spawns n) with
    thr := (spawns n).thr.setS 3 (BitVec.ofNat 64 q)
    ctx := { context with holdings := [(0, { base := 0x10000000000, lsize := 12, cls := .queue, holder := 0, inflight := none })] } }
    0x318000 queueEntry
theorem witness_spawn_queue :
    256 ≤ ((named 1 256).thr.getS 3).toNat ∧ (named 1 0).hwRead ((named 1 0).ctx.qtable.toNat + 64 * 0) 64 = some queueEntry ∧
    (named 1 0).ctx.queueOk (named 1 0).nv (qentOf queueEntry) queueEntry = true ∧
    (∃ bs, (named 1 255).hwRead ((named 1 255).ctx.qtable.toNat + 64 * 255) 64 = some bs ∧
      (named 1 255).ctx.queueOk (named 1 255).nv (qentOf bs) bs = false) ∧
    fld queueEntry 8 4 + fld queueEntry 12 4 < ((named 17 0).ctx.queue 0).length + 17 ∧
    ((named 16 0).ctx.queue 0).length + 16 ≤ fld queueEntry 8 4 + fld queueEntry 12 4 := by
  exact ⟨by decide +kernel, by decide +kernel, by decide +kernel, ⟨List.replicate 64 0, by decide +kernel, by decide +kernel⟩, by decide +kernel,
    by decide +kernel⟩

/-- A table of named queues that no leaf maps. -/
theorem witness_queue_table :
    let s := (named 1 0).updCtx fun c => { c with qtable := 0x20000030000 }
    s.hwRead (s.ctx.qtable.toNat + 64 * 0) 64 = none ∧ ∃ c d, s.hwFails (s.ctx.qtable.toNat + 64 * 0 + 0) = some (c, d) :=
  ⟨by decide +kernel, .pageFaultRead, 5, by decide +kernel⟩

/-! ### Copies -/

/-- Records of tensors of two elements, and the box of both. -/
def tensorBytes (base fmt : Nat) (ext stride : Nat) : List Byte :=
  leBytes 8 base ++ leBytes 1 fmt ++ leBytes 1 1 ++ leBytes 2 0 ++ leBytes 4 0 ++ leBytes 4 ext ++ leBytes 16 0 ++ leBytes 4 stride ++
    leBytes 24 0
def srcBytes : List Byte := tensorBytes 0x20000018000 4 2 4
def dstBytes : List Byte := tensorBytes 0x20000019000 4 2 4
def nearBytes : List Byte := tensorBytes 0x2000 4 2 4
def shortBytes : List Byte := tensorBytes 0x20000019002 4 2 4
def planeBytes : List Byte := tensorBytes 0x20000019000 16 32 32
def rampDst : List Byte := tensorBytes 0x20000030000 4 2 4
def boxBytes (n : Nat) : List Byte := leBytes 4 n ++ leBytes 4 1 ++ leBytes 4 1 ++ leBytes 4 1 ++ leBytes 4 1 ++ leBytes 2 18056 ++ leBytes 10 0
/-- Pool records 8, 10, 12, 13, 14, 16, 18 and 20. -/
def copies : State :=
  poke withWindows 0x31C100 (srcBytes ++ dstBytes ++ boxBytes 2 ++ boxBytes 32 ++ nearBytes ++ shortBytes ++ planeBytes ++ rampDst)
/-- A copy from record 8 into record t by box record x; k2 is its token, s6 its word, s7 its value, MEMBERS as given. -/
def copyArgs (t x members : Nat) : CArgs := ⟨⟨7, 0, 0, 6, 2, 0, 0, 0⟩, 8 + t * 2 ^ 12 + x * 2 ^ 24 + members * 2 ^ 36⟩
def copying : State := { copies with thr := (copies.thr.setS 6 0x20000018040).setS 7 0x2100 }

theorem test_copy :
    let s := poke { copies with thr := copies.thr } 0x318000 (leBytes 8 0x1122334455667788)
    let t := nextOf (exec (.copy 0 (copyArgs 10 12 0)) s)
    let u := nextOf (exec .copyComplete { t with req := { t.req with n := t.nextId - 1 } })
    (t.thr.getK 2).count = 1 ∧ t.mem.readLe 0x319000 8 = 0 ∧ u.mem.readLe 0x319000 8 = 0x1122334455667788 ∧ (u.thr.getK 2).count = 0 := by
  decide +kernel

theorem notBad {x : CArgs} {s : State} {sb db bb : List Byte} (h1 : (tensorOf s.thr sb).bad sb false s.windows = false)
    (h2 : (tensorOf s.thr db).bad db true s.windows = false)
    (h3 : ((boxOf bb).bad bb (tensorOf s.thr sb).rank (tensorOf s.thr db).rank ||
      ((tensorOf s.thr db).mx && decide ((boxOf bb).dstDim 0 % 32 ≠ 0))) = false)
    (h4 : (s.thr.getS x.r.a).toNat < 2 ^ 60) (h5 : (s.thr.getS x.r.b).toNat < 2 ^ 60) : ∀ n, ¬RecordsBad x s sb db bb n := by
  intro n
  simp only [RecordsBad, h1, h2, h3]
  simp only [Bool.false_eq_true, if_false]
  omega

theorem witness_copies :
    (Records (copyArgs 10 12 0) copying srcBytes dstBytes (boxBytes 2) ∧
      ∀ n, ¬RecordsBad (copyArgs 10 12 0) copying srcBytes dstBytes (boxBytes 2) n) ∧
    (RecordsBad (copyArgs 16 12 0) copying srcBytes shortBytes (boxBytes 2) 16 ∧ Records (copyArgs 16 12 0) copying srcBytes shortBytes (boxBytes 2)) ∧
    (RecordsBad (copyArgs 18 12 0) copying srcBytes planeBytes (boxBytes 2) 12) ∧
    (RecordsBad (copyArgs 10 12 0) { copying with thr := copying.thr.setS 0 0 |>.setS 9 (2 ^ 60) } (tensorBytes 0x20000018001 4 2 4) dstBytes (boxBytes 2) 8) ∧
    (PairRefused (tensorOf copying.thr srcBytes) (tensorOf copying.thr planeBytes) ∧ ¬PairRefused (tensorOf copying.thr srcBytes) (tensorOf copying.thr dstBytes)) ∧
    (MeetsWindow copying (tensorOf copying.thr rampDst) ∧ ¬MeetsWindow copying (tensorOf copying.thr dstBytes)) ∧
    (copying.thr.getK 2).count < 255 ∧ ¬(({ copying with thr := copying.thr.setK 2 ⟨255, false, 0, 0⟩ } : State).thr.getK 2).count < 255 := by
  refine ⟨⟨?_, ?_⟩, ⟨?_, ?_⟩, ?_, ?_, ⟨?_, ?_⟩, ⟨?_, ?_⟩, by decide +kernel, by decide +kernel⟩
  · unfold Records; decide +kernel
  · exact notBad (by decide +kernel) (by decide +kernel) (by decide +kernel) (by decide +kernel) (by decide +kernel)
  · unfold RecordsBad; decide +kernel
  · unfold Records; decide +kernel
  · unfold RecordsBad; decide +kernel
  · unfold RecordsBad; decide +kernel
  · unfold PairRefused; decide +kernel
  · unfold PairRefused; decide +kernel
  · unfold MeetsWindow; decide +kernel
  · unfold MeetsWindow; decide +kernel

/-- The completion word: one that passes its check, one that is misaligned; the spawn record, with its three outcomes; s6 zero. -/
theorem witness_copy_words :
    (∃ e, copying.check copying.agent (writeAcc 0x20000018041 8) = .error (.trap e)) ∧
    copying.check copying.agent (writeAcc (copying.thr.getS 6).toNat 8) = .ok (.mem 0x318040) ∧ (copies.thr.getS 6).toNat = 0 ∧
    (∃ e, copying.check copying.agent (readAcc 0x20000018041 32) = .error (.trap e)) ∧
    (copying.check copying.agent (readAcc (copying.thr.getS 6).toNat 32) = .ok (.mem 0x318040) ∧
      (poke copying 0x318040 (joinRec 0)).readTarget copying.agent (readAcc 0x20000018040 32) (.mem 0x318040) = .ok (joinRec 0) ∧
      context.recordCause (joinRec 0) = none ∧ (taskOf (joinRec 0)).count = 0 ∧ (taskOf (joinRec 1)).count ≠ 0 ∧
      context.recordCause (List.replicate 32 0) = some .badCodePointer) ∧
    (Nat.testBit 3 2 = false ∧ Nat.testBit 7 2 = true) := by
  exact ⟨trap_of (by decide +kernel), by decide +kernel, by decide +kernel, trap_of (by decide +kernel), by decide +kernel, by decide⟩

theorem witness_multicast :
    (GroupBad (copyArgs 14 12 0) copying nearBytes ∧ GroupBad (copyArgs 14 12 2) copying nearBytes ∧
      GroupBad (copyArgs 10 12 1) copying dstBytes ∧ ¬GroupBad (copyArgs 14 12 1) copying nearBytes ∧
      GroupBad (copyArgs 14 12 1) { copying with thr := copying.thr.setS 7 0x3C0000 } nearBytes ∧
      ¬GroupBad (copyArgs 14 12 1) { copying with thr := copying.thr.setS 7 0x3BFFF8 } nearBytes) ∧
    (Records (copyArgs 14 12 1) copying srcBytes nearBytes (boxBytes 2) ∧
      ∀ n, ¬RecordsBad (copyArgs 14 12 1) copying srcBytes nearBytes (boxBytes 2) n) ∧
    copying.check copying.agent (atomicAcc (copying.thr.getS 6).toNat 8 false) = .ok (.mem 0x318040) ∧
    (∃ e, copying.check copying.agent (atomicAcc 0x20000018041 8 false) = .error (.trap e)) ∧
    (copying.vc.copyms.length < 4 ∧ 4 ≤ (demoV fun v => { v with copyms := List.replicate 4 ⟨1, [0], 0, 0⟩ }).vc.copyms.length) := by
  refine ⟨?_, ⟨?_, ?_⟩, by decide +kernel, trap_of (by decide +kernel), by decide +kernel⟩
  · unfold GroupBad; decide +kernel
  · unfold Records; decide +kernel
  · exact notBad (by decide +kernel) (by decide +kernel) (by decide +kernel) (by decide +kernel) (by decide +kernel)

/-- A copy in flight: record 8 into record 10, with no word, with a word, with a record to spawn, with a failure, suspended. -/
def job : CopyJob := { jobOf 0 (copyArgs 10 12 0) copying srcBytes dstBytes (boxBytes 2) with word := 0, order := 1 }
def inCopy (j : CopyJob) : State :=
  { demo with ctx := { context with copies := [(1, j)] }, req := { demo.req with n := 1 } }
def lateCopy : CopyJob := { job with stop := some ⟨.permWrite, 0x20000019000, 0⟩ }
/-- Into a page that no leaf maps. -/
def lostCopy : CopyJob := { job with dst := tensorOf copying.thr (tensorBytes 0x20000020000 4 2 4) }

theorem focus_demo (s : State) (h : s.tid = ⟨1, 0, 0⟩) : s = s.focus ⟨1, 0, 0⟩ := by
  simp [State.focus, h]

theorem notHalted (s : State) (h : ((s.ctxAt s.req.t.ctx).map Ctx.halted) ≠ some true) : ∀ c, s.ctxAt s.req.t.ctx = some c → CopiesGoOn s c := by
  intro c e k
  rw [e, Option.map_some, k] at h; exact absurd rfl h

theorem payload (j : CopyJob) (s : State) (h : (copyLoop j (j.steps - j.pos) j.pos s).2.2 = none) :
    PayloadDone j s (copyLoop j (j.steps - j.pos) j.pos s).1 := ⟨_, Prod.ext rfl (Prod.ext rfl h)⟩

theorem witness_copy_engine :
    (MayCopy (inCopy job) (inCopy job) job ∧ job.members = none ∧ ∃ s1, PayloadDone job (inCopy job) s1) ∧
    (job.word = 0 ∧ job.spawn = none) ∧
    (∃ t, (inCopy job).engineTarget job 8 0x20000018040 8 = .ok t ∧ ∃ s2, (inCopy job).engineStore t (leBytes 8 5) = .ok s2) ∧
    (SMap.find (inCopy job).ctx.launches job.ident.launch = some launch ∧ (inCopy job).fits (task.key / 2 ^ 32 * launch.nv / 2 ^ 32) 1 = true) ∧
    (∃ k e, copyLoop lostCopy (lostCopy.steps - lostCopy.pos) lostCopy.pos (inCopy lostCopy) = (inCopy lostCopy, k, some (.trap e))) ∧
    ((inCopy { job with suspended := true }).copyAt 1 1 = some { job with suspended := true }) ∧
    ((inCopy lateCopy).copyAt 1 1 = some lateCopy ∧ lateCopy.stop = some ⟨.permWrite, 0x20000019000, 0⟩ ∧ lateCopy.token < 8) := by
  refine ⟨⟨⟨by decide +kernel, notHalted _ (by decide +kernel), focus_demo _ (by decide +kernel), by decide +kernel, by decide +kernel⟩, by decide +kernel, ?_⟩, by decide +kernel,
    ?_, by decide +kernel, ?_, by decide +kernel, by decide +kernel⟩
  · exact ⟨_, payload job (inCopy job) (by decide +kernel)⟩
  · obtain ⟨t, h⟩ := ok_of (r := (inCopy job).engineTarget job 8 0x20000018040 8) (by decide +kernel)
    refine ⟨t, h, ?_⟩
    have e : (inCopy job).engineTarget job 8 0x20000018040 8 =
        .ok [({ va := 0x20000018040, size := 8, align := 8, kind := .write, who := .scalar, fetching := false, cover := [(0x20000018040, 8)] }, 0x318040)] := by
      decide +kernel
    rw [e] at h; cases h
    exact ok_of (by decide +kernel)
  · exact ⟨0, ⟨.pageFaultWrite, 0x20000020000, 5⟩, by decide +kernel⟩

/-- A COPYM for core 0 into its near memory, and its mailbox at the sender. -/
def multi : CopyJob :=
  { job with dst := tensorOf copying.thr nearBytes, members := some [0], landing := 0x2100, word := 0 }
def manyMembers : CopyJob := { multi with members := some [0, 1] }
def sender : State :=
  let vc : VCore := { core with copyms := [⟨1, [0], 0x2200, 0⟩] }
  let c : Ctx := { context with freeMsgs := [⟨0, 1, 0, 2⟩], vcores := [(0, vc)] }
  { demo with ctx := c, vc := vc, ctxs := [(1, c)], req := { demo.req with n := 1 } }
theorem witness_multicast_flow :
    (MayCopy (inCopy multi) (inCopy multi) multi ∧ 0 ∈ [0] ∧ multi.pos = 0 ∧ (∃ s1, PayloadDone { multi with serving := 0 } (inCopy multi) s1 ∧
      s1.memberCheck 0 (writeAcc 0x2100 8) = .ok 0x2100)) ∧
    (([0] : List Nat).filter (fun m => decide (m ≠ 0)) = [] ∧ ([0, 1] : List Nat).filter (fun m => decide (m ≠ 0)) ≠ []) ∧
    (SenderOf sender (sender.sync.load ⟨1, 0, 0⟩) 0 ⟨1, [0], 0x2200, 0⟩ ∧
      ([0] : List Nat).filter (fun m => !([(⟨0, 1, 0, 2⟩ : FreeMsg)].any fun x => decide (x.member = m))) = [] ∧
      (sender.sync.load ⟨1, 0, 0⟩).mailboxAddr 0 0x2200 = .ok 0x2200) ∧
    (∀ f ∈ demo.vc.frees, f.key ≠ (demo.thr.getS 1).toNat) ∧
    ((demoV fun v => { v with frees := [⟨7, 0, 1⟩] }).vc.frees = [] ++ ⟨7, 0, 1⟩ :: []) := by
  refine ⟨⟨⟨by decide +kernel, notHalted _ (by decide +kernel), focus_demo _ (by decide +kernel), by decide +kernel, by decide +kernel⟩, by decide, by decide +kernel, ?_⟩, by decide,
    ⟨⟨⟨_, rfl, by decide +kernel, by decide +kernel⟩, rfl⟩, by decide, by decide +kernel⟩, by decide +kernel, by decide +kernel⟩
  exact ⟨_, payload { multi with serving := 0 } (inCopy multi) (by decide +kernel), by decide +kernel⟩

/-! The steps of a copy: of two integers from 0x2000 to 0x2100 in near memory, of 32 FP32 elements into one MX block, of a block into another. -/
def nearCopy : CopyJob := { job with src := tensorOf copying.thr nearBytes, dst := tensorOf copying.thr (tensorBytes 0x2100 4 2 4) }
def toBlock : CopyJob :=
  { job with src := tensorOf copying.thr (tensorBytes 0x2000 8 32 4), dst := tensorOf copying.thr (tensorBytes 0x2200 16 32 32), box := boxOf (boxBytes 32) }
def blockCopy : CopyJob := { toBlock with src := tensorOf copying.thr (tensorBytes 0x2400 16 32 32) }
def along (n d : Nat) : Nat := if d = 0 then n else 0

theorem permutes_of {b : Box} (e : b.perm = [0, 1, 2, 3, 4]) : Permutes b := by
  have p : ∀ d < 5, b.permOf d = d := by unfold Box.permOf; rw [e]; decide
  exact ⟨fun d h => by rw [p d h]; exact h, fun c d hc hd h => by rwa [p c hc, p d hd] at h⟩

theorem witness_copy_order :
    (nearCopy.box.ext.length = 5 ∧ nearCopy.dst.ext.length = 5 ∧ Permutes nearCopy.box ∧ ∀ d, d < 5 → nearCopy.dst.dim d ≠ 0) ∧
    (∃ d, d < 5 ∧ { nearCopy with dst := tensorOf copying.thr (tensorBytes 0x2100 4 0 4) }.dst.dim d = 0) ∧
    (∃ s1, (inCopy nearCopy).copyStep nearCopy 0 = .ok s1) ∧ (∃ e, (inCopy lostCopy).copyStep lostCopy 0 = .error (.trap e)) ∧
    1 < nearCopy.box.dim 0 * nearCopy.box.dim 1 * nearCopy.box.dim 2 * nearCopy.box.dim 3 * nearCopy.box.dim 4 :=
  ⟨⟨by decide +kernel, by decide +kernel, permutes_of (by decide +kernel), by decide +kernel⟩, ⟨0, by decide +kernel⟩, ok_of (by decide +kernel), trap_of (by decide +kernel),
    by decide +kernel⟩

theorem witness_copy_tensors :
    (nearCopy.src.ext.length = 5 ∧ Within nearCopy.src (along 1) ∧ ¬Within nearCopy.src (along 2) ∧ ∀ d, d < 5 → 0 < nearCopy.src.dim d) ∧
    (blockCopy.src.mx = true ∧ blockCopy.src.dim 0 % 32 = 0 ∧ Within blockCopy.src (along 31)) := by
  refine ⟨⟨by decide +kernel, ?_, ?_, by decide +kernel⟩, by decide +kernel, by decide +kernel, ?_⟩
  · unfold Within; decide +kernel
  · unfold Within; decide +kernel
  · unfold Within; decide +kernel

/-- The last step of each; what it reads, and its targets. -/
theorem witness_copy_steps :
    StepOf nearCopy 1 (along 1) (along 1) ∧ StepOf toBlock 31 (along 31) (along 31) ∧ StepOf blockCopy 31 (along 31) (along 31) := by
  refine ⟨⟨along 1, ?_⟩, ⟨along 31, ?_⟩, ⟨along 31, ?_⟩⟩ <;> decide +kernel
theorem witness_copy_reads :
    ReadsElem (inCopy nearCopy) nearCopy (along 1) (.bits 0) ∧ ReadsElem (inCopy nearCopy) nearCopy (along 2) .fill ∧
    (∃ x, ReadsElem (inCopy blockCopy) blockCopy (along 31) x) ∧ (∃ t, (inCopy nearCopy).engineTarget nearCopy 4 (nearCopy.dst.addr (along 1)) 4 = .ok t) := by
  refine ⟨.inr (.inl ⟨?_, by decide +kernel, [0, 0, 0, 0], by decide +kernel, by decide +kernel⟩), .inl ⟨?_, rfl⟩,
    ⟨_, .inr (.inr ⟨?_, by decide +kernel, List.replicate 32 0, [0], by decide +kernel, by decide +kernel, rfl⟩)⟩, ok_of (by decide +kernel)⟩
  · unfold Within; decide +kernel
  · unfold Within; decide +kernel
  · unfold Within; decide +kernel
theorem witness_copy_blocks :
    (along 31) 0 % 32 = 31 ∧ (∃ t, (inCopy toBlock).engineTarget toBlock 1 (toBlock.dst.addr (along 31)) toBlock.dst.unit = .ok t) ∧
    (∃ t, (inCopy toBlock).engineTarget toBlock 1 (toBlock.dst.scaleAddr (along 31)) 1 = .ok t) ∧
    (SameFormat blockCopy ∧ blockCopy.box.permOf 0 = 0 ∧ ¬SameFormat toBlock) ∧
    (∀ n, n < 32 → StepOf toBlock (31 - 31 + n) (along n) (along n)) := by
  refine ⟨by decide, ok_of (by decide +kernel), ok_of (by decide +kernel), ⟨?_, by decide +kernel, ?_⟩, fun n h => ⟨along n, ?_⟩⟩
  · unfold SameFormat; decide +kernel
  · unfold SameFormat; decide +kernel
  · revert n; decide +kernel
theorem witness_copy_bytes :
    (∃ ps, (inCopy nearCopy).engineSource nearCopy nearCopy.src.unit (nearCopy.src.addr (along 1)) nearCopy.src.unit = .ok ps ∧
      ∀ p ∈ ps, ∃ pa, p.2 = .mem pa ∧ (inCopy nearCopy).accessFails pa p.1.size = none) ∧
    nearCopy.src.addr (along 1) + nearCopy.src.unit ≤ 0x400000 ∧ nearCopy.dst.addr (along 1) + nearCopy.dst.unit ≤ 0x400000 ∧
    (inCopy nearCopy).physOf nearCopy.ident.vcore * 0x400000 + 0x400000 ≤ 0x80000000000 ∧ nearCopy.members = none ∧
    ∃ t, (inCopy nearCopy).engineTarget nearCopy 4 0x2100 4 = .ok t ∧ ∃ s1, (inCopy nearCopy).engineWrite 1 t (leBytes 4 7) = .ok s1 := by
  refine ⟨⟨[({ readAcc 0x2004 4 with align := 4 }, .mem 0x2004)], by decide +kernel, fun p h => ?_⟩, by decide +kernel, by decide +kernel, by decide +kernel, by decide +kernel,
    [(writeAcc 0x2100 4, 0x2100)], by decide +kernel, ok_of (by decide +kernel)⟩
  obtain rfl := List.mem_singleton.1 h
  exact ⟨0x2004, rfl, by decide +kernel⟩

/-- A completion word in a page that no leaf maps; a task for a core that is not there. -/
theorem witness_copy_stops :
    (∃ e, (inCopy job).engineTarget job 8 0x20000020000 8 = .error (.trap e)) ∧ (inCopy job).fits 7 1 = false ∧
    (∃ s1, PayloadDone { job with spawn := some task } (inCopy job) s1) ∧ (demo.thr.firing = job.firing ∧ demo.thr.firing ≠ { job with firing := 9 }.firing) ∧
    (∀ p ∈ demo.thr.replay, p.failed ≠ none) ∧ (∃ p ∈ fullQueue.thr.replay, p.failed = none) := by
  exact ⟨trap_of (by decide +kernel), by decide +kernel, ⟨_, payload { job with spawn := some task } (inCopy job) (by decide +kernel)⟩, by decide +kernel,
    by decide +kernel, by decide +kernel⟩

/-! ### Numbers -/

theorem isFin_of {x : FVal} {neg : Bool} {n : Nat} {e : Int} {a : ℝ} (h : x = .fin neg n e) (v : (n : ℝ) * 2 ^ e = a) : IsFin x neg a := ⟨n, e, h, v⟩

/-- An infinity, a quiet and a signalling NaN, 1, −0 and −1 in FP32; the NaN of E4M3; the rows of the formats. -/
theorem witness_floats :
    (fp32, 0x7F7FFFFF, ((2 : ℚ) ^ 24 - 1) * 2 ^ 104, 0x7F800000, 0x7FC00000) ∈ floatRows ∧ isElemFmt fp32 ∧ 0x7F800001 < 2 ^ fp32.width ∧
    fp32.decode 0x7F800000 = .inf false ∧ fp32.decode 0x7FC00000 = .nan false ∧ fp32.decode 0x7F800001 = .nan true ∧
    IsFin (fp32.decode 0x3F800000) false 1 ∧ IsFin (fp32.decode 0x80000000) true 0 ∧ IsFin (fp32.decode 0xBF800000) true 1 ∧
    e4m3.decode 0x7F = .nan false := by
  refine ⟨List.mem_cons_self, .inl rfl, by decide, by decide, by decide, by decide, isFin_of (n := 0x800000) (e := -23) (by decide) (by norm_num),
    isFin_of (n := 0) (e := -149) (by decide) (by norm_num), isFin_of (n := 0x800000) (e := -23) (by decide) (by norm_num), by decide⟩

/-- Sums that are and are not 0, products, orders and powers of two of these. -/
theorem witness_float_values :
    HasValue (.fin false 2 0) 2 ∧ HasValue (.fin true 3 0) (-3) ∧ Less (.fin true 1 0) (.fin false 1 0) ∧ Less (.inf true) (.fin false 1 0) ∧
    Below (.fin true 0 0) (.fin false 0 0) ∧ IsFin (.fin false 6 0) (true != true) (2 * 3) ∧ (1 : ℝ) = 2 ^ (0 : Int) ∧
    IsFin (.fin false 0 0) (decide ((0 : Int) < 0)) (0 : Int).natAbs := by
  have one : HasValue (.fin false 1 0) 1 := ⟨false, 1, isFin_of rfl (by norm_num), rfl⟩
  have minus : HasValue (.fin true 1 0) (-1) := ⟨true, 1, isFin_of rfl (by norm_num), rfl⟩
  refine ⟨⟨false, 2, isFin_of rfl (by norm_num), rfl⟩, ⟨true, 3, isFin_of rfl (by norm_num), rfl⟩, .inr (.inr ⟨-1, 1, minus, one, by norm_num⟩), .inl ⟨rfl, by decide⟩,
    .inr ⟨isFin_of rfl (by norm_num), isFin_of rfl (by norm_num)⟩, isFin_of rfl (by norm_num), by norm_num, isFin_of rfl (by norm_num)⟩

/-- Whole numbers of units round to themselves. -/
theorem roundsTo_nat (neg : Bool) (n : Nat) : RoundsTo .rne neg 0 (n : ℝ) n := by
  refine .inr ⟨?_, (Nat.floor_natCast n).symm⟩
  simp only [Nat.floor_natCast, sub_self]
  norm_num
theorem witness_conversions :
    ((8, true) ∈ [(32, true), (32, false), (16, true), (8, true)] ∧ RoundsTo .rne true 0 128 128 ∧ RoundsTo .rne false 0 128 128 ∧
      intLo 8 true ≤ -128 ∧ intHi 8 true < 128) ∧
    IsFin (.fin true 5 0) (decide (bitsInt 8 true 0xFB < 0)) (bitsInt 8 true 0xFB).natAbs := by
  refine ⟨⟨by decide, by exact_mod_cast roundsTo_nat true 128, by exact_mod_cast roundsTo_nat false 128, by decide, by decide⟩, ?_⟩
  have e : bitsInt 8 true 0xFB = -5 := by decide
  rw [e]
  exact isFin_of rfl (by norm_num)

/-- Blocks of 32 values: ones, zeros, one with an infinity; the kinds of elements; 1 as an element of E4M3 under the scale 1. -/
theorem witness_blocks :
    (IsElemKind (.float e4m3) (fun _ => ((448 : ℚ) : ℝ)) 8 ∧ IsElemKind (.int 2) (fun neg => if neg then 2 else 2 - (2 : ℝ) ^ (2 - ((2 : Nat) : Int))) 0) ∧
    ((List.replicate 32 (FVal.fin false 1 0)).length = 32 ∧ (∀ x ∈ List.replicate 32 (FVal.fin false 1 0), ∃ neg a, IsFin x neg a ∧ a < (2 : ℝ) ^ ((0 : Int) + 1)) ∧
      ∃ x ∈ List.replicate 32 (FVal.fin false 1 0), ∃ neg a, IsFin x neg a ∧ (2 : ℝ) ^ (0 : Int) ≤ a) ∧
    ElemRounds (.float e4m3) .rne 0 0 (.fin false 1 0) false 1 1 ∧ (0, MxElem.float e4m3, 8, 32, 64) ∈ viewKinds ∧ view.par 2 = 0 ∧ view.fmt = 8 := by
  have one : IsFin (.fin false 1 0) false 1 := isFin_of rfl (by norm_num)
  refine ⟨⟨.inl ⟨e4m3, 448, rfl, List.mem_cons_self, fun _ => rfl⟩, .inr ⟨2, rfl, by decide, by decide, rfl, fun neg => rfl⟩⟩,
    ⟨rfl, fun x h => ⟨false, 1, ?_, by norm_num⟩, .fin false 1 0, by decide, false, 1, one, by norm_num⟩, ⟨one, -3, 8, .inr ⟨0, ?_⟩, ?_, by norm_num⟩, List.mem_cons_self,
    by decide, by decide⟩
  · rw [List.eq_of_mem_replicate h]; exact one
  · exact ⟨by norm_num, by norm_num, by decide⟩
  · have e : (1 : ℝ) / 2 ^ (0 : Int) / 2 ^ (-3 : Int) = ((8 : Nat) : ℝ) := by norm_num
    rw [e]; exact roundsTo_nat false 8

/-! ### The matrix array -/

/-- Array commands of the thread in focus on rows 10 to 19, a deferred error, a pending remote command. -/
def arrayAt (cs : List ArrayCmd) : State := demoV fun v => { v with outstanding := cs }
def tenRows : ArrayCmd := ⟨0, 0, 10, 10, none⟩
def failed : LateErr := ⟨.pageFaultRead, 0x20000020000, 5⟩
def withDeferred : State := demoT fun t => { t with deferred := [failed] }

/-- The value FP32 1.5 × 2^-100 on a grid with anchor 0 is rounded; 2^40 at anchor -512 is clipped; a PAIR row with a value, and rows with a
NaN, an infinity, both. -/
def rowE (e : BitVec 10) (pair : Bool) : AccRow := AccRow.fresh e pair
def mixed : AccRow := contributions (rowE 0 true) [(0, .fin false 1 0), (1, .fin true 1 0), (2, .fin false 1 0), (4, .nan false), (6, .inf false),
  (7, .inf true), (8, .inf false), (11, .inf true)]
theorem witness_accumulator :
    (onGrid (rowE 0 false) 3 (-101) = 402653184 ∧ onGrid (rowE 0 false) 3 (-130) = 1 ∧ onGrid (rowE 0 false) 2 (-130) = 0 ∧
      onGrid (rowE 0 false) 1 31 = 2 ^ 159 ∧ 2 ^ 160 ≤ onGrid (rowE 0 false) 1 32) ∧
    SMap.wf 0 (rowE 0 false).x ∧
    (mixed.value 0 = .fin false 0 0 ∧ mixed.value 1 = .fin false (2 ^ 128) (-128) ∧ mixed.value 2 = .nan false ∧ mixed.value 3 = .nan false ∧
      mixed.value 4 = .inf false ∧ mixed.value 5 = .inf true) := by decide +kernel

theorem test_contributions :
    [(0, FVal.fin false 1 0), (1, .nan false)].Perm [(1, .nan false), (0, .fin false 1 0)] ∧
    contributions (rowE 0 false) [(0, .fin false 1 0), (1, .nan false)] = contributions (rowE 0 false) [(1, .nan false), (0, .fin false 1 0)] := by
  exact ⟨List.Perm.swap _ _ _, by decide +kernel⟩

/-- An XACC instruction stands in the E-stream's path, before the instruction at the A position. -/
def xaccAhead : State :=
  { (poke demo 0x300000 (leBytes 4 (16 * 8 + 4) ++ leBytes 4 0)) with thr := { thr with apc := 0x20000000008, ePath := [0x20000000000] } }

theorem witness_array_control :
    (ArrayForm .mxMbegin ∧ XaccOlder xaccAhead ∧ Fresh xaccAhead) ∧ demo.thr.ePath = [] ∧
    (ArrayWork (arrayAt [tenRows]) ∧ Fresh (arrayAt [tenRows])) ∧ (¬ArrayWork demo ∧ demo.thr.deferred = []) ∧
    (¬ArrayWork withDeferred ∧ Fresh withDeferred ∧ withDeferred.thr.deferred = [failed]) ∧
    (BadRows 256 1 ∧ BadRows 0 0 ∧ BadRows 0 257 ∧ BadRows 255 2 ∧ ¬BadRows 255 1 ∧ ¬BadRows 0 256) ∧
    (RowsBusy (arrayAt [tenRows]) 19 1 ∧ RowsBusy (arrayAt [tenRows]) 0 11 ∧ ¬RowsBusy (arrayAt [tenRows]) 20 1 ∧ ¬RowsBusy (arrayAt [tenRows]) 0 10) ∧
    (5 ≠ 0 ∧ linked.thr.levelDest false 5 = some 3) ∧ demo.thr.checkDest 5 = .ok () ∧
    ∃ t, demo.thr.writeS 5 0x18000 = .ok t := by
  have idle : ∀ s : State, s.vc.outstanding = [] → s.ctx.vcores = [(0, core)] → s.vc.id = 0 → s.ctx.mcmds = [] → ¬ArrayWork s := by
    rintro s h1 h2 h3 h4 (⟨c, h, -⟩ | ⟨v, c, hv, hn, -⟩ | ⟨m, h, -⟩)
    · rw [h1] at h; cases h
    · rw [h2] at hv; obtain rfl := List.mem_singleton.mp hv; exact hn h3.symm
    · rw [h4] at h; cases h
  refine ⟨⟨.inl rfl, ⟨0x20000000000, List.mem_singleton.mpr rfl, by unfold IsMajorE; decide +kernel⟩, by unfold Fresh; decide +kernel⟩, by decide +kernel,
    ⟨.inl ⟨tenRows, by decide +kernel⟩, by unfold Fresh; decide +kernel⟩,
    ⟨idle _ (by decide +kernel) (by decide +kernel) (by decide +kernel) (by decide +kernel), by decide +kernel⟩,
    ⟨idle _ (by decide +kernel) (by decide +kernel) (by decide +kernel) (by decide +kernel), by unfold Fresh; decide +kernel, by decide +kernel⟩, ?_, ?_, by decide +kernel,
    by decide +kernel, ok_of (by decide +kernel)⟩
  · unfold BadRows; decide
  · unfold RowsBusy; decide +kernel

/-- Planes at s1, scales at s2, in the last quarter of the data page; rows s3 to s3 + s4 - 1. -/
def tileSrc (planes : List Byte) : State := poke (demoS [(1, 0x20000018000), (2, 0x20000018040), (4, 2)]) 0x318000 (planes ++ List.replicate (0x40 - planes.length) 0 ++ [127, 127])
def arrArgs (cmd : Nat) : CArgs := ⟨⟨4, 1, 2, 3, 0, 0, 0, 0⟩, cmd⟩
/-- One column of one block of 2-bit weights, dense; the same sparse. -/
def dense : CArgs := arrArgs (1 + 2 ^ 8 + 2 * 2 ^ 11)
def sparse : CArgs := arrArgs (1 + 2 ^ 8 + 2 * 2 ^ 11 + 2 ^ 16)
/-- Sparse planes whose pairs of indices are 0 and 1. -/
def pairPlanes : List Byte := List.replicate 8 0 ++ List.replicate 8 0x44
/-- A state whose read of the planes fails at its check, and one whose read meets an uncorrectable word. -/
def noPlanes : State := demoS [(1, 0x20000018001), (2, 0x20000018040)]
def badPlanes : State := { tileSrc [] with badWords := [0x318000] }
def locked : State := demoV fun v => { v with groupLock := some 3 }

theorem test_mloadw_mstream :
    let s := nextOf (exec (.mloadw 0 dense) (tileSrc [0xFF, 0xFF, 0xFF, 0xFF]))
    let t := nextOf (exec (.mstream 0 (arrArgs (2 + 2 ^ 8))) { s with thr := (s.thr.setS 4 1).setS 1 0x20000018000 })
    (s.vc.bank0.map fun k => k.cols) = some [[⟨List.replicate 32 1, List.range 32, 127⟩]] ∧
    (t.vc.row 0).value 0 = .fin false (32 * 2 ^ 128) (-128) := by decide +kernel

theorem witness_weights :
    (LoadBad 0 1 2 false false ∧ LoadBad 129 1 2 false false ∧ LoadBad 1 0 2 false false ∧ LoadBad 1 5 2 false false ∧ LoadBad 1 1 1 false false ∧
      LoadBad 1 1 9 false false ∧ LoadBad 2 1 8 true true ∧ LoadBad 2 1 7 false true ∧ LoadBad 1 1 8 false true ∧
      ¬LoadBad 128 4 8 false true ∧ ¬LoadBad 1 1 2 true false) ∧
    (demo.thr.ePath = [] ∧ locked.vc.groupLock ≠ none ∧ locked.thr.ePath = [] ∧ demo.vc.groupLock = none) ∧
    (∃ e, noPlanes.fetchPair noPlanes.agent (noPlanes.thr.getS 1).toNat 8 (noPlanes.thr.getS 2).toNat 1 = .error (.trap e)) ∧
    (∃ e, badPlanes.fetchPair badPlanes.agent (badPlanes.thr.getS 1).toNat 8 (badPlanes.thr.getS 2).toNat 1 = .ok (.error e)) ∧
    ((tileSrc []).fetchPair (tileSrc []).agent ((tileSrc []).thr.getS 1).toNat 16 ((tileSrc []).thr.getS 2).toNat 1 = .ok (.ok (List.replicate 16 0, [127])) ∧
      ∃ c b j, c < 1 ∧ b < 1 ∧ j < 16 ∧ idx24 (planesAt (List.replicate 16 0) ((c * 1 + b) * 4 * 4) 4) 2 (2 * j) =
        idx24 (planesAt (List.replicate 16 0) ((c * 1 + b) * 4 * 4) 4) 2 (2 * j + 1)) ∧
    ((tileSrc pairPlanes).fetchPair (tileSrc pairPlanes).agent ((tileSrc pairPlanes).thr.getS 1).toNat 16 ((tileSrc pairPlanes).thr.getS 2).toNat 1 =
        .ok (.ok (pairPlanes, [127])) ∧
      ¬∃ c b j, c < 1 ∧ b < 1 ∧ j < 16 ∧ idx24 (planesAt pairPlanes ((c * 1 + b) * 4 * 4) 4) 2 (2 * j) =
        idx24 (planesAt pairPlanes ((c * 1 + b) * 4 * 4) 4) 2 (2 * j + 1)) := by
  refine ⟨by simp [LoadBad], by decide +kernel, trap_of (by decide +kernel), ⟨⟨_, .sramUncorrectable, _, _⟩, rfl⟩, ⟨by decide +kernel, 0, 0, 0, by decide⟩, by decide +kernel, ?_⟩
  rintro ⟨c, b, j, hc, hb, hj, h⟩
  obtain ⟨rfl, rfl⟩ : c = 0 ∧ b = 0 := by omega
  exact (by decide : ∀ j < 16, ¬(idx24 (planesAt pairPlanes ((0 * 1 + 0) * 4 * 4) 4) 2 (2 * j) = idx24 (planesAt pairPlanes ((0 * 1 + 0) * 4 * 4) 4) 2 (2 * j + 1))) j hj h

/-- A loaded bank of one column and one block, not for PAIR rows. -/
def smallBank : Bank := ⟨1, 1, 2, false, false, [[⟨List.replicate 32 1, List.range 32, 127⟩]]⟩
def loaded (s : State) : State := { s with vc := { s.vc with bank0 := some smallBank } }
theorem witness_streams :
    ((loaded demo).vc.groupLock = none ∧ demo.vc.bank0 = none ∧ (loaded demo).vc.bank0 = some smallBank ∧ (loaded demo).thr.ePath = []) ∧
    (2 ≠ smallBank.kb ∧ 1 = smallBank.kb ∧ BadRows 0 0 ∧ BadRows 254 3 ∧ ¬BadRows 254 2 ∧ ¬BadRows 0 2) ∧
    ((∃ j, j < 2 ∧ ((demoV fun v => v.setRow 1 (rowE 0 true)).vc.row (0 + j)).pair ≠ smallBank.wsplit) ∧
      ¬∃ j, j < 2 ∧ ((loaded (tileSrc [])).vc.row (0 + j)).pair ≠ smallBank.wsplit) ∧
    (∃ e, (loaded noPlanes).fetchPair (loaded noPlanes).agent ((loaded noPlanes).thr.getS 1).toNat (2 * 1 * 4 * 2) ((loaded noPlanes).thr.getS 2).toNat 2 =
      .error (.trap e)) ∧
    (∃ e, (loaded badPlanes).fetchPair (loaded badPlanes).agent ((loaded badPlanes).thr.getS 1).toNat (2 * 1 * 4 * 2) ((loaded badPlanes).thr.getS 2).toNat 2 =
      .ok (.error e)) ∧
    (loaded (tileSrc [])).fetchPair (loaded (tileSrc [])).agent ((loaded (tileSrc [])).thr.getS 1).toNat (2 * 1 * 4 * 2)
      ((loaded (tileSrc [])).thr.getS 2).toNat 2 = .ok (.ok (List.replicate 16 0, [127, 127])) := by
  refine ⟨by decide +kernel, by unfold BadRows; decide, ⟨⟨1, by decide +kernel⟩, ?_⟩, trap_of (by decide +kernel), ⟨⟨_, .sramUncorrectable, _, _⟩, rfl⟩, by decide +kernel⟩
  rintro ⟨j, hj, h⟩
  exact (by decide +kernel : ∀ j < 2, ¬((loaded (tileSrc [])).vc.row (0 + j)).pair ≠ smallBank.wsplit) j hj h

/-- MREAD into s2 of rows s1 to s1 + s4 - 1. -/
def readSt (first rows : Nat) (dst : Nat) : State := demoS [(1, BitVec.ofNat 64 first), (2, BitVec.ofNat 64 dst), (4, BitVec.ofNat 64 rows)]
def anchored : State := { readSt 0 2 0x20000018000 with vc := (readSt 0 2 0x20000018000).vc.setRow 1 { rowE 0 false with anchor := true } }
def pairRow1 : State := { readSt 0 2 0x20000018000 with vc := (readSt 0 2 0x20000018000).vc.setRow 1 (rowE 0 true) }
def f32x4 : ReadArgs := readArgs 0 0 4
def rawBytes (e : Nat) : List Byte := leBytes 2 e ++ leBytes 62 0 ++ leBytes 24 5
def rawSt (bs : List Byte) : State := poke (demoS [(1, 0x20000018000), (4, 1)]) 0x318000 bs

theorem witness_reads :
    (ReadRowsBad 0 4 256 1 demo.vc = some .accRange ∧ ReadRowsBad 0 4 0 0 demo.vc = some .accRange ∧ ReadRowsBad 0 4 255 2 demo.vc = some .accRange ∧
      ReadRowsBad 0 4 255 1 demo.vc = none ∧ ReadRowsBad 0 65 1 1 pairRow1.vc = some .accRange ∧ ReadRowsBad 0 64 1 1 pairRow1.vc = none ∧
      ReadRowsBad 4 31 0 1 demo.vc = some .formatMismatch ∧ ReadRowsBad 0 4 0 2 pairRow1.vc = some .formatMismatch ∧
      ReadRowsBad 5 3 1 1 pairRow1.vc = some .formatMismatch ∧ ReadRowsBad 5 4 1 1 pairRow1.vc = none) ∧
    (demo.thr.ePath = [] ∧ RowsBusy (arrayAt [tenRows]) 10 1 ∧ ¬RowsBusy (readSt 0 2 0x20000018000) 0 2) ∧
    (∃ e, (readSt 0 2 0x20000018002).checkRange (readSt 0 2 0x20000018002).agent 4 ((readSt 0 2 0x20000018002).thr.getS 2).toNat 32 = .error (.trap e)) ∧
    (∃ ps, anchored.checkRange anchored.agent 4 (anchored.thr.getS 2).toNat 32 = .ok ps) ∧
    ((anchored.vc.row (0 + 1)).anchor = true ∧ ∀ j, j < 1 → (anchored.vc.row (0 + j)).anchor = false) ∧
    (∀ k, k < 2 → ((readSt 0 2 0x20000018000).vc.row (0 + k)).anchor = false) ∧
    (∃ e, ((demoT fun t => { t with fpen := 31 }).thr.raiseFlags [16]) = .error (.trap e)) ∧
    (∃ t, (readSt 0 2 0x20000018000).thr.raiseFlags [(readOut (readArgs 0 0 4) .rne [(readSt 0 2 0).vc.row 0, (readSt 0 2 0).vc.row 1]).2] = .ok t ∧
      ∃ ps, (readSt 0 2 0x20000018000).checkRange (readSt 0 2 0x20000018000).agent 4 0x20000018000 32 = .ok ps ∧
      ∃ s1, ((readSt 0 2 0x20000018000).setThr t).storeRange ps.1 ps.2
        (readOut (readArgs 0 0 4) .rne [(readSt 0 2 0).vc.row 0, (readSt 0 2 0).vc.row 1]).1 = .ok s1) := by
  refine ⟨by decide +kernel, ⟨by decide +kernel, ?_, ?_⟩, trap_of (by decide +kernel), ok_of (by decide +kernel), by decide +kernel, by decide +kernel,
    trap_of (by decide +kernel), ⟨_, rfl, _, rfl, _, rfl⟩⟩
  · unfold RowsBusy; decide +kernel
  · unfold RowsBusy; decide +kernel

theorem witness_raw :
    (¬BadRows 0 1 ∧ BadRows 256 1) ∧
    (∃ e, (demoS [(1, 0x20000030000), (4, 1)]).fetchRange (demoS []).agent 1 0x20000030000 88 = .error (.trap e)) ∧
    (∃ e, badPlanes.fetchRange badPlanes.agent 1 0x20000018000 88 = .ok (.error e)) ∧
    ((rawSt (rawBytes 0)).fetchRange (rawSt (rawBytes 0)).agent 1 0x20000018000 88 = .ok (.ok (rawBytes 0)) ∧
      (∀ k, k < 1 → FitsRaw ((rawSt (rawBytes 0)).vc.row (0 + k)) (rawAt 1 k (rawBytes 0)))) ∧
    ((rawSt (rawBytes 1)).fetchRange (rawSt (rawBytes 1)).agent 1 0x20000018000 88 = .ok (.ok (rawBytes 1)) ∧
      ∃ k, k < 1 ∧ ¬FitsRaw ((rawSt (rawBytes 1)).vc.row (0 + k)) (rawAt 1 k (rawBytes 1))) := by
  refine ⟨by unfold BadRows; decide, trap_of (by decide +kernel), ⟨⟨_, .sramUncorrectable, _, _⟩, rfl⟩, ⟨by decide +kernel, ?_⟩, by decide +kernel, 0, ?_⟩
  · unfold FitsRaw; decide +kernel
  · unfold FitsRaw; decide +kernel

/-- XACC from v1 of lanes m0: column 120 and on; lane 7 is column 127, lane 8 lies past it; a PAIR row reads 64 columns. -/
def xaccArgs (c0 : Nat) : RArgs := ⟨2, 1, 0, 0, 0, 0, 0, 3 + 256 * c0⟩
def eightLanes (n : Nat) : State := demoT fun t => t.setM 0 (BitVec.ofNat 32 (2 ^ n - 1))
theorem witness_xacc :
    ((∃ k ∈ lanesOf ((eightLanes 9).thr.getM 0), 127 < 120 + k) ∧ ∀ k ∈ lanesOf ((eightLanes 8).thr.getM 0), 120 + k ≤ 127) ∧
    ((∃ k ∈ lanesOf ((eightLanes 9).thr.getM 0), 63 < 56 + k) ∧ ∀ k ∈ lanesOf ((eightLanes 8).thr.getM 0), 56 + k ≤ 63) ∧
    ((demoV fun v => v.setRow 3 (rowE 0 true)).vc.row 3).pair = true ∧
    (linkedV.thr.levelDest true 5 ≠ none ∧ demo.thr.levelDest true 2 = none) ∧
    (RowsBusy (arrayAt [tenRows]) 12 1 ∧ ¬RowsBusy (eightLanes 8) 3 1) ∧
    (∃ e, (demoT fun t => { t with fpen := 31 }).thr.raiseFlags [0, 16] = .error (.trap e)) ∧
    (∃ t, (eightLanes 8).thr.raiseFlags ((List.range 32).map fun _ => 0) = .ok t ∧ ∃ t2, t.writeV 2 ((eightLanes 8).thr.getM 0) (Lanes.make fun _ => 0) = .ok t2) := by
  refine ⟨by decide +kernel, by decide +kernel, by decide +kernel, by decide +kernel, ⟨?_, ?_⟩, trap_of (by decide +kernel), ⟨_, rfl, ok_of (by decide +kernel)⟩⟩
  · unfold RowsBusy; decide +kernel
  · unfold RowsBusy; decide +kernel

/-- A row and the forms of MREAD for which `ReadLayout` says its bytes. -/
theorem witness_read_layout :
    [rowE 0 false][0]? = some (rowE 0 false) ∧ ((readArgs 0 0 4).fn = 0 ∧ 3 < (readArgs 0 0 4).c) ∧ ((readArgs 4 0 32).fn = 4 ∧ 0 < (readArgs 4 0 32).c / 32) ∧
    (readArgs 5 0 4).fn = 5 ∧ (readArgs 5 0 4).c ≤ 128 := by decide

/-! ### Tiles, remote commands, rule mode -/

/-- A sequencer record at 0x20000018000: tensors of 2-bit blocks right after it. -/
def seqRec (m n kb ap wp first flags m1 m2 done st : Nat) : List Byte :=
  leBytes 8 0x20000018100 ++ leBytes 8 0x20000018180 ++ leBytes 8 0x20000018200 ++ leBytes 8 0x20000018280 ++ leBytes 8 77 ++ leBytes 2 m ++ leBytes 2 n ++
    leBytes 2 kb ++ leBytes 1 ap ++ leBytes 1 wp ++ leBytes 1 first ++ leBytes 1 flags ++ leBytes 2 m1 ++ leBytes 2 m2 ++ leBytes 2 0 ++ leBytes 4 done ++
    leBytes 1 st ++ leBytes 3 0
def seqSt (bs : List Byte) : State := poke (demoS [(1, 0x20000018000)]) 0x318000 bs
/-- Two virtual cores; the second has 77 among its keys. -/
def other : VCore := { VCore.fresh 1 1 with mkeys := (Vector.replicate 4 0).setIfInBounds 2 77 }
def duoCtx : Ctx := { context with nmax := 2, launches := [(1, { launch with nv := 2 })], vcores := [(0, core), (1, other)] }
def duo : State := { demo with ctx := duoCtx, ctxs := [(1, duoCtx)] }
def lockedBy (o : Nat) : State := { demo with vc := { core with groupLock := some o } }

theorem witness_tile_issue :
    (HasRestartable restartThr ∧ ¬HasRestartable demo.thr) ∧
    (∃ e, (demoS [(1, 0x20000018020)]).readRange demo.agent 64 0x20000018020 64 = .error (.trap e)) ∧
    (∀ st ∈ [0, 1, 3], (seqSt (seqRec 1 1 1 2 2 0 0 0 0 0 st)).readRange demo.agent 64 0x20000018000 64 = .ok (seqRec 1 1 1 2 2 0 0 0 0 0 st)) ∧
    (∃ ok, (seqSt (seqRec 1 1 1 2 2 0 0 0 0 0 0)).checkRange demo.agent 64 0x20000018000 64 = .ok ok) ∧
    (SeqBad (seqRec 0 1 1 2 2 0 0 0 0 0 0) ∧ SeqBad (seqRec 257 1 1 2 2 0 0 0 0 0 0) ∧ SeqBad (seqRec 1 385 1 2 2 0 0 0 0 0 0)) ∧
    (SeqBad (seqRec 1 1 4097 2 2 0 0 0 0 0 0) ∧ SeqBad (seqRec 1 1 1 17 2 0 0 0 0 0 0) ∧ SeqBad (seqRec 1 1 1 2 9 0 0 0 0 0 0)) ∧
    (SeqBad (seqRec 2 1 1 2 2 255 0 0 0 0 0) ∧ SeqBad (seqRec 1 1 1 2 2 0 2 0 0 0 0) ∧ SeqBad (seqRec 1 1 1 2 2 0 0 0 0 0 2)) ∧
    (¬SeqBad (seqRec 1 1 1 2 2 255 0 0 0 0 0) ∧ ¬SeqBad (seqRec 256 384 4096 16 8 0 1 0 0 0 3)) ∧
    (GroupWrong demo (seqRec 1 129 1 2 2 0 0 0 0 0 0) 1 ∧ ¬GroupWrong demo (seqRec 1 128 1 2 2 0 0 0 0 0 0) 1 ∧
      ¬GroupWrong duo (seqRec 1 129 1 2 2 0 0 1 0 0 0) 2) ∧
    (GroupWrong duo (seqRec 1 129 1 2 2 0 0 2 0 0 0) 2 ∧ GroupWrong duo (seqRec 1 129 1 2 2 0 0 0 0 0 0) 2 ∧
      GroupWrong duo (seqRec 1 257 1 2 2 0 0 1 1 0 0) 3) := by
  refine ⟨by unfold HasRestartable; decide +kernel, trap_of (by decide +kernel), by decide +kernel, ok_of (by decide +kernel), ?_, ?_, ?_, ?_, ?_, ?_⟩
  · refine ⟨?_, ?_, ?_⟩ <;> (unfold SeqBad; decide +kernel)
  · refine ⟨?_, ?_, ?_⟩ <;> (unfold SeqBad; decide +kernel)
  · refine ⟨?_, ?_, ?_⟩ <;> (unfold SeqBad; decide +kernel)
  · refine ⟨?_, ?_⟩ <;> (unfold SeqBad; decide +kernel)
  · refine ⟨?_, ?_, ?_⟩ <;> (unfold GroupWrong; decide +kernel)
  · refine ⟨?_, ?_, ?_⟩ <;> (unfold GroupWrong; decide +kernel)

theorem ok2_of {α β : Type} {r : Res α} {f : α → Res β}
    (h : (match r with | .ok a => (match f a with | .ok _ => true | .error _ => false) | .error _ => false) = true) :
    ∃ a, r = .ok a ∧ ∃ b, f a = .ok b := by
  cases r with
  | ok a =>
    cases hf : f a with
    | ok b => exact ⟨a, rfl, b, hf⟩
    | error e => simp [hf] at h
  | error e => simp at h
theorem witness_tile_start :
    (GroupBusy (lockedBy 3) [0] ∧ ¬GroupBusy (seqSt (seqRec 1 1 1 2 2 0 0 0 0 0 1)) [0]) ∧
    ((demoC fun c => { c with preempt := .pending [5] }).ctx.preempt ≠ .none ∧ Fresh (lockedBy 3)) ∧
    ∃ s1, (seqSt (seqRec 1 1 1 2 2 0 0 0 0 7 0)).writeSeq 56 [0, 0, 0, 0] 0x20000018000 = .ok s1 ∧ ∃ s2, s1.writeSeq 60 [1] 0x20000018000 = .ok s2 := by
  refine ⟨⟨.inr ⟨0, List.mem_cons_self, (lockedBy 3).vc, 3, by decide +kernel, by decide +kernel, by decide +kernel⟩, ?_⟩, ⟨by decide +kernel, by unfold Fresh; decide +kernel⟩, ok2_of (by decide +kernel)⟩
  rintro (⟨j, h, -⟩ | ⟨v, hv, x, o, hx, h, -⟩)
  · rw [(by decide +kernel : (seqSt (seqRec 1 1 1 2 2 0 0 0 0 0 1)).vc.tile = none)] at h; cases h
  · obtain rfl := List.mem_singleton.mp hv
    rw [(by decide +kernel : (seqSt (seqRec 1 1 1 2 2 0 0 0 0 0 1)).vcAt 0 = some core)] at hx
    obtain rfl := Option.some.inj hx
    rw [(by decide +kernel : core.groupLock = none)] at h; cases h

/-- The MTILE of the thread in focus at step n, alone or with a second core. -/
def tiling (s : State) (bs : List Byte) (n : Nat) : State :=
  { (poke s 0x318000 bs) with vc := { core with tile := some ⟨0, 0x20000018000, bs, n, []⟩ }, thr := { thr with waitA := .mtile } }
def oneStep : List Byte := seqRec 1 1 1 2 2 0 0 0 0 0 1
def twoSteps : List Byte := seqRec 1 1 5 2 2 0 0 0 0 0 1
def twoCores : List Byte := seqRec 1 129 1 2 2 0 0 1 0 0 1
def noCap : List Byte := (twoCores.take 32) ++ leBytes 8 0 ++ twoCores.drop 40

/-- The data page holds the record, as a DTLB entry that may be written says. -/
def spoilt : State := { tiling demo oneStep 0 with badWords := [0x318100] }

theorem witness_tile_steps :
    (TileRunning (tiling demo oneStep 0) (tiling demo oneStep 0) ⟨0, 0x20000018000, oneStep, 0, []⟩ ∧ stepCount oneStep = 1 ∧
      stepCount twoSteps = 2 ∧ stepCount twoCores = 2) ∧
    (∃ s1, (tiling demo oneStep 1).writeSeq 60 [3] 0x20000018000 = .ok s1) ∧
    (∃ d, (tiling demo oneStep 0).stepReads (seqOf oneStep) (stepShape oneStep 0) true = .ok d) ∧
    (∃ d, (tiling demo twoSteps 0).stepReads (seqOf twoSteps) (stepShape twoSteps 0) true = .ok d) ∧
    (∃ d, (tiling duo twoCores 1).stepReads (seqOf twoCores) (stepShape twoCores 1) true = .ok d) ∧
    ((tiling demo oneStep 0).vcAt 0 = some (tiling demo oneStep 0).vc ∧ (tiling duo twoCores 1).vcAt 1 = some other ∧ (stepShape twoCores 1).m = 1) ∧
    (fld twoCores 32 8 ≠ 0 ∧ BitVec.ofNat 64 (fld twoCores 32 8) ∈ other.mkeys.toList ∧ fld noCap 32 8 = 0) ∧
    (∀ k, k < (stepShape oneStep 0).rows → ((tiling demo oneStep 0).vc.row (0 + 32 * 0 + k)).pair = false) := by
  exact ⟨⟨⟨focus_demo _ (by decide +kernel), by decide +kernel⟩, by decide +kernel⟩, ok_of (by decide +kernel), ok_of (by decide +kernel), ok_of (by decide +kernel),
    ok_of (by decide +kernel), by decide +kernel, by decide +kernel, by decide +kernel⟩

/-- The step's reads are made, or meet an uncorrectable word; the counts of the record are written. -/
def madeReads (r : Res (Except (State × LateErr) (List Byte × List Byte × List Byte × List Byte))) : Bool :=
  match r with
  | .ok (.ok _) => true
  | _ => false
def lostReads (c : Cause) (r : Res (Except (State × LateErr) (List Byte × List Byte × List Byte × List Byte))) : Bool :=
  match r with
  | .ok (.error (_, e)) => decide (e.cause = c)
  | _ => false
theorem witness_tile_reads :
    madeReads ((tiling demo oneStep 0).stepReads (seqOf oneStep) (stepShape oneStep 0) true) = true ∧
    lostReads .sramUncorrectable (spoilt.stepReads (seqOf oneStep) (stepShape oneStep 0) true) = true ∧
    lostReads .sramUncorrectable ((tiling demo oneStep 0).stepReads (seqOf oneStep) (stepShape oneStep 0) true) = false := by decide +kernel
theorem witness_tile_counts :
    (∃ s3, (tiling demo oneStep 0).writeSeq 56 (leBytes 4 1) 0x20000018000 = .ok s3 ∧ ∃ s5, s3.writeSeq 60 [3] 0x20000018000 = .ok s5) ∧
    ∃ s2, spoilt.writeSeq 60 [2] 0x20000018000 = .ok s2 := by
  exact ⟨ok2_of (by decide +kernel), ok_of (by decide +kernel)⟩

/-- Images of MCLR, MREAD and MADDRAW; a command of each kind on its way. -/
def image (kind fmt arg addr : Nat) : List Byte := [BitVec.ofNat 8 kind, BitVec.ofNat 8 fmt, 0, 0] ++ leBytes 4 arg ++ leBytes 8 addr
def mcmdArgs : CArgs := ⟨⟨0, 1, 2, 3, 0, 0, 0, 0⟩, 1⟩
def sending (bs : List Byte) : State := poke { duo with thr := ((duo.thr.setS 1 1).setS 2 77).setS 3 0x20000018000 } 0x318000 bs
def clears : Mcmd := commandOf mcmdArgs (sending (image 1 0 5 0)) (image 1 0 5 0)
def adds : Mcmd := commandOf mcmdArgs (sending (image 3 0 1 0x20000018000)) (image 3 0 1 0x20000018000)
def coming (s : State) (m : Mcmd) : State := { s with ctx := { s.ctx with mcmds := [m] } }

def reads : Mcmd := commandOf mcmdArgs (sending (image 2 0 4 0x20000018040)) (image 2 0 4 0x20000018040)
/-- A command behind an older one, and one behind a parked store of its issuer. -/
def queued : State := { duo with ctx := { duo.ctx with mcmds := [{ clears with order := 4 }, { clears with order := 5 }] }, req := { duo.req with n := 1 } }
def behindStore : State :=
  { coming duo { clears with order := 9 } with
    thr := { demo.thr with replay := [⟨3, [], none⟩] } }

theorem witness_mcmd_issue :
    (HasRestartable restartThr ∧ ¬HasRestartable demo.thr ∧ demo.nv ≤ 1 ∧ 1 < duo.nv) ∧
    (∃ e, (demoS [(3, 0x20000018008)]).readRange demo.agent 16 0x20000018008 16 = .error (.trap e)) ∧
    (sending (image 1 0 5 0)).readRange (sending (image 1 0 5 0)).agent 16 0x20000018000 16 = .ok (image 1 0 5 0) ∧
    (ImageOk (image 1 0 0x7FF 0) ∧ ¬ImageOk (image 1 0 0x800 0) ∧ ImageOk (image 2 5 4 64) ∧ ¬ImageOk (image 2 5 0x10004 64)) ∧
    (ImageOk (image 2 0 0x40004 64) ∧ ¬ImageOk (image 2 0 0x50004 64) ∧ ImageOk (image 3 0 255 0) ∧ ¬ImageOk (image 3 0 256 0) ∧ ¬ImageOk (image 4 0 0 0)) := by
  refine ⟨by unfold HasRestartable; decide +kernel, trap_of (by decide +kernel), by decide +kernel, ?_, ?_⟩
  · refine ⟨?_, ?_, ?_, ?_⟩ <;> (unfold ImageOk; decide +kernel)
  · refine ⟨?_, ?_, ?_, ?_, ?_⟩ <;> (unfold ImageOk; decide +kernel)

theorem arrives_of {s : State} {m : Mcmd} (h : ((s.ctxAt s.req.t.ctx).bind fun c => c.mcmds[s.req.n]?) = some m)
    (hf : s = s.focus ⟨s.req.t.ctx, m.ident.vcore, m.thread⟩) (hr : s.ctx.runs = true) (hm : s.ctx.mcmds = [m]) (hp : s.thr.replay = []) :
    Arrives s s m := by
  refine ⟨⟨h, hf, hr⟩, ?_⟩
  rintro (⟨y, hy, -, -, ho⟩ | ⟨p, hp', -⟩)
  · rw [hm] at hy; obtain rfl := List.mem_singleton.mp hy; exact absurd ho (Nat.lt_irrefl _)
  · rw [hp] at hp'; cases hp'
theorem witness_behind :
    (Commands queued queued { clears with order := 5 } ∧ Behind queued { clears with order := 5 }) ∧
    Commands behindStore behindStore { clears with order := 9 } ∧ Behind behindStore { clears with order := 9 } := by
  exact ⟨⟨⟨by decide +kernel, focus_demo _ (by decide +kernel), by decide +kernel⟩, .inl ⟨_, List.mem_cons_self, by decide⟩⟩,
    ⟨by decide +kernel, focus_demo _ (by decide +kernel), by decide +kernel⟩, .inr ⟨_, List.mem_cons_self, by decide⟩⟩

theorem witness_clear_arrives :
    Arrives (coming duo clears) (coming duo clears) clears ∧
    ((coming duo clears).vcAt 1 = some other ∧ clears.cap ≠ 0 ∧ clears.cap ∈ other.mkeys.toList ∧ (78 : W64) ∉ other.mkeys.toList ∧ clears.kind = 1) ∧
    ((∃ c ∈ [tenRows], c.first < 10 + clears.count ∧ 10 < c.first + c.count) ∧ ¬(∃ c ∈ other.outstanding, c.first < clears.first + clears.count ∧
      clears.first < c.first + c.count) ∧ ¬BadRows clears.first clears.count ∧ BadRows 255 2) := by
  refine ⟨arrives_of (by decide +kernel) (focus_demo _ (by decide +kernel)) (by decide +kernel) (by decide +kernel) (by decide +kernel), by decide +kernel,
    by decide +kernel, ?_, by unfold BadRows; decide +kernel, by unfold BadRows; decide +kernel⟩
  rintro ⟨c, hc, -⟩
  rw [(by decide +kernel : other.outstanding = [])] at hc; cases hc

/-- The remote MREAD of a row of four columns into 0x20000018040. -/
def comesRead : State := coming duo reads
theorem witness_read_arrives :
    Arrives comesRead comesRead reads ∧
    (reads.kind = 2 ∧ reads.cap ≠ 0 ∧ reads.cap ∈ other.mkeys.toList ∧ ReadRowsBad reads.fmt 4 reads.first reads.count other = none ∧
      ReadRowsBad 0 4 255 2 other = some .accRange ∧ reads.arg.testBit 12 = false ∧ reads.arg.testBit 13 = false) ∧
    (∃ e, comesRead.checkRange (comesRead.engine reads.ident) 4 0x20000018042 16 = .error (.trap e)) ∧
    (∃ ps, comesRead.checkRange (comesRead.engine reads.ident) (readAlign reads.fmt) reads.addr (readSize reads.fmt 4 0 reads.count) = .ok ps) ∧
    (∃ t, comesRead.thr.raiseFlags [(readOut (readArgs 0 0 4) .rne [other.row 0]).2] = .ok t) ∧
    (∃ e, (demoT fun t => { t with fpen := 31 }).thr.raiseFlags [16] = .error (.trap e)) := by
  exact ⟨arrives_of (by decide +kernel) (focus_demo _ (by decide +kernel)) (by decide +kernel) (by decide +kernel) (by decide +kernel), by decide +kernel,
    trap_of (by decide +kernel), ok_of (by decide +kernel), ok_of (by decide +kernel), trap_of (by decide +kernel)⟩
theorem witness_read_stores :
    ∃ ps, comesRead.checkRange (comesRead.engine reads.ident) 4 0x20000018040 16 = .ok ps ∧
    storesOf (splitBytes ps.1 (List.replicate 16 0)) (splitBytes ps.1 (List.replicate 16 0)) ps.2 = [⟨0x20000018040, 0x318040, List.replicate 16 0, none⟩] := by
  exact ⟨_, rfl, by decide +kernel⟩

theorem witness_raw_arrives :
    Arrives (coming duo adds) (coming duo adds) adds ∧
    (adds.kind = 3 ∧ (poke (coming duo adds) 0x318000 (rawBytes 0)).fetchRange ((coming duo adds).engine adds.ident) 1 adds.addr 88 = .ok (.ok (rawBytes 0)) ∧
      (poke (coming duo adds) 0x318000 (rawBytes 1)).fetchRange ((coming duo adds).engine adds.ident) 1 adds.addr 88 = .ok (.ok (rawBytes 1))) ∧
    (∃ e, (coming duo adds).fetchRange ((coming duo adds).engine adds.ident) 1 0x20000030000 88 = .error (.trap e)) ∧
    ((∀ k, k < 1 → FitsRaw (other.row (0 + k)) (rawAt 1 k (rawBytes 0))) ∧ ∃ k, k < 1 ∧ ¬FitsRaw (other.row (0 + k)) (rawAt 1 k (rawBytes 1))) := by
  refine ⟨arrives_of (by decide +kernel) (focus_demo _ (by decide +kernel)) (by decide +kernel) (by decide +kernel) (by decide +kernel), by decide +kernel,
    trap_of (by decide +kernel), ?_, 0, ?_⟩
  · unfold FitsRaw; decide +kernel
  · unfold FitsRaw; decide +kernel
def lostBytes (r : Res (Except (State × LateErr) (List Byte))) : Bool :=
  match r with
  | .ok (.error _) => true
  | _ => false
theorem witness_raw_lost :
    lostBytes (({ coming duo adds with badWords := [0x318000] } : State).fetchRange ((coming duo adds).engine adds.ident) 1 adds.addr 88) = true := by decide +kernel

theorem witness_array_completion :
    (demo = demo.focus { demo.req.t with th := 0 }) ∧ demo.ctx.live = true ∧ demo.ctx.hasVc demo.vc.id = true ∧
    (arrayAt [tenRows]).vc.outstanding = tenRows :: [] ∧ tenRows.err = none ∧ (arrayCmd (some failed)).err = some failed := by
  exact ⟨focus_demo _ (by decide +kernel), by decide +kernel⟩

/-- A tile of 96 by 4 cells of one bit at near address 0x1000, with halo 1; its edges and counters as given. -/
def tileRec (edges gen rem flags run : Nat) : List Byte :=
  leBytes 4 0x1000 ++ leBytes 2 96 ++ leBytes 2 4 ++ leBytes 1 1 ++ leBytes 1 1 ++ leBytes 1 edges ++ leBytes 1 0 ++ leBytes 4 0 ++ leBytes 4 0 ++
    leBytes 4 gen ++ leBytes 4 rem ++ leBytes 4 flags ++ leBytes 4 run ++ leBytes 28 0
def life : RuleTab := ⟨.total, 0, 1, [0, 0, 0, 1, 0, 0, 0, 0, 0, 0, 0, 1, 1, 0, 0, 0, 0, 0]⟩
def ruleSt (bs : List Byte) (g : Nat) : State :=
  { (poke (demoS [(1, 0x20000018000), (2, BitVec.ofNat 64 g)]) 0x318000 bs) with vc := { core with table := some life } }

/-- The rule of the game of life on a bar of three cells: the middle stays, its ends die, the cells beside it come alive (R342, R343). -/
theorem test_rule :
    let d := tileOf (tileRec 0x55 0 0 0 0)
    let w := (List.range 384).map fun k => if k = 96 + 40 ∨ k = 96 + 41 ∨ k = 96 + 42 then 1 else 0
    let v := d.generation life false w
    (v[96 + 40]?, v[96 + 41]?, v[96 + 42]?, v[192 + 41]?) = (some 0, some 1, some 0, some 1) := by decide +kernel

theorem witness_shaped : Shaped (tileOf (tileRec 0x55 0 0 0 0)) ∧ Shaped (tileOf (tileRec 0xAA 0 0 0 0)) ∧ life.hood ≤ 2 ∧
    (List.replicate 384 0).length = (tileOf (tileRec 0x55 0 0 0 0)).sh * (tileOf (tileRec 0x55 0 0 0 0)).sw := by
  unfold Shaped; decide +kernel

/-- Another thread's lantern command stands before this one's. -/
def behindLantern : State := { ruleSt [] 18 with vc := { (ruleSt [] 18).vc with lantern := [5] } }

theorem witness_lantern :
    (lined behindLantern).vc.lantern.head? ≠ some behindLantern.thr.id ∧ (lined (ruleSt [] 18)).vc.lantern.head? = some (ruleSt [] 18).thr.id ∧
    ((lined { demo with thr := restartThr }).vc.lantern.head? = some restartThr.id ∧ HasRestartable restartThr) ∧ ¬HasRestartable (ruleSt [] 18).thr := by
  unfold HasRestartable; decide +kernel

theorem witness_rload :
    (TableFieldsBad 0 0 0 ∧ TableFieldsBad 0 5 0 ∧ TableFieldsBad 1 1 3 ∧ TableFieldsBad 0 1 2 ∧ ¬TableFieldsBad 1 4 2 ∧ ¬TableFieldsBad 0 1 1) ∧
    (16 < 2 * (hoodN 0 + 1) ∧ 1 * (hoodN 0 + 1) ≤ 16 ∧ tableLen .total 0 1 = 18 ∧ tableLen .full 0 1 = 512 ∧ tableLen .full 1 1 = 32) ∧
    (((ruleSt [] 18).thr.getS 2).toNat = 18 ∧ ((ruleSt [] 17).thr.getS 2).toNat ≠ 18) ∧
    (∃ e, (lined (demoS [(1, 0x20000030000)])).readRange demo.agent 1 0x20000030000 18 = .error (.trap e)) ∧
    (lined (ruleSt [] 18)).readRange (lined (ruleSt [] 18)).agent 1 0x20000018000 18 = .ok (List.replicate 18 0) := by
  refine ⟨by unfold TableFieldsBad; decide, by decide +kernel, by decide +kernel, trap_of (by decide +kernel), by decide +kernel⟩

def fixedTile : List Byte := tileRec 0x55 0 0 0 0
def openTile : List Byte := tileRec 0x54 0 0 0 0
def carried : List Byte := tileRec 0x45 3 2 1 3
/-- A tile with one word of its fields replaced. -/
def tileWith (off : Nat) (b : Byte) : List Byte := fixedTile.set off b
theorem witness_descriptor :
    (¬DescBad fixedTile false 1 ∧ ¬DescBad carried true 0 ∧ ¬DescBad fixedTile false (2 ^ 32 - 1)) ∧
    (DescBad fixedTile false (2 ^ 32) ∧ DescBad (tileWith 9 0) false 1 ∧ DescBad (tileWith 9 5) false 1 ∧ DescBad (tileWith 8 17) false 1) ∧
    (DescBad (tileWith 11 2) false 1 ∧ DescBad (tileWith 4 64) false 1 ∧ DescBad (tileWith 4 97) false 1 ∧ DescBad (tileWith 6 2) false 1) ∧
    (DescBad (tileRec 0xFF 0 0 0 0) false 1 ∧ DescBad (tileRec 0x56 0 0 0 0) false 1 ∧ DescBad (tileRec 0x59 0 0 0 0) false 1) ∧
    (DescBad ((tileRec 0x66 0 0 0 0).set 6 5) true 1 ∧ ¬DescBad ((tileRec 0x66 0 0 0 0).set 6 5) false 1) ∧
    (DescBad (tileWith 0 1) false 1 ∧ DescBad (tileWith 28 2) false 1 ∧ DescBad (tileWith 36 1) false 1) ∧
    (DescBad (tileRec 0x45 3 4 1 3) false 1 ∧ DescBad (tileRec 0x45 3 0 1 3) false 1 ∧ DescBad (tileWith 2 0x3C) false 1) := by
  refine ⟨⟨?_, ?_, ?_⟩, ⟨?_, ?_, ?_, ?_⟩, ⟨?_, ?_, ?_, ?_⟩, ⟨?_, ?_, ?_⟩, ⟨?_, ?_⟩, ⟨?_, ?_, ?_⟩, ?_, ?_, ?_⟩ <;> (unfold DescBad; decide +kernel)

theorem witness_rstep :
    (∃ e, (lined (demoS [(1, 0x20000018020)])).readRange demo.agent 64 0x20000018020 64 = .error (.trap e)) ∧
    ((lined (ruleSt fixedTile 1)).readRange (ruleSt fixedTile 1).agent 64 0x20000018000 64 = .ok fixedTile ∧
      ∃ ok, (lined (ruleSt fixedTile 1)).checkRange (ruleSt fixedTile 1).agent 64 0x20000018000 64 = .ok ok) ∧
    (demo.vc.table = none ∧ (ruleSt fixedTile 1).vc.table = some life ∧ life.bits = fld fixedTile 9 1 ∧ { life with bits := 2 }.bits ≠ fld fixedTile 9 1) ∧
    ((∃ k, k < 4 ∧ fld openTile 10 1 / 4 ^ k % 4 = 0 ∧ (if k % 2 = 0 then fld openTile 8 1 else 32) < 1 * runLen openTile 2 * 1) ∧
      ¬∃ k, k < 4 ∧ fld openTile 10 1 / 4 ^ k % 4 = 0 ∧ (if k % 2 = 0 then fld openTile 8 1 else 32) < 1 * runLen openTile 1 * 1) ∧
    (fld carried 24 4 ≠ 0 ∧ carryUsed carried 3 = true ∧ carryUsed fixedTile 3 = false) := by
  refine ⟨trap_of (by decide +kernel), ⟨by decide +kernel, ok_of (by decide +kernel)⟩, by decide +kernel, ⟨⟨0, by decide +kernel⟩, ?_⟩, by decide +kernel⟩
  rintro ⟨k, hk, h⟩
  exact (by decide +kernel : ∀ k < 4, ¬(fld openTile 10 1 / 4 ^ k % 4 = 0 ∧ (if k % 2 = 0 then fld openTile 8 1 else 32) < 1 * runLen openTile 1 * 1)) k hk h

/-- The core's tile may be read and written, a range past the context's slices may not; the start of a run writes its words. -/
theorem witness_rstep_tile :
    ((lined (ruleSt fixedTile 1)).checkBoth (ruleSt fixedTile 1).agent 4 0x1000 48 = .ok () ∧
      (lined (ruleSt fixedTile 1)).checkBoth (ruleSt fixedTile 1).agent 4 0x1030 0 = .ok ()) ∧
    (∃ e, (lined (ruleSt fixedTile 1)).checkBoth (ruleSt fixedTile 1).agent 4 0x20000030000 48 = .error (.trap e)) ∧
    (∃ s2, (lined (ruleSt fixedTile 1)).storeWords (ruleSt fixedTile 1).agent 0x20000018000 [(32, 1), (24, 1)] = .ok s2 ∧
      ∃ tile, s2.readRange s2.agent 4 0x1000 48 = .ok tile) ∧
    (ruleSt fixedTile 1).ctx.preempt = .none ∧ (demoC fun c => { c with preempt := .pending [5] }).ctx.preempt ≠ .none := by
  exact ⟨by decide +kernel, trap_of (by decide +kernel), ok2_of (by decide +kernel), by decide +kernel, by decide +kernel⟩

def ruling (bs : List Byte) (n : Nat) : State :=
  { (ruleSt bs 2) with
    vc := { core with table := some life, rule := some ⟨0, false, 0x20000018000, bs, 2, 0, n, List.replicate 384 0⟩, lantern := [0] }
    thr := { thr with waitA := .rstep } }
def boundary (bs : List Byte) (n : Nat) : Bool :=
  let s := ruling bs n
  let j : RuleJob := ⟨0, false, 0x20000018000, bs, 2, 0, n, List.replicate 384 0⟩
  let d := tileOf bs
  let w := d.generation life false j.working
  let ag : Agent := { vcore := s.vc.id, lanes := s.thr.lanes, det := s.det, thread := true, tlb := false, estream := false }
  let carry := carryUsed bs 2 && decide (n ≠ 1)
  match (do
    let s1 ← s.storeWords ag d.base (d.words w d.interior)
    let s2 ← s1.storeWords ag j.addr [(20, (j.gen + 1) % 2 ^ 32), (24, j.remaining - 1)]
    let s3 ← (if carry then s2.storeWords ag (d.base + d.size) (d.words w fun x y => isLattice d x y && !d.interior x y) else .ok s2 : Res State)
    s3.storeWords ag j.addr [(28, if carry then 1 else 0)] : Res State) with
  | .ok _ => true
  | .error _ => false
theorem witness_boundary :
    RuleRunning (ruling fixedTile 2) (ruling fixedTile 2) ⟨0, false, 0x20000018000, fixedTile, 2, 0, 2, List.replicate 384 0⟩ life ∧
    boundary fixedTile 1 = true ∧ boundary fixedTile 2 = true ∧ boundary (tileRec 0x45 0 2 0 2) 2 = true := by
  exact ⟨⟨focus_demo _ (by decide +kernel), by decide +kernel⟩, by decide +kernel⟩

/-! ### Vector instructions -/

/-- v1 holds 3 in every lane, v2 holds 5; queue 1 holds an entry of lanes 0 and 1, one that is not readable yet follows. -/
def qitem (x : W32) (m : W32) (ready : Bool) : QEntry := ⟨Lanes.make fun _ => x, m, ready⟩
def vecs (q : List QEntry) : State := demoT fun t =>
  (((t.setV 1 (Lanes.make fun _ => 3)).setV 2 (Lanes.make fun _ => 5)).setM 0 7).setQ 1 q
def vecArgs (x16 : Nat) : RArgs := ⟨3, 1, 2, 0, 0, 0, 0, x16⟩
def queueArgs (x16 : Nat) : RArgs := ⟨3, 1, 1, 0, 0, 0, 0, x16⟩

theorem test_vialu_queue :
    let t := (nextOf (exec (.vialuAdd (vecArgs 4)) (vecs [qitem 10 3 true]))).thr
    ((t.getV 3).lane 0, (t.getV 3).lane 1, (t.getV 3).lane 2, t.getQ 1) = (15, 15, 0, []) := by decide +kernel

/-- Operands: of vectors, of vectors with BB, of a queue, of two entries of one queue, of a queue with BB; a queue that is empty, that holds
an entry which is not readable, that holds one entry where two are to be popped. -/
theorem witness_operands :
    Operands (vecs []).thr (vecArgs 0) ((vecs []).thr.getV 1) ((vecs []).thr.getV 2) 7 (vecs []).thr ∧
    Operands (vecs []).thr (vecArgs 2) ((vecs []).thr.getV 1) (Lanes.make fun _ => ((vecs []).thr.getV 2).lane 0) 7 (vecs []).thr ∧
    Operands (vecs [qitem 10 3 true]).thr (vecArgs 4) (qitem 10 3 true).lanes ((vecs []).thr.getV 2) ((vecs []).thr.getM 0 &&& 3)
      ((vecs [qitem 10 3 true]).thr.setQ 1 []) ∧
    Operands (vecs [qitem 10 3 true, qitem 11 6 true]).thr (queueArgs 5) (qitem 10 3 true).lanes (qitem 11 6 true).lanes ((vecs []).thr.getM 0 &&& 3 &&& 6)
      (((vecs [qitem 10 3 true, qitem 11 6 true]).thr.setQ 1 [qitem 11 6 true]).setQ 1 []) ∧
    Operands (vecs [qitem 10 3 true]).thr (queueArgs 3) ((vecs []).thr.getV 1) (Lanes.make fun _ => (qitem 10 3 true).lanes.lane 0) 7
      ((vecs [qitem 10 3 true]).thr.setQ 1 []) := by
  refine ⟨⟨7, (vecs []).thr, _, .inl ⟨by decide, rfl, by decide +kernel, rfl⟩, by decide, .inl ⟨by decide, rfl, rfl, rfl⟩⟩,
    ⟨7, (vecs []).thr, _, .inl ⟨by decide, rfl, by decide +kernel, rfl⟩, rfl, .inl ⟨by decide, rfl, rfl, rfl⟩⟩,
    ⟨_, _, (vecs []).thr.getV 2, .inr ⟨by decide, qitem 10 3 true, [], by decide +kernel, rfl, rfl, rfl, rfl⟩, rfl,
      .inl ⟨by decide, by decide +kernel, by decide +kernel, rfl⟩⟩,
    ⟨_, _, _, .inr ⟨by decide, qitem 10 3 true, [qitem 11 6 true], by decide +kernel, rfl, rfl, rfl, rfl⟩, rfl,
      .inr ⟨by decide, qitem 11 6 true, [], by decide +kernel, rfl, rfl, by decide +kernel, rfl⟩⟩,
    ⟨7, _, _, .inl ⟨by decide, by decide +kernel, by decide +kernel, rfl⟩, rfl, .inr ⟨by decide, qitem 10 3 true, [], by decide +kernel, rfl, rfl, rfl, rfl⟩⟩⟩

theorem witness_operand_waits :
    OperandWaits (vecs []).thr (vecArgs 4) 1 ∧ OperandWaits (vecs [qitem 1 1 false]).thr (vecArgs 4) 1 ∧
    OperandWaits (vecs [qitem 1 1 true]).thr (queueArgs 5) 1 ∧ (∀ q, ¬OperandWaits (vecs []).thr (vecArgs 0) q) := by
  refine ⟨.inl ⟨by decide, .inl (by decide +kernel), rfl⟩, .inl ⟨by decide, .inr ⟨qitem 1 1 false, [], by decide +kernel, rfl⟩, rfl⟩,
    .inr ⟨by decide, rfl, _, _, _, .inr ⟨by decide, qitem 1 1 true, [], by decide +kernel, rfl, rfl, rfl, rfl⟩, .inl (by decide +kernel)⟩, ?_⟩
  rintro q (⟨h, -⟩ | ⟨h, -⟩) <;> simp [vecArgs] at h

/-- A level link of the E-stream that overflows when v1 is written. -/
theorem witness_vector_writes :
    linkedV.thr.levelDest true 5 = some 3 ∧ (vecs []).thr.levelDest true 3 = none ∧
    (∃ t, (vecs []).thr.writeV 3 7 (Lanes.make fun _ => 8) = .ok t) ∧
    (linkedV.thr.levelDest true 1 = none ∧ ∃ e, linkedV.thr.writeV 1 7 (Lanes.make fun _ => 0x7FFFFFFF) = .error (.trap e)) ∧
    (∃ t, (vecs []).thr.writeV 3 (BitVec.allOnes 32) (Lanes.make fun _ => 8) = .ok t) ∧
    (linkedV.thr.levelDest true 1 = none ∧ ∃ e, linkedV.thr.writeV 1 (BitVec.allOnes 32) (Lanes.make fun _ => 0x7FFFFFFF) = .error (.trap e)) := by
  exact ⟨by decide +kernel, by decide +kernel, ok_of (by decide +kernel), ⟨by decide +kernel, trap_of (by decide +kernel)⟩, ok_of (by decide +kernel),
    by decide +kernel, trap_of (by decide +kernel)⟩

/-- FP flags: none enabled, INVALID enabled, only INEXACT enabled. -/
theorem witness_flags :
    (∃ t, (vecs []).thr.raiseFlags ((List.range 32).map fun _ => 17) = .ok t) ∧
    (∃ e, { (vecs []).thr with fpen := 16 }.raiseFlags ((List.range 32).map fun _ => 17) = .error (.trap e)) ∧
    (unionFlags [0, 17, 4] = 21 ∧ flagCauses = [] ++ (.fpInvalid, 4) :: flagCauses.drop 1 ∧
      flagCauses = flagCauses.take 4 ++ (.fpInexact, 0) :: [] ∧ (∀ f ∈ [0, 17, 4], f < 32) ∧
      (∀ x ∈ flagCauses.take 4, (21).testBit x.2 = false ∨ (1 : W64).getLsbD x.2 = false)) := by
  exact ⟨ok_of (by decide +kernel), trap_of (by decide +kernel), by decide +kernel⟩

/-- Moves: a mask's first bit, MSET of a vector and of a queue, a full queue and one with room, a pop; reductions; both destinations of MXQ. -/
theorem witness_moves :
    (∀ k, k < 32 → BitVec.getLsbD (4 : W32) k = (((demoT fun t => t.setM 2 0xC).thr.getM 2).getLsbD k &&
      decide (onesBelow ((demoT fun t => t.setM 2 0xC).thr.getM 2) k = 0))) ∧
    (NoEntry (vecs []).thr 1 ∧ (vecs [qitem 10 3 true]).thr.getQ 1 = qitem 10 3 true :: []) ∧
    (∀ k, k < 32 → BitVec.getLsbD (BitVec.allOnes 32 : W32) k = decide (((vecs []).thr.getV 1).lane k ≠ 0)) ∧
    (∀ k, k < 32 → BitVec.getLsbD (3 : W32) k = ((qitem 10 3 true).mask.getLsbD k && decide ((qitem 10 3 true).lanes.lane k ≠ 0))) ∧
    ((vecs (List.replicate 16 (qitem 1 1 true))).thr.getQ 1).length = 16 ∧ ((vecs (List.replicate 15 (qitem 1 1 true))).thr.getQ 1).length < 16 ∧
    (∃ t, ((vecs [qitem 10 3 true]).thr.setQ 1 []).writeV 3 7 (qitem 10 3 true).lanes = .ok t) ∧
    ((vecs []).thr.levelDest true 3 = none ∧ (vecs []).thr.levelDest true 4 = none ∧
      ∃ t, (((vecs []).thr.setV 3 Lanes.zero).setV 4 Lanes.zero).settleE [(3, BitVec.allOnes 32), (4, BitVec.allOnes 32)] = .ok t) := by
  refine ⟨?_, ⟨.inl ?_, ?_⟩, ?_, ?_, ?_, ?_, ok_of (by decide +kernel), ?_, ?_, ok_of (by decide +kernel)⟩ <;> decide +kernel

/-- The floating-point reductions and MXQ, with no flag enabled, and with INVALID enabled and a signalling NaN in v1. -/
def signals : State := demoT fun t => { (((t.setV 1 (Lanes.make fun _ => 0x7F800001)).setM 0 7)) with fpen := 16 }
theorem witness_reductions :
    (∃ t, (vecs []).thr.raiseFlags (redLevels (vecs []).thr (vecArgs 0)).2 = .ok t) ∧ (∃ e, signals.thr.raiseFlags (redLevels signals.thr (vecArgs 0)).2 = .error (.trap e)) ∧
    (∃ e, signals.thr.raiseFlags (redInputs fp32.nan (vecArgs 0) signals.thr).2 = .error (.trap e)) ∧
    (∃ t, (vecs []).thr.raiseFlags (mxLaneFlags (.int 4) .rne [] []) = .ok t) ∧
    (∃ e, signals.thr.raiseFlags (mxLaneFlags (.int 4) .rne ((List.range 32).map fun _ => .inf false) []) = .error (.trap e)) := by
  exact ⟨ok_of (by decide +kernel), trap_of (by decide +kernel), trap_of (by decide +kernel), ok_of (by decide +kernel), trap_of (by decide +kernel)⟩

/-! ### Hints, PPT, retired majors -/

def drec : DRec := ⟨task, 1, 0, 0, 0, 0, none⟩
def station (code : Nat) (rs : List DRec) : Station := { Station.empty with code := code, recs := rs }
theorem witness_hints :
    demo.thr.singleStep = false ∧ ((demoT fun t => { t with hprio := 1 }).focus demo.req.t).thr.hprio = 1 ∧
    (∀ x ∈ demo.vc.stations, ¬Gathers (demo.thr.getS 0).toNat x) ∧ Gathers 8 (station 8 [drec]) ∧ ¬Gathers 9 (station 8 [drec]) ∧ ¬Gathers 8 (station 8 []) ∧
    ((demoV fun v => { v with stations := [station 9 [drec], station 8 [drec]] }).vc.stations = [station 9 [drec]] ++ station 8 [drec] :: []) ∧
    (lenOf 8 = 0 ∧ opOf 8 = 1 ∧ fnOf 8 = 0 ∧ ¬((8 = 8 ∨ 8 = 12) ∧ 1 = 0)) := by
  refine ⟨by decide +kernel, by decide +kernel, ?_, ?_, ?_, ?_, by decide +kernel, by decide +kernel⟩
  all_goals (unfold Gathers; decide +kernel)

/-- Liveness records: everything dead but rows 0 to 255; page 959 dead, page 960; row 256. -/
def liveness (first n page pages : Nat) : List Byte := leBytes 8 1 ++ leBytes 8 0 ++ leBytes 4 0 ++ leBytes 1 1 ++ leBytes 3 0 ++ leBytes 2 first ++ leBytes 2 n ++ leBytes 4 0 ++
  leBytes 4 page ++ leBytes 4 pages ++ leBytes 24 0
def pptSt (bs : List Byte) : State := poke (demoS [(5, 9)]) 0x31C000 bs
/-- Links that overflow when they are evaluated again with s5's sources zero: s5 = 0x7FFF_FFFF_FFFF_FFFF + 1 kept live. -/
def overflowing : Thread := { linked.thr with s := (linked.thr.s.setIfInBounds 1 0x7FFFFFFFFFFFFFFF).setIfInBounds 2 1 }

theorem witness_ppt :
    ((pptSt (liveness 0 256 959 1)).poolRead 0 64 = .ok (liveness 0 256 959 1) ∧ ∃ e, demo.poolRead 64 64 = .error (.trap e)) ∧
    (¬LivenessBad (liveness 0 256 959 1) ∧ LivenessBad (liveness 0 257 959 1) ∧ LivenessBad (liveness 0 256 959 2) ∧ LivenessBad (liveness 1 256 0 0)) ∧
    ((pptSt (liveness 0 256 959 1)).quiesce 1 = .ok (pptSt (liveness 0 256 959 1)) ∧ ∃ w, (tokens).quiesce 255 = .error (.wait w)) ∧
    (∃ r t, Reevaluates (onlyLive (liveness 0 256 959 1) (pptSt []).thr) r ∧ r = .ok t) ∧
    (∃ r e, Reevaluates overflowing r ∧ r = .error (.trap e)) ∧ DeadPage (liveness 0 256 959 1) 959 := by
  refine ⟨⟨by decide +kernel, trap_of (by decide +kernel)⟩, ⟨?_, ?_, ?_, ?_⟩, ⟨by decide +kernel, wait_of (by decide +kernel)⟩, ?_, ?_, 0, by decide +kernel⟩
  · rintro (h | h | h | ⟨i, hi, h⟩)
    · exact (by decide +kernel : ¬fld (liveness 0 256 959 1) 21 3 ≠ 0) h
    · exact (by decide +kernel : ¬fld (liveness 0 256 959 1) 28 4 ≠ 0) h
    · exact (by decide +kernel : ¬256 < fld (liveness 0 256 959 1) 24 2 + fld (liveness 0 256 959 1) 26 2) h
    · exact (by decide +kernel : ∀ i < 4, ¬((deadRange (liveness 0 256 959 1) i).2 ≠ 0 ∧
        960 < (deadRange (liveness 0 256 959 1) i).1 + (deadRange (liveness 0 256 959 1) i).2)) i hi h
  · exact .inr (.inr (.inl (by decide +kernel)))
  · exact .inr (.inr (.inr ⟨0, by decide +kernel⟩))
  · exact .inr (.inr (.inl (by decide +kernel)))
  · obtain ⟨t, h⟩ := ok_of (r := (reevalA (topoOrder 32 ((onlyLive (liveness 0 256 959 1) (pptSt []).thr).links false)) (onlyLive (liveness 0 256 959 1) (pptSt []).thr)).bind
      fun t1 => reevalE (topoOrder 32 (t1.links true)) t1) (by decide +kernel)
    exact ⟨_, t, rfl, h⟩
  · obtain ⟨e, h⟩ := trap_of (r := (reevalA (topoOrder 32 (overflowing.links false)) overflowing).bind
      fun t1 => reevalE (topoOrder 32 (t1.links true)) t1) (by decide +kernel)
    exact ⟨_, e, rfl, h⟩

/-- Loads of s4 and s5 from near address s1; vectors of near addresses in v1, one of them misaligned. -/
def pairSt (va : Nat) : State := poke (demoS [(1, BitVec.ofNat 64 va)]) 0x100 (leBytes 8 7 ++ leBytes 8 9)
def ldpArgs : MArgs := ⟨4, 1, 0, 0, 0, 0, 0, 0, 0⟩
def lanesSt (va : Nat) : State := demoT fun t => ((t.setV 1 (Lanes.make fun k => BitVec.ofNat 32 (va + 4 * k))).setM 0 3).setM 1 7
def emuArgs : RArgs := ⟨3, 1, 0, 0, 1, 0, 0, 0⟩
def loadsOf (s : State) : List Access := (lanesOf (bothMasks emuArgs s.thr)).map fun i => readAcc (nearLane emuArgs s i) 4 (.lane i)
def storesFor (s : State) : List (Access × List Byte) := (lanesOf (bothMasks emuArgs s.thr)).map fun i =>
  ({ writeAcc (nearLane emuArgs s i) 4 (.lane i) with cover := (lanesOf (bothMasks emuArgs s.thr)).map fun k => (nearLane emuArgs s k, 4) },
    leBytes 4 ((s.thr.getV emuArgs.d).lane i).toNat)

theorem witness_retired_pair :
    (demo.thr.checkDest 4 = .ok () ∧ demo.thr.checkDest 5 = .ok ()) ∧
    (∃ e, (pairSt 0x108).checkAll (pairSt 0x108).agent [{ readAcc 0x108 8 with align := 16 }, readAcc 0x110 8] = .error (.trap e)) ∧
    (∃ ts, (pairSt 0x100).checkAll (pairSt 0x100).agent [{ readAcc 0x100 8 with align := 16 }, readAcc 0x108 8] = .ok ts ∧
      (pairSt 0x100).readAll (pairSt 0x100).agent [{ readAcc 0x100 8 with align := 16 }, readAcc 0x108 8] ts = .ok [7, 9]) ∧
    ∃ t, (((pairSt 0x100).thr.setS 4 7).setS 5 9).settleA [4, 5] = .ok t := by
  exact ⟨by decide +kernel, trap_of (by decide +kernel), ⟨[.mem 0x100, .mem 0x108], by decide +kernel⟩, ok_of (by decide +kernel)⟩

theorem witness_retired_waits :
    vectorAhead.thr.ePath ≠ [] ∧ Fresh vectorAhead ∧ NoneOlderE demo ∧ demo.thr.checkDest 3 = .ok () := by
  unfold Fresh NoneOlderE; decide +kernel
theorem witness_retired_vectors :
    (¬emuBad emuArgs ∧ lanesOf (bothMasks emuArgs (lanesSt 0x100).thr) = [0, 1] ∧ demo.thr.levelDest true 3 = none) ∧
    (∃ e, (lanesSt 0x102).checkAll (lanesSt 0x102).agentE (loadsOf (lanesSt 0x102)) = .error (.trap e)) ∧
    ((lanesSt 0x100).checkAll (lanesSt 0x100).agentE (loadsOf (lanesSt 0x100)) = .ok [.mem 0x100, .mem 0x104] ∧
      (lanesSt 0x100).readAll (lanesSt 0x100).agentE (loadsOf (lanesSt 0x100)) [.mem 0x100, .mem 0x104] = .ok [0, 0]) ∧
    (∃ t, (lanesSt 0x100).thr.writeV 3 (bothMasks emuArgs (lanesSt 0x100).thr) Lanes.zero = .ok t) ∧
    (∃ e, (lanesSt 0x102).checkAll (lanesSt 0x102).agentE ((storesFor (lanesSt 0x102)).map Prod.fst) = .error (.trap e)) ∧
    (∃ ts, (lanesSt 0x100).checkAll (lanesSt 0x100).agentE ((storesFor (lanesSt 0x100)).map Prod.fst) = .ok ts ∧
      (storesOf (storesFor (lanesSt 0x100)) (storesFor (lanesSt 0x100)) (ts.map Slot.ready)).map PStore.pa = [0x100, 0x104]) := by
  refine ⟨⟨by unfold emuBad; decide, by decide +kernel, by decide +kernel⟩, trap_of (by decide +kernel), by decide +kernel, ok_of (by decide +kernel), trap_of (by decide +kernel),
    [.mem 0x100, .mem 0x104], by decide +kernel, by decide +kernel⟩

/-! ### Steps between instructions -/

/-- Stores of the thread in focus: two to one region of 64 KiB and one to another. -/
def leaving : State := demoT fun t => { t with stores := [⟨0x20000018000, 0x318000, [1], none⟩, ⟨0x20000018008, 0x318008, [2], none⟩, ⟨0x100, 0x100, [3], none⟩] }
def parkedAt (va : Nat) : Parked := { order := 1, accs := [⟨va, [1], none, true, none⟩], failed := none }
def parkedSt (xs : List Parked) (n : Nat) : State := { (demoT fun t => { t with replay := xs }) with req := { demo.req with n := n } }
def replayer : Agent := { demo.agent with thread := false, tlb := false }
/-- The same access, found to write through a view at issue. -/
def viewAcc : PAcc := ⟨0x20000040000, [1], none, true, some view⟩

theorem witness_performed :
    (Memory.wf leaving.mem ∧ leaving.linkFails 0x318000 = none ∧ Whole 0x318000 1 ∧ (here leaving).ctx.live = true ∧ (here leaving).thr.stores = leaving.thr.stores) ∧
    ((∃ x ∈ leaving.thr.stores.take 1, Ahead x ⟨0x20000018008, 0x318008, [2], none⟩) ∧ (∀ x ∈ leaving.thr.stores.take 2, ¬Ahead x ⟨0x100, 0x100, [3], none⟩) ∧
      Ahead ⟨0x100, 0x100, [3], none⟩ ⟨0x10000000100, 0x100, [4], none⟩) := by
  refine ⟨⟨by decide +kernel, by decide +kernel, ?_, by decide +kernel, by decide +kernel⟩, ?_, ?_, ?_⟩
  · unfold Whole; decide +kernel
  all_goals (unfold Ahead; decide +kernel)

/-- Parked stores: one whose page may be written now, one whose page is missing, one on a page of code; one through a view. -/
theorem witness_replays :
    ((here (parkedSt [parkedAt 0x100] 0)).ctx.runs = true ∧ (here (parkedSt [parkedAt 0x100] 0)).thr.replay = [] ++ parkedAt 0x100 :: [] ∧
      (parkedAt 0x100).failed = none) ∧
    ((here (parkedSt [parkedAt 0x100] 0)).replaySlot replayer [(0x20000040000, 1)] viewAcc = .ok (.ready (.conv view 0x318000)) ∧ viewAcc.view = some view) ∧
    ((here (parkedSt [parkedAt 0x100] 0)).checkMem replayer ((⟨0x100, [1], none, true, none⟩ : PAcc).access [(0x100, 1)]) = .ok 0x100) ∧
    (∃ e, (here (parkedSt [] 0)).checkMem replayer ((⟨0x20000020000, [1], none, true, none⟩ : PAcc).access [(0x20000020000, 1)]) = .error (.trap e)) ∧
    ((parkedAt 0x100).accs.mapM ((here (parkedSt [parkedAt 0x100] 0)).replaySlot replayer [(0x100, 1)]) = .ok [.ready (.mem 0x100)] ∧
      storesOf (replayOf (parkedAt 0x100)) (replayOf (parkedAt 0x100)) [.ready (.mem 0x100)] = [⟨0x100, 0x100, [1], none⟩]) := by
  refine ⟨by decide +kernel, ⟨by decide +kernel, rfl⟩, by decide +kernel, trap_of (by decide +kernel), by decide +kernel, by decide +kernel⟩
theorem witness_replay_held :
    ReplayHeld (here (parkedSt [] 0)) [parkedAt 0x108] (parkedAt 0x100) [⟨0x100, 0x100, [1], none⟩] ∧
    ReplayHeld (here leaving) [] (parkedAt 0x100) [⟨0x100, 0x100, [1], none⟩] ∧
    ¬ReplayHeld (here (parkedSt [] 0)) [parkedAt 0x20000020000] (parkedAt 0x100) [⟨0x100, 0x100, [1], none⟩] := by
  refine ⟨.inl ⟨_, List.mem_cons_self, rfl, _, List.mem_cons_self, _, List.mem_cons_self, _, .inl rfl, .inl rfl⟩,
    .inr (.inl ⟨_, List.mem_cons_self, ⟨0x100, 0x100, [3], none⟩, by decide +kernel, .inl rfl⟩), ?_⟩
  rintro (⟨x, hx, -, a, ha, b, hb, g, h, k⟩ | ⟨x, -, y, hy, -⟩ | ⟨a, ha, h⟩)
  · obtain rfl := List.mem_singleton.mp hx
    obtain rfl := List.mem_singleton.mp ha
    obtain rfl := List.mem_singleton.mp hb
    rcases h with h | ⟨w, h, -⟩
    · rcases k with k | ⟨w, k, -⟩
      · rw [← k] at h; exact absurd h (by decide +kernel)
      · cases k
    · cases h
  · rw [(by decide +kernel : (here (parkedSt [] 0)).thr.stores = [])] at hy; cases hy
  · obtain rfl := List.mem_singleton.mp ha
    exact absurd h (by decide +kernel)
/-- The write fails on a pool link that is down, on a missing page, on a page of code. -/
def parkedFails (c : Cause) (va : Nat) : Bool :=
  match (here (parkedSt [parkedAt va] 0)).replayStores (parkedAt va) with
  | .error (.trap e) => decide (e.cause = c)
  | _ => false
def poolDown : State := { parkedSt [parkedAt 0x100] 0 with cxlDown := [(parkedSt [] 0).portOf 0x100000000000] }
theorem witness_replay_fails :
    parkedFails .pageFaultWrite 0x20000020000 = true ∧ parkedFails .permWrite 0x20000000000 = true ∧
    (∃ c d, poolDown.linkFails 0x100000000000 = some (c, d)) ∧ (parkedSt [] 0).req.flag = false ∧ { (parkedSt [] 0).req with flag := true }.flag = true := by
  refine ⟨by decide +kernel, by decide +kernel, ⟨.poolLinkDown, _, (if_pos ?_ : (if _ then some _ else _) = _)⟩, by decide +kernel, rfl⟩
  have e : poolDown.cxlDown = [poolDown.portOf 0x100000000000] := rfl
  rw [e, (by decide +kernel : isPool 0x100000000000 = true)]
  simp

/-- Streams that wait on each other by queues, by XSYNC, by nothing. -/
def stuck (a e : Wait) (path : List W64) : State := demoT fun t => { (t.setQ 6 [entry [] 0 true, entry [] 0 false]) with waitA := a, waitE := e, ePath := path }
theorem witness_deadlock :
    ((here (stuck .none .none [])).thr.status ≠ .free ∧ (here (stuck .none .none [])).thr.getQ 6 = [entry [] 0 true] ++ entry [] 0 false :: [] ∧
      (entry [] 0 true).ready = true) ∧
    (ThreadRuns (here (stuck (.pop 2) (.pop 3) [0])) ∧ AWaits (here (stuck (.pop 2) (.pop 3) [0])).thr 2 ∧ EWaits (here (stuck (.pop 2) (.pop 3) [0])) 3) ∧
    (AWaits (here (stuck .estream (.pop 3) [0])).thr 8) ∧
    (∀ a e, AWaits (here demo).thr a → EWaits (here demo) e → a = 8 ∧ e = 8) := by
  refine ⟨by decide +kernel, ⟨?_, .inl ⟨by decide +kernel, by decide +kernel⟩, .inr ⟨by decide +kernel, .inl ⟨by decide +kernel, by decide +kernel⟩⟩⟩,
    .inr (.inr ⟨by decide +kernel, by decide +kernel, rfl⟩), ?_⟩
  · unfold ThreadRuns; decide +kernel
  · have w : (here demo).thr.waitA = .none := by decide +kernel
    rintro a e (⟨h | h, -⟩ | ⟨h | ⟨_, h⟩, -⟩ | ⟨h, -⟩) <;> rw [w] at h <;> cases h

/-- A thread that waits for the translation of an address; the page's leaf without its D bit; a table in a hole; an L2 entry. -/
def missing (va : Nat) (k : AccKind) : State :=
  { (demoT fun t => { t with waitA := .tlb va k }) with vc := { core with dtlb := [] }, req := { demo.req with n := va, kind := k } }
def cleanLeaf : State := { (missing 0x20000010000 .write) with mem := Memory.writeN demo.mem (placeRoot + 0x4008) (leBytes 8 0x31010F) }
def holed : State := { (missing 0x20000010000 .read) with ctx := { context with root := 0x1000000000 } }
def homed : State :=
  { (missing 0x20000010000 .read) with l2tlb := [(demo.home 0 1 0x20000010000, { ctx := 1, base := 0x20000010000, size := 65536, pte := 0x31030F })] }

theorem witness_walks :
    ((hereCore cleanLeaf).ctx.live = true ∧ (hereCore cleanLeaf).ctx.hasVc (hereCore cleanLeaf).vc.id = true) ∧
    Misses (hereCore cleanLeaf) .write 0x20000010000 ∧ Misses (hereCore homed) .read 0x20000010000 ∧ Misses (hereCore holed) .read 0x20000010000 ∧
    (∃ pa, (hereCore holed).walk 0x20000010000 = .hole pa) ∧
    ((hereCore cleanLeaf).walk 0x20000010000 = .leaf 0x31010F 5 (placeRoot + 0x4008) ∧ SetsD .write 0x31010F ∧ ¬SetsD .read 0x31010F ∧ ¬SetsD .write 0x31030F) ∧
    (∃ lv b, (hereCore (missing 0x20000020000 .read)).walk 0x20000020000 = .fault lv b) ∧
    (∀ e, ¬InHome (hereCore cleanLeaf) .write 0x20000010000 e) ∧
    InHome (hereCore homed) .read 0x20000010000 { ctx := 1, base := 0x20000010000, size := 65536, pte := 0x31030F } := by
  refine ⟨by decide +kernel, ?_, ?_, ?_, ⟨0x1000000000, by decide +kernel⟩, ⟨by decide +kernel, ?_, ?_, ?_⟩, ⟨5, false, by decide +kernel⟩, fun e h => ?_, ?_⟩
  · unfold Misses; decide +kernel
  · unfold Misses; decide +kernel
  · unfold Misses; decide +kernel
  · unfold SetsD; decide +kernel
  · unfold SetsD; decide +kernel
  · unfold SetsD; decide +kernel
  · have k := h.1
    rw [(by decide +kernel : (hereCore cleanLeaf).l2tlb = [])] at k; cases k
  · unfold InHome SetsD; decide +kernel

/-- The bytes of an instruction. -/
def codeOf (i : Instr) : List Byte := ((encode i).map fun w => leBytes 4 w).flatten
/-- A WAITW asleep on near address s3 for a word equal to s4; a TAKE of the holding in s1. -/
def asleep (want : W64) : State :=
  { (demoT fun t => { ((t.setS 3 0x100).setS 4 want) with waitA := .word }) with mem := tables (codeOf (.waitw 0 ⟨5, 3, 4, 0, 0, 0, 0, 33⟩)) }
def taking (n : W64) : State := { (demoT fun t => { (t.setS 1 n) with waitA := .take }) with mem := tables (codeOf (.holdTake ⟨0, 1, 0, 0, 0, 0, 0, 24⟩)) }
def handing (xs : List Handover) (n : Nat) : State := { (demoC fun c => { c with handovers := xs }) with req := { demo.req with n := n } }

theorem witness_wake_ups :
    (ThreadRuns (here (asleep 0)) ∧ (here (asleep 0)).thr.waitA = .word ∧
      (here (asleep 0)).instrAt (here (asleep 0)).thr.apc = some (.waitw 0 ⟨5, 3, 4, 0, 0, 0, 0, 33⟩, 8)) ∧
    ((here (asleep 0)).check (sleeper (here (asleep 0))) (readAcc 0x100 8) = .ok (.mem 0x100) ∧
      (here (asleep 0)).readTarget (sleeper (here (asleep 0))) (readAcc 0x100 8) (.mem 0x100) = .ok (List.replicate 8 0)) ∧
    (wordHolds 0 0 ((here (asleep 0)).thr.getS 4) = true ∧ wordHolds 0 0 ((here (asleep 1)).thr.getS 4) = false ∧ (here demo).thr.waitA ≠ .word) ∧
    ((here (asleep 0)).thr.checkDest 5 = .ok () ∧ ∃ t, (here (asleep 0)).thr.writeS 5 0 = .ok t) ∧
    ((hereCtx (handing [⟨0, 2, 0, 4⟩, ⟨0, 1, 0, 5⟩] 1)).ctx.live = true ∧ (hereCtx demo).ctx.killed = false ∧ (hereCtx demo).ctx.preempt ≠ .saved ∧ (hereCtx demo).ctx.halted = false ∧
      (hereCtx (demoC fun c => { c with halted := true })).ctx.halted = true) ∧
    (OlderInFlight (hereCtx (handing [⟨0, 2, 0, 4⟩, ⟨0, 1, 0, 5⟩] 1)).ctx ⟨0, 1, 0, 5⟩ ∧ ¬OlderInFlight (hereCtx (handing [⟨0, 2, 0, 4⟩, ⟨0, 1, 0, 5⟩] 1)).ctx ⟨0, 2, 0, 4⟩ ∧
      OlderInFlight { context with freeMsgs := [⟨0, 9, 0, 3⟩] } ⟨0, 1, 0, 5⟩ ∧ ¬OlderInFlight { context with freeMsgs := [⟨0, 9, 0, 6⟩] } ⟨0, 1, 0, 5⟩ ∧ 2 ^ 16 ≤ 0x20009) ∧
    ((taking 2).thr.status = .running ∧ (taking 2).thr.waitA = .take ∧ (taking 2).instrAt (taking 2).thr.apc = some (.holdTake ⟨0, 1, 0, 0, 0, 0, 0, 24⟩, 8) ∧
      holdingOf (taking 2) ⟨0, 1, 0, 0, 0, 0, 0, 24⟩ = some ⟨0x20000018000, 15, .exclusive, 0, none⟩) := by
  refine ⟨⟨?_, by decide +kernel⟩, by decide +kernel, by decide +kernel, ⟨by decide +kernel, ok_of (by decide +kernel)⟩, by decide +kernel, ?_, ?_⟩
  · unfold ThreadRuns; decide +kernel
  · unfold OlderInFlight; decide +kernel
  · unfold holdingOf; decide +kernel

/-! ### The launch unit, firings -/

/-- A control block at 0x20000018000 whose ring stands at 0x20000018400, and a packet in its first slot. -/
def blockBytes (size flags tail head ctx : Nat) : List Byte :=
  leBytes 8 0x20000018400 ++ leBytes 4 size ++ leBytes 4 flags ++ leBytes 8 tail ++ leBytes 8 head ++ leBytes 4 ctx ++ leBytes 4 0 ++ leBytes 24 0
def launchBytes (flags obj nv roots frame fsize code : Nat) : List Byte :=
  leBytes 2 1 ++ leBytes 2 flags ++ leBytes 4 obj ++ leBytes 8 code ++ leBytes 2 nv ++ leBytes 2 roots ++ leBytes 4 frame ++ leBytes 8 5 ++ leBytes 2 16 ++
    leBytes 2 fsize ++ leBytes 4 0 ++ leBytes 8 0x20000018800 ++ leBytes 8 1 ++ leBytes 8 0
def otherBytes (type obj : Nat) : List Byte :=
  leBytes 2 type ++ leBytes 2 0 ++ leBytes 4 obj ++ leBytes 32 0 ++ leBytes 8 0x20000018800 ++ leBytes 8 1 ++ leBytes 8 0
def slot0 (ws : List QWait) : LQueue := { ctx := 1, block := 0x20000018000, tail := 1, refs := [7], waits := ws }
def withQueue (pk : List Byte) (n : Nat) (ws : List QWait) : State :=
  { (poke (poke demo 0x318000 (blockBytes 2 0 1 0 1)) 0x318400 pk) with queues := [(n, slot0 ws)], nextId := 20, req := { demo.req with k := 0x20000018000, m := n } }
def plain : List Byte := launchBytes 0 7 1 1 0 16 placeVa
def serial : List Byte := launchBytes 32 7 1 1 0 16 placeVa

theorem witness_kicks :
    (State.reset.phase = .reset ∧ demo.phase = .up ∧ demo.ctxAt 9 = none ∧ demo.ctxAt demo.req.t.ctx = some context) ∧
    ((demoC fun c => { c with halted := true }).ctxAt 1 = some { context with halted := true }) ∧
    ((hereCtx demo).hwRead 0x20000018000 64 = some (List.replicate 64 0) ∧ (hereCtx (withQueue plain 3 [])).hwRead 0x20000018000 64 = some (blockBytes 2 0 1 0 1) ∧
      (hereCtx demo).hwRead 0x20000030000 64 = none) ∧
    (fld (List.replicate 64 (0 : Byte)) 32 4 ≠ 1 ∧ fld (blockBytes 2 0 1 0 1) 32 4 = 1) ∧
    ((hereCtx (withQueue plain 3 [])).slotOf 1 0x20000018000 = some 3 ∧ SMap.find (withQueue plain 3 []).queues 3 = some (slot0 []) ∧
      demo.slotOf 1 0x20000018000 = none ∧ SMap.find demo.queues 127 = none ∧ (SMap.find (withQueue plain 3 []).queues 3).isSome = true) ∧
    (¬BlockStalled (blockBytes 2 0 2 0 1) 2 ∧ ¬BlockStalled (blockBytes 65536 3 0 0 1) 0) ∧
    (BlockStalled (blockBytes 1 0 0 0 1) 0 ∧ BlockStalled (blockBytes 131072 0 0 0 1) 0 ∧ BlockStalled (blockBytes 2 4 0 0 1) 0 ∧
      BlockStalled (blockBytes 2 0 0 1 1) 0 ∧ BlockStalled (blockBytes 2 0 3 0 1) 3) := by
  refine ⟨by decide +kernel, by decide +kernel, ⟨page_read (off := 0x8000) 64 (by omega) (by decide +kernel) (by decide +kernel) (by decide +kernel),
    page_read (off := 0x8000) 64 (by omega) (by decide +kernel) (by decide +kernel) (by decide +kernel), by decide +kernel⟩, by decide +kernel, by decide +kernel,
    ⟨?_, ?_⟩, ⟨?_, ?_, ?_, ?_, ?_⟩⟩
  all_goals (unfold BlockStalled; decide +kernel)

/-- Slots: one that holds no block, one whose queue still has a packet, one whose queue has nothing left; a block kept when it was unmapped. -/
def emptied3 : State := { withQueue plain 3 [] with queues := [(3, { slot0 [] with tail := 0 })] }
def keptBlock : State := { demo with unmapped := [{ slot0 [] with tail := 0 }] }
theorem witness_slots :
    (SlotFree demo 127 ∧ SlotFree emptied3 3 ∧ ¬SlotFree (hereCtx (withQueue plain 3 [])) 3) ∧
    (queueKept keptBlock 0x20000018000 = { slot0 [] with tail := 0 } ∧ queueKept demo 0x20000018000 = { slot0 [] with tail := 0, refs := [] }) := by
  have r : ∀ s : State, s = hereCtx (withQueue plain 3 []) ∨ s = emptied3 → (s.focus { ctx := 1, vc := 0, th := 0 }).hwRead 0x20000018000 64 = some (blockBytes 2 0 1 0 1) := by
    rintro s (rfl | rfl) <;> exact page_read (off := 0x8000) 64 (by omega) (by decide +kernel) (by decide +kernel) (by decide +kernel)
  refine ⟨⟨fun x h => ?_, fun x h c hc => ?_, fun h => ?_⟩, by decide +kernel⟩
  · rw [(by decide +kernel : SMap.find demo.queues 127 = none)] at h; cases h
  · rw [(by decide +kernel : SMap.find emptied3.queues 3 = some { slot0 [] with tail := 0 })] at h
    obtain rfl := Option.some.inj h
    obtain rfl := Option.some.inj ((by decide +kernel : emptied3.ctxAt 1 = some context).symm.trans hc)
    exact ⟨rfl, by decide +kernel, _, r _ (.inr rfl), by decide +kernel⟩
  · obtain ⟨bs, hb, ht⟩ := (h (slot0 []) (by decide +kernel) context (by decide +kernel)).2.2
    obtain rfl := Option.some.inj ((r _ (.inl rfl)).symm.trans hb)
    exact absurd ht (by decide +kernel)
/-- A block that has been stalled since its kick, with a packet that was read. -/
theorem witness_stalled_packet :
    let s := poke (withQueue plain 3 []) 0x318000 (blockBytes 1 0 1 0 1)
    SMap.find s.queues 3 = some (slot0 []) ∧ s.ctxAt 1 = some context ∧ context.runs = true ∧ BlockStalled (blockBytes 1 0 1 0 1) (slot0 []).tail ∧
    (slot0 []).tail ≠ fld (blockBytes 1 0 1 0 1) 24 8 ∧ ∀ w ∈ (slot0 []).waits, w.blocks = false := by
  unfold BlockStalled; decide +kernel
theorem witness_stalled_block :
    (s : State) → s = (poke (withQueue plain 3 []) 0x318000 (blockBytes 1 0 1 0 1)).focus { ctx := 1, vc := 0, th := 0 } →
    s.hwRead 0x20000018000 64 = some (blockBytes 1 0 1 0 1) := by
  rintro s rfl
  exact page_read (off := 0x8000) 64 (by omega) (by decide +kernel) (by decide +kernel) (by decide +kernel)

/-- Packet k of the only slot of a state. -/
theorem ready_of {s0 s : State} {q : Nat} {x : LQueue} {bs pk : List Byte} (h1 : SMap.find s0.queues q = some x) (h2 : ∃ c, s0.ctxAt x.ctx = some c ∧ c.runs = true)
    (h3 : s = s0.focus { ctx := x.ctx, vc := 0, th := 0 }) (h4 : s.hwRead x.block 64 = some bs) (h5 : ¬BlockStalled bs x.tail) (h6 : ∀ w ∈ x.waits, w.blocks = false)
    (h7 : fld bs 24 8 < x.tail) (h8 : s.hwRead (fld bs 0 8 + 64 * (fld bs 24 8 % fld bs 8 4)) 64 = some pk) : PacketReady s0 q x s bs pk :=
  ⟨h1, h2, h3, h4, h5, h6, h7, h8⟩

theorem witness_ready_launch : PacketReady (withQueue plain 3 []) 3 (slot0 []) (withQueue plain 3 []) (blockBytes 2 0 1 0 1) plain :=
  ready_of (by decide +kernel) ⟨context, by decide +kernel, by decide +kernel⟩ (focus_demo _ (by decide +kernel))
    (page_read (off := 0x8000) 64 (by omega) (by decide +kernel) (by decide +kernel) (by decide +kernel)) (by unfold BlockStalled; decide +kernel)
    (by decide +kernel) (by decide +kernel) (page_read (off := 0x8400) 64 (by omega) (by decide +kernel) (by decide +kernel) (by decide +kernel))
theorem witness_ready_loadref : PacketReady (withQueue (otherBytes 2 7) 3 []) 3 (slot0 []) (withQueue (otherBytes 2 7) 3 []) (blockBytes 2 0 1 0 1) (otherBytes 2 7) :=
  ready_of (by decide +kernel) ⟨context, by decide +kernel, by decide +kernel⟩ (focus_demo _ (by decide +kernel))
    (page_read (off := 0x8000) 64 (by omega) (by decide +kernel) (by decide +kernel) (by decide +kernel)) (by unfold BlockStalled; decide +kernel)
    (by decide +kernel) (by decide +kernel) (page_read (off := 0x8400) 64 (by omega) (by decide +kernel) (by decide +kernel) (by decide +kernel))
theorem witness_ready_unload : PacketReady (withQueue (otherBytes 3 7) 3 []) 3 (slot0 []) (withQueue (otherBytes 3 7) 3 []) (blockBytes 2 0 1 0 1) (otherBytes 3 7) :=
  ready_of (by decide +kernel) ⟨context, by decide +kernel, by decide +kernel⟩ (focus_demo _ (by decide +kernel))
    (page_read (off := 0x8000) 64 (by omega) (by decide +kernel) (by decide +kernel) (by decide +kernel)) (by unfold BlockStalled; decide +kernel)
    (by decide +kernel) (by decide +kernel) (page_read (off := 0x8400) 64 (by omega) (by decide +kernel) (by decide +kernel) (by decide +kernel))
theorem witness_ready_marker : PacketReady (withQueue (otherBytes 4 0) 3 []) 3 (slot0 []) (withQueue (otherBytes 4 0) 3 []) (blockBytes 2 0 1 0 1) (otherBytes 4 0) :=
  ready_of (by decide +kernel) ⟨context, by decide +kernel, by decide +kernel⟩ (focus_demo _ (by decide +kernel))
    (page_read (off := 0x8000) 64 (by omega) (by decide +kernel) (by decide +kernel) (by decide +kernel)) (by unfold BlockStalled; decide +kernel)
    (by decide +kernel) (by decide +kernel) (page_read (off := 0x8400) 64 (by omega) (by decide +kernel) (by decide +kernel) (by decide +kernel))

theorem witness_launch_packets :
    (¬PacketBad plain ∧ PacketBad (launchBytes 128 7 1 1 0 16 placeVa) ∧ PacketBad (plain.take 36 ++ leBytes 4 1 ++ plain.drop 40) ∧
      PacketBad (otherBytes 2 7 |>.set 8 1) ∧ PacketBad ((otherBytes 4 7)) ∧ ¬PacketBad (otherBytes 4 0) ∧ ¬PacketBad (otherBytes 3 7)) ∧
    (8 ∉ (slot0 []).refs ∧ 7 ∈ (slot0 []).refs ∧ (∀ o ∈ { context with objects := [] }.objects, o.handle ≠ 7) ∧
      context.objects.find? (fun o => decide (o.handle = 7)) = some obj) ∧
    (¬LaunchBad demo obj plain ∧ LaunchBad demo obj (launchBytes 0 7 0 1 0 16 placeVa) ∧ LaunchBad demo obj (launchBytes 0 7 2 1 0 16 placeVa)) ∧
    (LaunchBad demo obj (launchBytes 0 7 1 0 0 16 placeVa) ∧ LaunchBad demo obj (launchBytes 0 7 1 4097 0 16 placeVa) ∧
      LaunchBad demo obj (launchBytes 0 7 1 1 0 16 8)) ∧
    (LaunchBad demo obj (launchBytes 0 7 1 1 8 16 placeVa) ∧ LaunchBad demo obj (launchBytes 0 7 1 1 0x7F10 16 placeVa) ∧
      ¬LaunchBad demo obj (launchBytes 0 7 1 1 0x7F00 16 placeVa)) ∧
    (¬Idle demo 0 ∧ Idle demo 3 ∧ RootsFit demo obj plain ∧ RootsFit demo obj serial ∧ ¬RootsFit (demoV fun v => { v with deque := List.replicate 1024 ⟨task, 1, 0, 0, 0, 0, none⟩ }) obj plain) ∧
    (let p := packetOf (some obj) 0 serial
     (slot0 [.serial p]).waits = [] ++ .serial p :: [] ∧ context.runs = true ∧ (withQueue serial 3 []).ctxAt 1 = some context) := by
  refine ⟨⟨?_, ?_, ?_, ?_, ?_, ?_, ?_⟩, by decide +kernel, ⟨?_, ?_, ?_⟩, ⟨?_, ?_, ?_⟩, ⟨?_, ?_, ?_⟩, ⟨?_, ?_, ?_, ?_, ?_⟩, by decide +kernel⟩
  all_goals first | (unfold PacketBad; decide +kernel) | (unfold LaunchBad; decide +kernel) | (unfold Idle; decide +kernel) | (unfold RootsFit; decide +kernel)

theorem witness_references :
    ((∃ o ∈ demo.ctx.objects, o.handle = 7) ∧ ¬∃ o ∈ demo.ctx.objects, o.handle = 8) ∧
    ((slot0 [.marker 0x20000018800 1 [9]]).waits = [] ++ .marker 0x20000018800 1 [9] :: [] ∧ LaunchesDone demo [9] ∧ ¬LaunchesDone demo [1]) ∧
    ((slot0 [.unload 7 0x20000018800 1]).waits = [] ++ .unload 7 0x20000018800 1 :: [] ∧ context.halted = false ∧ context.preempt ≠ .saved) ∧
    ((∃ e ∈ context.launches, e.2.queue = 0 ∧ e.2.join ≠ 0) ∧ ∀ e ∈ context.launches, e.2.queue = 3 → e.2.join = 0) ∧
    (∀ e ∈ [((3 : Nat), { slot0 [] with refs := [] })], e.2.ctx = 1 → 7 ∉ e.2.refs) := by
  refine ⟨by decide +kernel, ⟨by decide +kernel, ?_, ?_⟩, by decide +kernel, by decide +kernel, by decide +kernel⟩
  · intro i hi l h
    simp only [List.mem_singleton] at hi; subst hi
    rw [(by decide +kernel : SMap.find demo.ctx.launches 9 = none)] at h; cases h
  · intro h
    exact absurd (h 1 (by decide) launch (by decide +kernel)) (by decide)

/-- A free thread; station 2 with one record that may fire, with one that waits while the deque has more; a parked firing. -/
def waitingAt (since : Nat) : Station := { launch := 1, code := placeVa, recs := [⟨task, 1, 0, 0, since, since, none⟩], expired := false }
def freeAt (x : Station) (ps : List ParkSlot) (n : Nat) : State :=
  { demo with
    thr := Thread.fresh 0
    vc := { core with stations := (List.replicate 16 Station.empty).set 2 x, parks := ps }
    req := { demo.req with n := n } }
def parkedFiring : ParkSlot := ⟨{ thr with status := .free }, 0⟩
def gatherOut : State := { (demoC fun c => { c with gather := 0 }) with vc := { core with stations := [waitingAt 0] } }

/-- R327: the first registers of a firing of one record. -/
theorem test_firing :
    let t := (nextOf (exec .stationFire (freeAt (waitingAt 0) [] 2))).thr
    t.apc = BitVec.ofNat 64 placeVa ∧ t.getS 1 = BitVec.ofNat 64 placeVa ∧ t.getS 2 = 1 ∧ t.getS 3 = 0x20000010000 ∧ t.getM 0 = 1 ∧
      (t.getV 1).lane 0 = 5 := by decide +kernel

/-- R310: the record and the launch of a packet's only root, keyed by KEY. -/
theorem test_root : (rootsOf obj plain).map (fun t => (t.code, t.frame, t.key, t.join)) = [(placeVa, 0, 5, 0xFFFFFFFE)] ∧ (launchFrom 3 plain).join = 1 := by
  decide +kernel

theorem witness_firings :
    ((here (freeAt (waitingAt 0) [] 2)).vc.stations[2]? = some (waitingAt 0) ∧ (here (freeAt (waitingAt 0) [parkedFiring] 0)).vc.parks[0]? = some parkedFiring) ∧
    (MayTake (here (freeAt (waitingAt 0) [] 2)) ∧ MayTake (here (freeAt (waitingAt 0) [parkedFiring] 0)) ∧ ¬MayTake (here demo)) ∧
    (CanFire (here (freeAt (waitingAt 0) [] 2)) (waitingAt 0) ∧ ¬CanFire demo Station.empty ∧ CanFire demo { waitingAt 0 with expired := true }) ∧
    (First (here (freeAt (waitingAt 0) [] 2)) (effective (here (freeAt (waitingAt 0) [] 2)) 1 (oldest (waitingAt 0))) (oldest (waitingAt 0)) ∧
      First (here (freeAt Station.empty [parkedFiring] 0)) (effective (here (freeAt Station.empty [parkedFiring] 0)) 1 0) 0 ∧
      ¬First (here (freeAt (waitingAt 0) [parkedFiring] 0)) (effective (here (freeAt (waitingAt 0) [parkedFiring] 0)) 9 0) 0) ∧
    ((here gatherOut).vc.stations[0]? = some (waitingAt 0) ∧ (here gatherOut).ctx.runs = true ∧ (here gatherOut).ctx.hasVc (here gatherOut).vc.id = true ∧
      ∃ r ∈ (waitingAt 0).recs, (here gatherOut).ctx.gather.toNat ≤ (here gatherOut).now - r.entered) := by
  refine ⟨by decide +kernel, ⟨?_, ?_, ?_⟩, ⟨?_, ?_, ?_⟩, ⟨?_, ?_, ?_⟩, by decide +kernel⟩
  all_goals first | (unfold MayTake; decide +kernel) | (unfold CanFire; decide +kernel) | (unfold First CanFire; decide +kernel)

/-- Deques with few records on chip, with many, with some in the spill area. -/
def spillRec (k : Option Nat) : DRec := ⟨task, 1, 0, 0, 0, 0, k⟩
def longDeque (n : Nat) : VCore := { core with deque := List.replicate n (spillRec none), spillBase := 0x20000018000 }
theorem witness_records :
    (task.bytes.length = 32 ∧ fld task.bytes 0 8 / 2 ^ 57 % 8 = 0 ∧ fld task.bytes 0 8 % 32 = 0) ∧
    ((512 < (longDeque 600).onChip.length ∧ (longDeque 600).onChip.length ≤ 1024) ∧ ({ core with deque := [spillRec (some 1), spillRec none] }).onChip.length ≤ 512) ∧
    (((longDeque 3).deque.map DRec.group).Pairwise (· ≤ ·)) ∧
    (∃ y, ((demo.onVc 0 fun v => ((id v).respill demo.ctx.spillsize.toNat).gather demo.ctx.spillsize.toNat (demo.nowOf 0)).vcAt 0) = some y ∧ demo.vcAt 0 = some core) := by
  exact ⟨by decide +kernel, by decide +kernel, by decide +kernel, _, rfl, by decide +kernel⟩
theorem witness_spill :
    (1024 < (longDeque 1030).onChip.length ∧ (longDeque 1030).spillBase ≠ 0 ∧ (longDeque 1030).deque.length ≤ 1024 + 8) ∧
    (longDeque 1030).slots = [] := by decide +kernel

/-- An idle core that serves queue 0 with a record, and one beside a core with records of domains 0 and 3. -/
def idleCore (qs : SMap (List DRec)) (v : VCore) : State :=
  { (poke demo 0x318000 queueEntry) with
    ctx := { duoCtx with queued := qs, vcores := [(0, { core with threads := [] }), (1, v)] }
    vc := { core with threads := [] }
    thr := Thread.fresh 0
    req := { demo.req with n := 1 } }
def domainRec (d : Nat) : DRec := ⟨task, 1, d, 0, 0, 0, none⟩
theorem witness_look_for_work :
    (let s := (idleCore [(0, [domainRec 0])] other).focus { (idleCore [] other).req.t with th := 0 }
     (s.ctx.runs = true ∧ s.ctx.preempt = .none ∧ s.ctx.hasVc s.vc.id = true ∧ s.anyFree = true ∧ s.vc.deque = [] ∧ ∀ x ∈ s.vc.stations, x.recs = []) ∧
     s.servedQueue = some (0, qentOf queueEntry) ∧ s.ctx.queue 0 = domainRec 0 :: []) ∧
    (let v := { other with deque := [domainRec 0, domainRec 3] }
     let s := (idleCore [] v).focus { (idleCore [] v).req.t with th := 0 }
     s.servedQueue = none ∧ (1 ≠ s.vc.id ∧ SMap.find s.ctx.vcores 1 = some v ∧ v.deque = [domainRec 0] ++ domainRec 3 :: [] ∧
       (∀ x ∈ [domainRec 0], sameDomain x.domain v.phys s.vc.phys = false) ∧ sameDomain 3 v.phys s.vc.phys = true)) := by decide +kernel
/-- The core serves queue 0 and its record may run there, or, without a record for it, its own number is asked. -/
theorem witness_serves :
    let s := (idleCore [(0, [domainRec 0])] other).focus { (idleCore [] other).req.t with th := 0 }
    Serves s 0 queueEntry ∧ (s.ctx.queued.filter fun e => !e.2.isEmpty).map Prod.fst = [] ++ 0 :: [] ∧ s.ctx.queue 0 = domainRec 0 :: [] ∧
    MayRunHere s (domainRec 0) ∧ ¬MayRunHere s { domainRec 0 with launch := 4 } := by
  refine ⟨⟨page_read (off := 0x8000) 64 (by omega) (by decide +kernel) (by decide +kernel) (by decide +kernel), by decide +kernel, by decide +kernel, domainRec 0, [], by decide +kernel,
      { launch with nv := 2 }, by decide +kernel, by decide +kernel⟩, by decide +kernel, by decide +kernel, ⟨{ launch with nv := 2 }, by decide +kernel, by decide +kernel⟩, ?_⟩
  rintro ⟨l, h, -⟩
  rw [(by decide +kernel : SMap.find ((idleCore [(0, [domainRec 0])] other).focus { (idleCore [] other).req.t with th := 0 }).ctx.launches 4 = none)] at h
  cases h

/-! ### Objects and requests -/

/-- An object of an image table, a string table and a code section of one NOP, for a native image of generation 4. -/
def secEntry (kind flags off size align link info : Nat) : List Byte :=
  leBytes 4 kind ++ leBytes 4 flags ++ leBytes 8 off ++ leBytes 8 size ++ leBytes 8 0 ++ leBytes 4 align ++ leBytes 4 link ++ leBytes 4 0 ++ leBytes 4 info
def objFile (magic gen filesize : Nat) : List Byte :=
  leBytes 4 magic ++ leBytes 2 1 ++ leBytes 2 64 ++ leBytes 4 gen ++ leBytes 4 0 ++ leBytes 4 3 ++ leBytes 4 64 ++ leBytes 4 48 ++ leBytes 4 1 ++
    leBytes 8 filesize ++ leBytes 24 0 ++ secEntry 11 0 208 16 0 0 255 ++ secEntry 8 0 208 0 0 0 255 ++ secEntry 1 3 224 8 5 0 0 ++
    (leBytes 1 0 ++ leBytes 1 4 ++ leBytes 14 0) ++ leBytes 8 8
def loading (file : List Byte) (at_ : Nat) : State := { demo with req := { demo.req with l1 := file.map BitVec.toNat, l2 := [at_] } }
def goodFile : List Byte := objFile 0x014F4E5A 4 232

def loadFocus (s : State) : State := s.focus { s.req.t with th := 0 }
def goodLoad : State := loadFocus (loading goodFile 0x20000001000)

theorem witness_object_loading :
    (demo.ctxAt 1 = some context ∧ ({ demo with req := { demo.req with t := ⟨9, 0, 0⟩ } } : State).ctxAt 9 = none ∧ context.killed = false ∧ context.preempt ≠ .saved) ∧
    (HeaderBad (fileOf (loading (objFile 0x014F4E5B 4 232) 0)) ∧ ¬HeaderBad (fileOf (loading goodFile 0)) ∧ HeaderBad (goodFile.take 63)) ∧
    (GenerationBad (objFile 0x014F4E5A 0 232) ∧ GenerationBad (objFile 0x014F4E5A 5 232) ∧ ¬GenerationBad goodFile ∧ ¬HeaderBad (objFile 0x014F4E5A 5 232)) ∧
    (TableBad (objFile 0x014F4E5A 4 231) ∧ ¬GenerationBad (objFile 0x014F4E5A 4 231) ∧ ¬HeaderBad (objFile 0x014F4E5A 4 231) ∧ ¬TableBad goodFile) := by
  refine ⟨by decide +kernel, ⟨?_, ?_, ?_⟩, ⟨?_, ?_, ?_, ?_⟩, ?_, ?_, ?_, ?_⟩
  all_goals first | (unfold HeaderBad; decide +kernel) | (unfold GenerationBad; decide +kernel) | (unfold TableBad; decide +kernel)

/-- The three sections of the file, sound ones, one that a reserved flag spoils, one of an unknown type that must be understood. -/
def goodSecs : List Sec := fileSecs goodFile
def spoiltSec : Sec := { secOf [] 0 [] with kind := 1, flags := 2, align := 2 }
theorem sec_sound {n : Nat} {secs : List Sec} {x : Sec} (h : x.flags % 8 = (if x.kind = 1 then 3 else if x.kind = 2 ∨ x.kind = 5 ∨ x.kind = 6 then 1 else
      if x.kind = 3 ∨ x.kind = 4 then 5 else 0)) (h1 : x.flags < 8) (h2 : x.offset + x.size ≤ n) (h3 : x.align ≤ 30) (h4 : x.address = 0)
    (h5 : x.kind ≠ 9 ∧ x.kind ≠ 7) (h6 : x.link = 0 ∧ x.info < 256) : ¬SecBad n secs x := by
  have no : x.flags.testBit 4 = false := Nat.testBit_lt_two_pow (h1.trans (by decide))
  rintro (k | k | ⟨k, -⟩ | ⟨-, k⟩ | k | ⟨k, -⟩ | ⟨-, k⟩ | ⟨k, -⟩ | ⟨k, -⟩ | ⟨-, -, k | k⟩) <;> first | omega | simp [no] at k
theorem witness_sections :
    (∀ x ∈ goodSecs, ∀ n, ¬SecFails goodFile x n) ∧ SecBad 8 [spoiltSec] spoiltSec ∧
    (¬(1 ≤ (14 : Nat) ∧ 14 ≤ 13) ∧ (8 : Nat).testBit 3 = true) ∧
    ¬NamesBad goodFile ∧ IsAt goodSecs 1 8 ∧ (∃ n, notesOf [{ spoiltSec with kind := 10, body := [1] }] = .error n) := by
  have at1 : IsAt goodSecs 1 8 := ⟨_, rfl, by decide +kernel⟩
  refine ⟨fun x hx n h => ?_, .inl (by decide), by decide, ?_, at1, ⟨3, by decide +kernel⟩⟩
  · have k : ∀ x ∈ goodSecs, (1 ≤ x.kind ∧ x.kind ≤ 13) ∧ x.flags % 8 = (if x.kind = 1 then 3 else if x.kind = 2 ∨ x.kind = 5 ∨ x.kind = 6 then 1 else
        if x.kind = 3 ∨ x.kind = 4 then 5 else 0) ∧ x.flags < 8 ∧ x.offset + x.size ≤ goodFile.length ∧ x.align ≤ 30 ∧ x.address = 0 ∧
        (x.kind ≠ 9 ∧ x.kind ≠ 7) ∧ x.link = 0 ∧ x.info < 256 := by decide +kernel
    obtain ⟨k0, k1, k2, k3, k4, k5, k6, k7⟩ := k x hx
    rcases h with ⟨-, h, -⟩ | ⟨h, -⟩
    · exact sec_sound k1 k2 k3 k4 k5 k6 k7 h
    · exact h k0
  · rintro (h | h)
    · exact h (by rw [(by decide +kernel : fld goodFile 28 4 = 1)]; exact at1)
    · exact absurd (by decide +kernel) h

/-- The load of that file at a page of code: every check of R91 passes. -/
def goodImage : ObjImage := ⟨0, 0, 4, 0, 0⟩
def goodFar : List Place := farPlaces goodImage goodSecs [0x20000001000]
theorem witness_good_load :
    (fileOf (loading goodFile 0x20000001000) = goodFile ∧ notesOf goodSecs = .ok ⟨[], 0⟩ ∧ selectImage (featuresOf goodLoad) (imagesOf goodFile) = .ok goodImage) ∧
    (poolOf goodImage goodSecs = .ok none ∧ profileCheck goodImage goodSecs (symbolsOf goodImage goodSecs) = .ok () ∧ nearPlaces goodImage goodSecs = []) ∧
    (goodFar.map fun p => (p.addr, p.lsize, p.sec.kind, p.sec.size, p.sec.align)) = [(0x20000001000, 12, 1, 8, 5)] := by decide +kernel
theorem witness_good_tables : ¬(HandlersBad goodImage goodSecs ∨ SymtabBad goodImage goodSecs) ∧ ¬NearMeets context [] := by
  refine ⟨?_, ?_⟩
  · rintro ((⟨x, hx, -, h, -⟩ | h) | ⟨x, hx, -, h, -⟩)
    · exact (by decide +kernel : ∀ x ∈ goodSecs, x.kind ≠ 12) x hx h
    · exact h (by decide +kernel)
    · exact (by decide +kernel : ∀ x ∈ goodSecs, x.kind ≠ 7) x hx h
  · rintro ⟨p, h, -⟩; cases h
theorem witness_good_place : ∀ p ∈ goodFar, PlaceOk goodLoad p := by
  have k : ∀ p ∈ goodFar, p.addr = 0x20000001000 ∧ p.lsize = 12 ∧ p.sec.kind = 1 ∧ p.sec.size = 8 ∧ p.sec.align = 5 := by decide +kernel
  intro p hp
  obtain ⟨h1, h2, h3, h4, h5⟩ := k p hp
  unfold PlaceOk
  rw [h1, h2, h3, h4, h5]
  refine ⟨by decide, by decide, by decide, by decide, by decide, ?_, fun n hn => ?_⟩
  · unfold Share; decide +kernel
  · obtain rfl : n = 0 := by omega
    exact ⟨⟨placePte 0, 5, placeRoot + 0x4000, by decide +kernel, by decide +kernel, by decide, by decide⟩, ok_of (by decide +kernel)⟩
theorem witness_good_holdings :
    (∃ x, Ctx.addHoldings false (goodFar.map (placedHolding goodLoad.ctx (eagerOf goodFile))) goodLoad.ctx = some x ∧ Ctx.addHoldings true (nearHoldings goodLoad.ctx []) x.1 = some (x.1, [])) ∧
    Ctx.addHoldings false [{ base := 0x20000010000, lsize := 12, cls := .sealed, holder := 0x30000, inflight := none }] context = none ∧
    (∃ ps, relocate (linkEnv goodLoad goodFile) (relocsOf goodImage goodSecs) (goodFar ++ [] ++ handlerPlaces goodImage goodSecs) = .ok ps) := by
  obtain ⟨x, h⟩ := Option.isSome_iff_exists.mp (by decide +kernel :
    (Ctx.addHoldings false (goodFar.map (placedHolding goodLoad.ctx (eagerOf goodFile))) goodLoad.ctx).isSome = true)
  refine ⟨⟨x, h, ?_⟩, by decide +kernel, ok_of (by decide +kernel)⟩
  rw [(by decide +kernel : nearHoldings goodLoad.ctx [] = [])]; rfl
/-- Tables that a load refuses; near memory that two objects want. -/
def wantsNear : Ctx := { context with objects := [{ obj with nears := [(0x100, 16)] }] }
def nearPlace (size : Nat) : Place := ⟨{ spoiltSec with kind := 3, flags := 0x15, size := size }, 0x108, 12, []⟩
theorem witness_bad_tables :
    HandlersBad goodImage [{ spoiltSec with kind := 12, info := 255, body := [1] }] ∧
    HandlersBad goodImage [{ spoiltSec with kind := 12, info := 255, body := leBytes 4 1 ++ leBytes 12 0 ++ leBytes 4 1 ++ leBytes 12 0 }] ∧
    SymtabBad goodImage [{ spoiltSec with kind := 7, body := [1] }] ∧ NearMeets wantsNear [nearPlace 8] ∧ ¬NearMeets wantsNear [nearPlace 0] ∧
    (∃ n, profileCheck ⟨0, 1, 1, 0, 0⟩ [{ spoiltSec with body := List.replicate 16 0 }] [⟨[], 0, 0, 1, 3⟩] = .error n) := by
  refine ⟨.inl ⟨_, List.mem_cons_self, by unfold Ours; decide, by decide⟩, .inr (by decide), ⟨_, List.mem_cons_self, by unfold Ours; decide, by decide⟩,
    ⟨nearPlace 8, List.mem_cons_self, by decide, { obj with nears := [(0x100, 16)] }, List.mem_cons_self, (0x100, 16), List.mem_cons_self, by decide, by unfold Share; decide⟩, ?_,
    ⟨9, by decide +kernel⟩⟩
  rintro ⟨p, h, k, -⟩
  obtain rfl := List.mem_singleton.mp h
  exact k rfl

/-- Notes: a build-id, one that is broken, one that names a firmware that is too new, an unknown one that must be understood. -/
def note (type flags size : Nat) (bs : List Byte) : List Byte := leBytes 4 type ++ leBytes 4 flags ++ leBytes 4 size ++ leBytes 4 0 ++ bs
theorem witness_notes :
    (NoteFails (note 2 0 0 []) 3 ∧ NoteFails (note 1 2 0 []) 3 ∧ NoteFails (note 3 0 8 (leBytes 8 0)) 3 ∧ NoteFails (note 9 1 0 []) 5) ∧
    (∀ n, ¬NoteFails (note 3 0 4 (leBytes 8 64)) n) ∧ (noted (note 3 0 4 (leBytes 8 64)) ⟨[], 0⟩).spillMin = 64 := by
  refine ⟨⟨?_, ?_, ?_, ?_⟩, fun n h => ?_, by decide +kernel⟩
  · exact .inr ⟨by unfold noteSize; decide +kernel, .inl (by decide +kernel)⟩
  · exact .inl ⟨by decide +kernel, rfl⟩
  · exact .inr ⟨by unfold noteSize; decide +kernel, .inr (.inl (by decide +kernel))⟩
  · exact .inr ⟨by unfold noteSize; decide +kernel, .inr (.inr (.inr (by decide +kernel)))⟩
  · rcases h with ⟨h, -⟩ | ⟨-, ⟨h, -⟩ | ⟨-, h, -⟩ | ⟨h, -⟩ | ⟨-, h, -⟩⟩ <;> revert h <;> (try unfold noteSize) <;> decide +kernel

/-- Image tables: a native image, a portable one, both, two portable ones, one of a generation to come. -/
def imageBytes (kind gen pref : Nat) : List Byte := leBytes 1 kind ++ leBytes 1 gen ++ leBytes 2 pref ++ leBytes 12 0
theorem witness_images :
    (¬ImagesBad (imageBytes 0 4 0) ∧ ImagesBad (imageBytes 2 4 0) ∧ ImagesBad [1] ∧ ImagesBad (imageBytes 1 4 0 ++ imageBytes 1 4 0)) ∧
    (Usable 1023 (objImage (imageBytes 0 4 0) 0) ∧ ¬Usable 1023 (objImage (imageBytes 0 5 0) 0) ∧ (objImage (imageBytes 0 5 0) 0).kind ≠ 1 ∧
      selectImage 1023 (imageBytes 0 5 0) = .error 6) ∧
    (selectImage 1023 (imageBytes 0 4 0 ++ imageBytes 0 4 7) = .ok (objImage (imageBytes 0 4 0 ++ imageBytes 0 4 7) 1) ∧
      selectImage 1023 (imageBytes 1 4 0) = .ok (objImage (imageBytes 1 4 0) 0)) := by
  refine ⟨⟨?_, .inr (.inl ⟨0, by decide +kernel⟩), .inl (by decide), .inr (.inr ⟨0, 1, by decide +kernel⟩)⟩, ⟨?_, ?_, by decide +kernel, by decide +kernel⟩, by decide +kernel⟩
  · rintro (h | ⟨i, hi, h⟩ | ⟨i, j, hij, hj, -⟩)
    · exact h (by decide +kernel)
    · obtain rfl : i = 0 := by
        have l : (imageBytes 0 4 0).length / 16 = 1 := by decide
        omega
      revert h; decide +kernel
    · have l : (imageBytes 0 4 0).length / 16 = 1 := by decide
      omega
  · refine ⟨by decide +kernel, by decide +kernel, fun b _ => ?_⟩
    rw [(by decide +kernel : (objImage (imageBytes 0 4 0) 0).features = 0)]; exact Nat.zero_testBit b
  · intro h; exact absurd h.2.1 (by decide +kernel)
/-- Pools: none, one, one of 128 KiB and 32 bytes, two. -/
def poolSec (n info : Nat) : Sec := { spoiltSec with kind := 5, flags := 1, size := n, info := info }
theorem witness_pools :
    (poolOf goodImage [] = .ok none ∧ poolOf goodImage [poolSec 131072 255] = .ok (some (poolSec 131072 255)) ∧ poolOf goodImage [poolSec 131104 0] = .error 3) ∧
    poolOf goodImage [poolSec 32 0, poolSec 32 0] = .error 3 := by decide +kernel

/-- Places and holdings: of near data and near bss, of a section inside a page and of one across two pages. -/
def farPlace (addr n : Nat) : Place := ⟨{ spoiltSec with kind := 2, flags := 1, size := n }, addr, 17, List.replicate n 7⟩
theorem witness_placement :
    ((farPlace 0x20000018000 8).bytes ≠ [] ∧ 0x20000018000 % 65536 + (farPlace 0x20000018000 8).bytes.length ≤ 65536 ∧ goodLoad.hwAddr 0x20000018000 = .ok 0x318000) ∧
    65536 < 0x2000001FFFC % 65536 + (farPlace 0x2000001FFFC 8).bytes.length ∧ goodLoad.hwAddr 0x2000001FFFC = .ok 0x31FFFC ∧
    ((nearPlace 8).sec.kind = 3 ∧ (nearPlace 8).sec.flags.testBit 0 = true ∧ (nearPlace 8).sec.flags.testBit 4 = true ∧ Memory.wf goodLoad.mem) ∧
    (SMap.find context.holdings 3 = none ∧ ∀ j, j < 3 → SMap.find context.holdings j ≠ none) ∧
    (∀ e ∈ context.holdings, ¬Share 0x1000000 (2 ^ 12) e.2.base (2 ^ e.2.lsize)) := by
  refine ⟨by decide +kernel, by decide +kernel, by decide +kernel, by decide +kernel, by decide +kernel, ?_⟩
  unfold Share; decide +kernel

/-- A symbol table with a defined, an absolute and an undefined symbol, and a linkage section to be filled. -/
def symEntry (name sec value bind kind : Nat) : List Byte := leBytes 4 name ++ leBytes 4 sec ++ leBytes 8 value ++ leBytes 4 0 ++ leBytes 1 bind ++ leBytes 1 kind ++ leBytes 2 0
def symTable : List Byte := symEntry 1 0xFFFFFFFE 9 1 0 ++ symEntry 1 0xFFFFFFFF 0 1 1 ++ symEntry 1 2 8 1 1
def symSecs : List Sec := [{ secOf [] 0 [] with index := 0, kind := 8, body := leBytes 3 0x6100 }, { secOf [] 0 [] with index := 1, kind := 7, link := 0, body := symTable }]
def linkPlace : Place := { sec := { secOf [] 0 [] with index := 2, kind := 6, size := 32 }, addr := 0x20000000000, lsize := 12, bytes := List.replicate 32 0 }
def linkEnv1 (eager : Bool) : LinkEnv := ⟨symSecs, [⟨[0x61], 0x500, 1⟩], 0x20000000040, eager⟩
def linkRel (off sym kind : Nat) : Reloc := { sec := 2, off := off, addend := 0, sym := sym, kind := kind, reserved := 0, tab := 1 }
theorem witness_linking :
    ((secAt symSecs 1).body.length / 24 = 3 ∧ [linkPlace].find? (fun p => decide (p.sec.index = 2)) = some linkPlace ∧ ∀ p ∈ [linkPlace], p.sec.index ≠ 4) ∧
    ((rawSym symSecs (secAt symSecs 1) 0).sec = 0xFFFFFFFE ∧ (rawSym symSecs (secAt symSecs 1) 1).sec = 0xFFFFFFFF ∧ (rawSym symSecs (secAt symSecs 1) 2).sec = 2) ∧
    (symValue [linkPlace] (linkEnv1 true).globals (rawSym symSecs (secAt symSecs 1) 1) = .ok (some (0x500, 1)) ∧
      symValue [linkPlace] [] (rawSym symSecs (secAt symSecs 1) 1) = .ok none ∧
      symValue [linkPlace] [] (rawSym symSecs (secAt symSecs 1) 2) = .ok (some (0x20000000008, 1)) ∧
      symValue [] [] (rawSym symSecs (secAt symSecs 1) 2) = .error 7) ∧
    (relocWrite linkPlace (linkRel 0 0 1) 9 0 = .ok (0, 8, 9) ∧ relocWrite linkPlace (linkRel 0 0 9) 9 0 = .error 7) := by decide +kernel
theorem witness_links_applied :
    (∃ x, applyReloc (linkEnv1 true) [linkPlace] [] (linkRel 0 1 7) = .ok x) ∧ (∃ x, applyReloc (linkEnv1 false) [linkPlace] [] (linkRel 16 1 7) = .ok x) ∧
    (applyReloc (linkEnv1 true) [linkPlace] [] (linkRel 8 1 7) = .error 7 ∧ applyReloc { linkEnv1 true with globals := [] } [linkPlace] [] (linkRel 0 1 7) = .error 8) ∧
    (∃ x, applyAll (linkEnv1 true) [] [linkPlace] [] = .ok x ∧ ∃ z, applyAll (linkEnv1 true) [linkRel 0 1 7] x.1 x.2 = .ok z) ∧
    (∃ n, applyAll (linkEnv1 true) [linkRel 8 1 7] [linkPlace] [] = .error n) := by
  exact ⟨ok_of (by decide +kernel), ok_of (by decide +kernel), by decide +kernel, ⟨_, rfl, ok_of (by decide +kernel)⟩, ⟨7, by decide +kernel⟩⟩

/-- Relocations at offset 0 of a place at 0x20000000000 that holds one word: one that each type accepts, one that it refuses. -/
def placed (kind : Nat) (w0 : Nat) : Place :=
  { sec := { secOf [] 0 [] with kind := kind, size := 32 }, addr := 0x20000000000, lsize := 12, bytes := leBytes 4 w0 ++ leBytes 28 0 }
def rel (kind : Nat) : Reloc := { sec := 0, off := 0, addend := 0, sym := 0, kind := kind, reserved := 0, tab := 0 }
theorem witness_relocations :
    (patchesJ (wordAt (placed 1 128) (rel 2) 0) = true ∧ (sumSAP (placed 1 128) (rel 2) 0x20000000010).toInt % 4 = 0 ∧
      Fits32 ((sumSAP (placed 1 128) (rel 2) 0x20000000010).toInt / 4) ∧ ¬Fits32 ((sumSAP (placed 1 128) (rel 2) 0).toInt / 4)) ∧
    (patchesJ (wordAt (placed 1 (72 + 2048)) (rel 2) 0) = false ∧ isLi 2 (wordAt (placed 1 (72 + 2048)) (rel 2) 0) = true ∧
      Fits32 (sumSAP (placed 1 (72 + 2048)) (rel 2) 0x20000000010).toInt ∧ isLi 2 (wordAt (placed 1 72) (rel 2) 0) = false) ∧
    (patchesM (wordAt (placed 1 256) (rel 3) 0) = true ∧ (sumSA (rel 3) 524287).toInt ≤ 524287 ∧ 524287 < (sumSA (rel 3) 524288).toInt) ∧
    (patchesI (wordAt (placed 1 72) (rel 4) 0) = true ∧ patchesI (wordAt (placed 1 0) (rel 4) 0) = false) ∧
    (isLi 1 (wordAt (placed 1 (72 + 1024)) (rel 5) 0) = true ∧ isLi 1 (wordAt (placed 1 72) (rel 5) 0) = false) ∧
    ((placed 5 0).sec.kind = 5 ∧ (fld (placed 5 0).bytes (0 + 10) 2).testBit 0 = false) := by
  refine ⟨⟨by decide +kernel, by decide +kernel, ?_, ?_⟩, ⟨by decide +kernel, by decide +kernel, ?_, by decide +kernel⟩, by decide +kernel, by decide +kernel,
    by decide +kernel, by decide +kernel⟩
  all_goals (unfold Fits32; decide +kernel)

/-- A request for a context of one core on core n. -/
def params (id n : Nat) : CtxParams := { id := id, nmax := 1, hosts := [9], root := 0x2000, savebase := 0x10000, phys := [n], keys := [5], stub := 0, spills := [], regs := [] }
def creating (id n : Nat) : State := { demo with cores := [(0, PCore.fresh), (1, PCore.fresh)], req := { demo.req with params := params id n } }
theorem witness_contexts :
    (.preempt ∈ contextRequests ∧ NoContext { demo with req := { demo.req with t := ⟨9, 0, 0⟩ } }) ∧
    ((creating 2 1).req.params.phys.head?.bind (fun x => (creating 2 1).partOf (x / 288)) = some 0 ∧
      ({ creating 2 1 with parts := [] } : State).req.params.phys.head?.bind (fun x => ({ creating 2 1 with parts := [] } : State).partOf (x / 288)) = none) ∧
    CreateOk (creating 2 1) (params 2 1) 0 ∧ CreateOk (creating 63 1) (params 63 1) 0 ∧ ¬CreateOk (creating 64 1) (params 64 1) 0 ∧
    ¬CreateOk (creating 1 1) (params 1 1) 0 ∧ ¬CreateOk (creating 2 0) (params 2 0) 0 ∧ (params 2 1).stub = 0 ∧
    (demo.sync.ctxs.map Prod.fst).Pairwise (· < ·) := by
  refine ⟨⟨by decide, ?_⟩, by decide +kernel, ?_, ?_, ?_, ?_, ?_, by decide, by decide +kernel⟩
  · unfold NoContext; decide +kernel
  all_goals (unfold CreateOk; decide +kernel)

/-- A holding at index 5 that R367 allows, at the ends of its ranges; one that overlaps the arena. -/
def want (base lsize cls holder : Nat) : HoldingReq := ⟨base, lsize, cls, holder⟩
theorem witness_context_requests :
    (HoldingOk context 5 (want 0x1000000 12 2 0) .common ∧ HoldingOk context 4095 (want (2 ^ 56 - 2 ^ 40) 40 5 0) .sealed ∧
      HoldingOk context 5 (want 0x1000000 12 0 0x20009) .exclusive) ∧
    ((∀ cls, ¬HoldingOk context 5 (want 0x20000010000 12 2 0) cls) ∧ (∀ cls, ¬HoldingOk context 4096 (want 0x1000000 12 2 0) cls) ∧
      ∀ cls, ¬HoldingOk context 5 (want 0x1000000 12 0 0x2000A) cls) ∧
    ((∃ l ∈ context.launches, l.2.join ≠ 0) ∧ ¬∃ l ∈ { context with launches := [] }.launches, l.2.join ≠ 0) ∧
    (SMap.find context.holdings 5 = none ∧ SMap.find context.holdings 2 ≠ none) ∧
    (let h : Holding := { base := 0x20000018000, lsize := 15, cls := .exclusive, holder := 0x20009, inflight := none }
     h.heldBy (0x20000 + 9) = true ∧ h.heldBy 0 = false) ∧ (NamesAgent context 0 ∧ ¬NamesAgent context 1) ∧ context.killed = false := by
  refine ⟨⟨?_, ?_, ?_⟩, ⟨?_, ?_, ?_⟩, by decide +kernel, by decide +kernel, by decide +kernel, ?_, by decide +kernel⟩
  · unfold HoldingOk Share NamesAgent; decide +kernel
  · unfold HoldingOk Share NamesAgent; decide +kernel
  · unfold HoldingOk Share NamesAgent; decide +kernel
  · intro cls h
    exact (h.2.2.2.2.2.2.2.2.2.1 (1, { base := 0x20000010000, lsize := 15, cls := .frame, holder := 0, inflight := none }) (by decide +kernel)) (by unfold Share; decide)
  · intro cls h; exact absurd h.2.1 (by decide)
  · intro cls h
    have c : cls = .exclusive := by
      have k := h.1; simp [classes, want] at k; exact k
    have k := h.2.2.2.2.2.2.2.2.2.2 (.inl c)
    revert k; unfold NamesAgent; decide +kernel
  · unfold NamesAgent; decide +kernel

/-- A halted context whose stop has been reported, and one that runs; a read, a write, a code page; layouts; key slots. -/
def frozen : State := { demo with ctx := { context with halted := true }, vc := { core with table := some life } }
def logged : State := { frozen with cores := [(0, { PCore.fresh with sliceLog := [⟨0x100, 5, 1, false, false, 9⟩] })], thr := (frozen.thr.setQ 2 [qitem 3 1 true]) }
theorem stopped : Stopped (atCtx logged 1) := by unfold Stopped; decide +kernel
theorem haltedAt : HaltedAt (atCtx logged 1) 0 0 ((atCtx logged 1).focus ⟨(atCtx logged 1).ctx.id, 0, 0⟩) := ⟨stopped, by decide +kernel, by decide, rfl⟩
theorem witness_debug_reads :
    DebugReads (atCtx logged 1) (.readCtl 0 0 5) (placeVa + 0x1000) ∧ DebugReads (atCtx logged 1) (.readPos 0 0 false) placeVa ∧
    DebugReads (atCtx logged 1) (.readPos 0 0 true) placeVa ∧ DebugReads (atCtx logged 1) (.readToken 0 0 1) 0 ∧
    DebugReads (atCtx logged 1) (.readQueue 0 0 2 0 7) 3 ∧ DebugReads (atCtx logged 1) (.readQueueMask 0 0 2 0) 1 ∧
    DebugReads (atCtx logged 1) (.readLink 0 0 4) 0 ∧ DebugReads (atCtx logged 1) (.readRow 0 255) 0 ∧ DebugReads (atCtx logged 1) (.readRowFlags 0 3 2) 0 := by
  refine ⟨⟨_, haltedAt, by unfold IsCtl; decide, by decide +kernel⟩, ⟨_, haltedAt, by decide +kernel⟩, ⟨_, haltedAt, fun p rest h => ?_, fun _ => by decide +kernel⟩,
    ⟨_, haltedAt, by decide +kernel⟩, ⟨_, qitem 3 1 true, haltedAt, by decide +kernel, by decide +kernel⟩, ⟨_, qitem 3 1 true, haltedAt, by decide +kernel, by decide +kernel⟩,
    ⟨_, haltedAt, by decide +kernel⟩, ⟨_, haltedAt, by decide, by decide +kernel⟩, ⟨_, haltedAt, by decide, .inr (.inr ⟨rfl, by decide +kernel⟩)⟩⟩
  rw [(by decide +kernel : ((atCtx logged 1).focus ⟨(atCtx logged 1).ctx.id, 0, 0⟩).thr.ePath = [])] at h; cases h
theorem witness_debug_values :
    DebugReads (atCtx logged 1) (.readLog 0 0 0) (leNat (logBytes ⟨0x100, 5, 1, false, false, 9⟩)) ∧
    DebugReads (atCtx logged 1) (.readS 0 0 1) 0 ∧ DebugReads (atCtx logged 1) (.readV 0 0 1 31) 0 ∧ DebugReads (atCtx logged 1) (.readM 0 0 0) 1 ∧
    DebugReads (atCtx logged 1) (.readNear 0 0x3BFFFF) 0 ∧ DebugReads (atCtx logged 1) (.readAcc 0 255 127) 0 ∧ DebugReads (atCtx logged 1) (.readTable 0 3) 1 := by
  refine ⟨⟨by decide +kernel, .slice, _, by decide, by decide +kernel, rfl⟩, ?_, ?_, ?_, ?_, ?_, ⟨stopped, by decide +kernel, life, 1, by decide +kernel, by decide, by decide⟩⟩ <;>
    refine ⟨stopped, ?_, ?_, ?_⟩ <;> decide +kernel
theorem witness_debug_writes :
    (∃ u, DebugWrites (atCtx logged 1) (.writeCtl 0 0 5 8) u) ∧ (∃ u, DebugWrites (atCtx logged 1) (.writeToken 0 0 1 0 true 40 64) u) ∧
    (∃ u, DebugWrites (atCtx logged 1) (.writeQueue 0 0 2 0 [] 1) u) ∧ (∃ u, DebugWrites (atCtx logged 1) (.writeQueue 0 0 2 1 [] 1) u) ∧
    (∃ u, DebugWrites (atCtx logged 1) (.popQueue 0 0 2) u) ∧ (∃ u, DebugWrites (atCtx logged 1) (.writeLink 0 0 4 0) u) ∧
    (∃ u, DebugWrites (atCtx logged 1) (.writeRow 0 255 1 true false) u) ∧ (∃ u, DebugWrites (atCtx logged 1) (.writeRowFlags 0 3 0 1) u) := by
  obtain ⟨x, hx⟩ := Option.isSome_iff_exists.mp (by decide +kernel : (ctlEntry 5).isSome = true)
  refine ⟨⟨_, _, x, haltedAt, hx, ?_, rfl⟩, ⟨_, _, haltedAt, rfl⟩, ⟨_, _, haltedAt, by decide, by decide, .inl ⟨by decide +kernel, rfl⟩⟩,
    ⟨_, _, haltedAt, by decide, by decide, .inr ⟨by decide +kernel, rfl⟩⟩, ⟨_, _, haltedAt, rfl⟩, ⟨_, _, haltedAt, rfl⟩, ⟨_, _, haltedAt, by decide, rfl⟩,
    ⟨_, _, haltedAt, by decide, .inl ⟨rfl, rfl⟩⟩⟩
  have k : (ctlEntry 5).map Prod.snd ≠ some .hw := by decide +kernel
  rw [hx] at k
  exact fun e => k (congrArg some e)
theorem witness_debug_stores :
    (∃ u, DebugWrites (atCtx logged 1) (.writeS 0 0 1 1) u) ∧ (∃ u, DebugWrites (atCtx logged 1) (.writeV 0 0 1 31 1) u) ∧
    (∃ u, DebugWrites (atCtx logged 1) (.writePos 0 7 8) u) ∧ (∃ u, DebugWrites (atCtx logged 1) (.writeNear 0 0 1) u) ∧
    (∃ u, DebugWrites (atCtx logged 1) (.writeAcc 0 255 127 1) u) ∧ (∃ u, DebugWrites (atCtx logged 1) (.writeTable 0 0 1) u) ∧
    (∃ u, DebugWrites (atCtx demo 1) (.singleStep 0 7 true) u) := by
  exact ⟨⟨_, stopped, by decide +kernel, by decide, rfl⟩, ⟨_, stopped, by decide +kernel, by decide, rfl⟩,
    ⟨_, stopped, by decide +kernel, by decide, rfl⟩, ⟨_, stopped, by decide +kernel, by decide, rfl⟩,
    ⟨_, stopped, by decide +kernel, by decide, by decide, _, rfl, rfl⟩, ⟨_, stopped, by decide +kernel, life, by decide +kernel, rfl⟩,
    ⟨_, by decide +kernel, by decide, rfl⟩⟩
/-- The window table, the holding table, a weight bank, a lane record and the E position of a halted context (R375). -/
def debugBank : Bank := ⟨1, 1, 8, false, false, [[⟨[5, -3], [], 127⟩]]⟩
def banked : State := { logged with vc := { frozen.vc with bank0 := some debugBank }, thr := { logged.thr with lanes := [⟨task, true⟩] } }
theorem bankedAt : HaltedAt (atCtx banked 1) 0 0 ((atCtx banked 1).focus ⟨(atCtx banked 1).ctx.id, 0, 0⟩) :=
  ⟨by unfold Stopped; decide +kernel, by decide +kernel, by decide, rfl⟩
theorem witness_debug_tables :
    DebugReads (atCtx banked 1) (.readWindow 15 1) 0 ∧ DebugReads (atCtx banked 1) (.readBank 0 0 0 0 1) (2 ^ 64 - 3) ∧
    DebugReads (atCtx banked 1) (.readBank 0 0 0 0 32) 127 ∧ DebugReads (atCtx banked 1) (.readLane 0 0 0 4) 1 ∧
    (∃ h code x, SMap.find (atCtx banked 1).ctx.holdings 1 = some h ∧ (code, h.cls) ∈ classes ∧ DebugReads (atCtx banked 1) (.readHolding 1) x) ∧
    (∃ u, DebugWrites (atCtx banked 1) (.writeWindow 0 2 0x20000060000) u) ∧ (∃ u, DebugWrites (atCtx banked 1) (.writeHolding 1 none) u) ∧
    (∃ u, DebugWrites (atCtx banked 1) (.writeBank 0 0 0 0 1 9) u) ∧ (∃ u, DebugWrites (atCtx banked 1) (.writeLane 0 0 0 4 0) u) ∧
    (∃ u, DebugWrites (atCtx banked 1) (.writeEPos 0 0 0x20000000008) u) := by
  have b : BlockAt ((atCtx banked 1).focus ⟨(atCtx banked 1).ctx.id, 0, 0⟩) 0 0 0 debugBank [⟨[5, -3], [], 127⟩] ⟨[5, -3], [], 127⟩ := by
    unfold BlockAt; decide +kernel
  obtain ⟨h, e⟩ := Option.isSome_iff_exists.mp (by decide +kernel : (SMap.find (atCtx banked 1).ctx.holdings 1).isSome = true)
  have c : ∃ code, (code, h.cls) ∈ classes := by
    have k : (SMap.find (atCtx banked 1).ctx.holdings 1).map Holding.cls = some .frame := by decide +kernel
    rw [e] at k
    exact ⟨3, by rw [Option.some.inj k]; decide⟩
  obtain ⟨code, c⟩ := c
  refine ⟨⟨bankedAt.1, by decide, .inr (.inl ⟨rfl, by decide +kernel⟩)⟩, ⟨_, _, _, _, bankedAt, b, .inr ⟨by decide, -3, rfl, by decide⟩⟩,
    ⟨_, _, _, _, bankedAt, b, .inl ⟨rfl, rfl⟩⟩, ⟨_, ⟨task, true⟩, bankedAt, by decide +kernel, .inr ⟨rfl, rfl⟩⟩, ⟨h, code, _, e, c, bankedAt.1, h, code, e, c, rfl⟩,
    ⟨_, bankedAt.1, by decide, _, .inr (.inr (.inl ⟨rfl, rfl⟩)), rfl⟩, ⟨_, bankedAt.1, rfl⟩,
    ⟨_, _, _, _, _, _, bankedAt, b, .inr ⟨by decide, by decide, _, rfl, rfl⟩, rfl⟩,
    ⟨_, _, ⟨task, true⟩, _, bankedAt, by decide +kernel, .inr ⟨rfl, rfl⟩, rfl⟩, ⟨_, _, bankedAt, rfl⟩⟩
theorem witness_debug_code :
    (∃ u, DebugWrites (atCtx demo 1) (.writeCode 0x20000000000 8) u) ∧ (∃ u, DebugWrites (atCtx demo 1) (.watchpoint 3 0x20000010000 3 true false) u) ∧
    (atCtx demo 1).ctx.halted = false ∧ NeedsHalt (.readS 0 0 1) ∧ demo.req.flag = false := by
  exact ⟨⟨_, 0x300117, 5, placeRoot + 0x4000, by decide +kernel, by decide, by decide, .inl (by decide), rfl⟩, ⟨_, by decide, by decide, by decide, by decide, rfl⟩,
    by decide +kernel, trivial, by decide +kernel⟩

theorem witness_partitions :
    (LayoutOk [⟨3, 0, 1023⟩] ∧ LayoutOk [⟨2, 0, 0⟩, ⟨0, 7, 1⟩] ∧ ¬LayoutOk [⟨2, 0, 0⟩, ⟨0, 3, 1⟩] ∧ ¬LayoutOk [⟨4, 0, 0⟩] ∧ ¬LayoutOk [⟨3, 0, 1024⟩]) ∧
    (∀ c ∈ demo.sync.ctxs, c.2.live = true → ∃ p, demo.sync.parts[c.2.part]? = some p ∧ p ∈ [⟨3, 0, 1023⟩].map (newPart demo.sync.parts)) ∧
    (∃ c ∈ demo.sync.ctxs, c.2.live = true ∧ ¬∃ p, demo.sync.parts[c.2.part]? = some p ∧ p ∈ [⟨2, 0, 0⟩].map (newPart demo.sync.parts)) ∧
    ((List.replicate 64 (0 : Nat)).length = 64 ∧ SMap.find demo.keySlots 5 = none ∧
      SMap.find ({ demo with keySlots := [(5, ⟨1, true, [1]⟩)] } : State).keySlots 5 = some ⟨1, true, [1]⟩) := by
  refine ⟨⟨?_, ?_, ?_, ?_, ?_⟩, ?_, ?_, by decide +kernel⟩
  · unfold LayoutOk; decide +kernel
  · unfold LayoutOk; decide +kernel
  · unfold LayoutOk; decide +kernel
  · unfold LayoutOk; decide +kernel
  · unfold LayoutOk; decide +kernel
  · intro c h _
    obtain rfl : c = (1, demo.sync.ctx) := by
      have k : demo.sync.ctxs = [(1, demo.sync.ctx)] := by decide +kernel
      rw [k] at h; simpa using h
    exact ⟨{ k := 3, m := 0, features := 1023, stopped := none }, by decide +kernel, by decide +kernel⟩
  · refine ⟨(1, demo.sync.ctx), by decide +kernel, by decide +kernel, ?_⟩
    rintro ⟨p, h, k⟩
    rw [(by decide +kernel : demo.sync.parts[(1, demo.sync.ctx).2.part]? = some { k := 3, m := 0, features := 1023, stopped := none })] at h
    cases h; revert k; decide +kernel

/-! ### Recovery and hardware -/

/-- A context at rest with a pre-emption pending since cycle 0 until cycle n; its save area in the slice of its core. -/
def idleThr : Thread := Thread.fresh 0
def resting (limit : Nat) : State :=
  let v : VCore := { core with threads := (List.range 8).map fun n => (n, Thread.fresh n) }
  let c : Ctx := { context with savebase := 0x20000010000, preempt := .pending [limit], vcores := [(0, v)] }
  { demo with ctx := c, vc := v, thr := idleThr, ctxs := [(1, c)] }
/-- The same with a save area of 5 MiB that leaves of 2 MiB map, each to the start of a slice. -/
def bigLeaf (n : Nat) : Nat := 0x30000000 + 0x400000 * n + 0x30F
def mappedMem : Memory :=
  Memory.writeN demo.mem (placeRoot + 0x3000 + 8 * 2) (leBytes 8 (bigLeaf 0) ++ leBytes 8 (bigLeaf 1) ++ leBytes 8 (bigLeaf 2))
def savable (limit : Nat) : State :=
  let s := resting limit
  let c : Ctx := { s.ctx with savebase := 0x20000400000 }
  { s with mem := mappedMem, ctx := c, ctxs := [(1, c)] }

def spoiltSave : State := { savable 5 with badWords := [0x10, 0x318000, 0x318010] }

theorem witness_preempt :
    (demo.ctxAt 1 = some context ∧ context.killed = false ∧ context.preempt = .none ∧ (resting 5).ctx.preempt = .pending [5]) ∧
    (SaveStarts (stilled (resting 5) (resting 5).ctx).ctx ∧ ¬SaveStarts (stilled demo context).ctx) ∧
    (LimitPassed (resting 0) (resting 0).ctx ∧ ¬LimitPassed (resting 1) (resting 1).ctx ∧ (resting 0).ctx.hasVc 0 = true) := by
  refine ⟨by decide +kernel, ⟨?_, ?_⟩, ⟨⟨[0], by decide +kernel, 0, by decide +kernel⟩, ?_, by decide +kernel⟩⟩
  · refine ⟨by decide +kernel, by decide +kernel, by decide +kernel, ⟨[5], by decide +kernel⟩, by decide +kernel, by decide +kernel, ?_⟩
    unfold AtRest; decide +kernel
  · rintro ⟨-, -, -, ⟨ds, h⟩, -⟩
    rw [(by decide +kernel : (stilled demo context).ctx.preempt = .none)] at h; cases h
  · rintro ⟨ds, h, d, hd, l⟩
    rw [(by decide +kernel : (resting 1).ctx.preempt = .pending [1])] at h
    cases h; simp only [List.mem_singleton] at hd; subst hd
    exact absurd l (by decide +kernel)

/-- A region whose first page is not mapped; one that is, beside a word of the core's slice that cannot be corrected, and without one. -/
theorem witness_regions :
    RegionFails (resting 5) core .saveAbandoned 0 (resting 5) ∧
    RegionFails spoiltSave core .sramUncorrectable (spoiltSave.logIndex .slice core.phys) (spoiltSave.logError .slice core.phys 0x10 spoiltSave.ctx.id true) ∧
    (∀ x ∈ (savable 5).ctx.vcores, ∀ k e w, ¬RegionFails (savable 5) x.2 k e w) := by
  have yes : ∀ g < 80, ((savable 5).hwAddr ((savable 5).ctx.savebase + 0 * 0x500000 + 65536 * g)).toBool = true := by decide +kernel
  have yes2 : ∀ g < 80, (spoiltSave.hwAddr (spoiltSave.ctx.savebase + core.id * 0x500000 + 65536 * g)).toBool = true := by decide +kernel
  refine ⟨.inl ⟨fun h => absurd (h 1 (by decide)) (by decide +kernel), rfl, by decide +kernel, rfl⟩,
    .inr ⟨yes2, [], 0x10, [0x318000, 0x318010], by decide +kernel, by simp, by unfold BadSaved; decide +kernel, rfl, rfl, rfl⟩, ?_⟩
  intro x hx k e w h
  have i : x.2.id = 0 := by
    have c : (savable 5).ctx.vcores.map (fun y => y.2.id) = [0] := by decide +kernel
    have m := List.mem_map_of_mem (f := fun y : Nat × VCore => y.2.id) hx
    rw [c] at m; simpa using m
  rcases h with ⟨f, -⟩ | ⟨-, before, w, after, hw, -⟩
  · exact f fun g hg => by rw [i]; exact yes g hg
  · rw [(by decide +kernel : (savable 5).badWords = [])] at hw; simp at hw
theorem witness_rows :
    RowKept { core with threads := [(0, { thr with status := .stopped, liveRows := (8, 4) })] } 11 ∧
    ¬RowKept { core with threads := [(0, { thr with status := .stopped, liveRows := (8, 4) })] } 12 := by
  refine ⟨.inl ⟨_, List.mem_cons_self, by unfold NamesRow; decide⟩, ?_⟩
  rintro (⟨t, ht, h⟩ | ⟨p, hp, -⟩)
  · obtain rfl := List.mem_singleton.mp ht
    revert h; unfold NamesRow; decide
  · cases hp

/-- A saved context whose save area lies in other slices and whose region is VALID with number 7; a parked thread. -/
def parkReport : Report := reportAt demo false 0x20000000010 ⟨.breakpoint, 0, 0⟩ 1
def savedAt (valid : Nat) : State :=
  let c : Ctx := { context with savebase := 0x20000400000, preempt := .saved, vcores := [], saved := [{ core with threads := [(0, { thr with status := .parked parkReport })] }] }
  poke { demo with mem := mappedMem, ctx := c, ctxs := [(1, c)], cores := [(1, PCore.fresh)] } 0x30000000 (leBytes 4 valid ++ leBytes 4 0 ++ leBytes 8 7)
def parkedThr : State := demoT fun t => { t with status := .parked parkReport }
theorem savedHeader (v : Nat) (h : v = 0 ∨ v = 1) : (atCtx (savedAt v) 1).hwRead 0x20000400000 64 =
    some (leBytes 4 v ++ leBytes 4 0 ++ leBytes 8 7 ++ List.replicate 48 0) := by
  rcases h with rfl | rfl <;> decide +kernel
theorem witness_valid : RegionsValid (atCtx (savedAt 1) 1) ∧ ¬RegionsValid (atCtx (savedAt 0) 1) := by
  have b : ∀ v, (atCtx (savedAt v) 1).ctx.savebase + 0 * 0x500000 = 0x20000400000 := fun v => rfl
  have yes : ∀ g < 80, ((atCtx (savedAt 1) 1).hwAddr ((atCtx (savedAt 1) 1).ctx.savebase + 0 * 0x500000 + 65536 * g)).toBool = true := by decide +kernel
  refine ⟨⟨7, fun n h => ?_⟩, ?_⟩
  · obtain rfl : n = 0 := by
      rw [(by decide +kernel : max 1 (atCtx (savedAt 1) 1).ctx.nmax = 1)] at h; omega
    exact ⟨yes, _, by rw [b]; exact savedHeader 1 (.inr rfl), by decide +kernel⟩
  · rintro ⟨q, h⟩
    obtain ⟨-, bs, r, v, -⟩ := h 0 (by decide +kernel)
    rw [b, savedHeader 0 (.inl rfl)] at r; cases r
    exact absurd v (by decide +kernel)
theorem witness_restore :
    (∀ v, (savedAt v).ctx.killed = false ∧ (savedAt v).ctx.preempt = .saved) ∧
    (CoresFree (atCtx (savedAt 1) 1) 0 [1] ∧ ¬CoresFree (atCtx (savedAt 1) 1) 0 [0] ∧ [1].length = (savedAt 1).ctx.nmax) ∧
    (Memory.wf demo.mem ∧ 959 ∈ ({ core with dead := [959] } : VCore).dead) ∧
    ((here parkedThr).ctx.hasVc (here parkedThr).vc.id = true ∧ (here parkedThr).thr.status = .parked parkReport ∧ (here parkedThr).ctx.preempt = .none) ∧
    (∃ v ∈ (savedAt 1).ctx.saved, v.id = 0 ∧ ∃ t ∈ v.threads, t.1 = 0 ∧ ∃ r, t.2.status = .parked r) := by
  refine ⟨fun v => ⟨rfl, rfl⟩, ⟨?_, ?_, by decide +kernel⟩, by decide +kernel, by decide +kernel,
    ⟨{ core with threads := [(0, { thr with status := .parked parkReport })] }, by decide +kernel, by decide +kernel,
      (0, { thr with status := .parked parkReport }), by decide +kernel, rfl, _, rfl⟩⟩
  · unfold CoresFree; decide +kernel
  · unfold CoresFree; decide +kernel
/-- A leaf of 1 GiB in the slice view: it reaches the slice of core 0, and may be rewritten for core 256. -/
def viewed : State :=
  { demo with mem := Memory.writeN (Memory.writeN demo.mem (placeRoot + 0x1010) (leBytes 8 (placeRoot + 0x5001))) (placeRoot + 0x5000) (leBytes 8 0x30F) }
theorem witness_leaves :
    viewed.walk (0x10000000000 + 0 * 0x400000 + 65536 * 0) = .leaf 0x30F 3 (placeRoot + 0x5000) ∧
    (leafAddr 0x30F 3 0x10000000000 = 0 * 0x400000 + 65536 * 0 ∧ leafAddr 0x30F 3 0x10000000000 ≠ 1 * 0x400000 + 65536 * 0) ∧
    (0x40000000 + 0x10000000000 % pageSize 3 = 256 * 0x400000 + 65536 * 0 ∧ 0x40000000 % pageSize 3 = 0) := by decide +kernel

theorem witness_save_regions :
    ({ core with threads := (List.range 8).map fun n => (n, Thread.fresh n) } : VCore).threads.map Prod.fst = List.range 8 ∧ core.parks.length ≤ 4 ∧
    thr.lanes[0]? = some ⟨task, false⟩ := by decide +kernel

/-- Stopped partitions. -/
def stoppedBy (c : Cause) : State := { demo with parts := [{ k := 3, m := 0, features := 1023, stopped := some c }] }
theorem witness_belfry :
    (demo.parts[9]? = none ∧ (∃ p, demo.parts[0]? = some p ∧ p.stopped = none) ∧ (∃ p, (stoppedBy .gangStop).parts[0]? = some p ∧ p.stopped = some .gangStop) ∧
      ∃ p, (stoppedBy .thermalTrip).parts[0]? = some p ∧ p.stopped ≠ none ∧ p.stopped ≠ some .gangStop ∧ p.stopped ≠ some .debugHalt) ∧
    (SMap.find demo.cores 0 = some PCore.fresh ∧ demo.thr.status = .running ∧ (here parkedThr).thr.status ≠ .running) := by
  exact ⟨⟨by decide +kernel, ⟨{ k := 3, m := 0, features := 1023, stopped := none }, by decide +kernel, by decide⟩,
    ⟨{ k := 3, m := 0, features := 1023, stopped := some .gangStop }, by decide +kernel, by decide⟩,
    ⟨{ k := 3, m := 0, features := 1023, stopped := some .thermalTrip }, by decide +kernel, by decide⟩⟩, by decide +kernel⟩

theorem witness_clocks :
    (demo.phase = .up ∧ State.reset.phase = .reset ∧ 7 < 8 ∧ 7 ∉ demo.stretched ∧ 7 ∉ demo.tripped ∧ demo.partOf 0 = some 0 ∧
      ({ demo with parts := [] } : State).partOf 0 = none) ∧
    (23 ∉ demo.spanDown ∧ 15 ∉ demo.cxlDown ∧ isPool 0x100000000000 = true ∧ isPool 0xFFFFFFFFFFF = false) ∧
    (∃ port, LostStore (demoT fun t => { t with stores := [⟨0x20000018000, 0x80000000000, [1], none⟩] }) port ⟨0x20000018000, 0x80000000000, [1], none⟩) ∧
    (∃ port, ({ demo with cxlDown := [port] } : State).portOf 0x100000000000 = port) := by
  exact ⟨by decide +kernel, by decide, ⟨_, by decide, rfl⟩, ⟨demo.portOf 0x100000000000, rfl⟩⟩

/-- Errors: of the thread in focus, of its command, of a REPLAY launch whose only lane is RESTARTABLE. -/
def replaying : State :=
  { (demoC fun c => { c with launches := [(1, { launch with replay := true })] }) with thr := restartThr }
theorem witness_errors :
    (ErrorReaches (demo.focus ⟨1, 0, 0⟩) ∧ ¬ErrorReaches (demo.focus ⟨1, 0, 1⟩)) ∧
    (SMap.find demo.cores (demo.focus ⟨1, 0, 0⟩).vc.phys = some PCore.fresh) ∧
    (((arrayAt [tenRows]).focus ⟨1, 0, 0⟩).vc.outstanding = [] ++ tenRows :: [] ∧ tenRows.err = none ∧ tenRows.thread = ((arrayAt [tenRows]).focus ⟨1, 0, 0⟩).thr.id) ∧
    (NoJob replaying ∧ causeDisp .machineCheck = .f ∧ Replays replaying .machineCheck ∧ ¬Replays demo .machineCheck ∧ ¬Replays replaying .poolLinkDown) ∧
    (SMap.find demo.cores 7 = none ∧ ∀ k, (0, k) ∉ demo.failedArrays) := by
  refine ⟨⟨?_, ?_⟩, by decide +kernel, by decide +kernel, ⟨?_, by decide, ?_, ?_, ?_⟩, by decide +kernel, fun k h => ?_⟩
  · unfold ErrorReaches; decide +kernel
  · unfold ErrorReaches; decide +kernel
  · unfold NoJob; decide +kernel
  · exact ⟨.inr (.inr (.inr rfl)), ⟨{ launch with replay := true }, by decide +kernel, rfl⟩, by decide +kernel⟩
  · rintro ⟨-, ⟨l, h, r⟩, -⟩
    rw [(by decide +kernel : SMap.find demo.ctx.launches demo.thr.launch = some launch)] at h
    cases h; cases r
  · rintro ⟨h | h | h | h, -⟩ <;> cases h
  · rw [(by decide +kernel : demo.failedArrays = [])] at h; cases h

theorem witness_host_accesses :
    (physExists 0x240000000 = false ∧ physExists (0x23FFFFFFF + 2 - 1) = false ∧ physExists 0x23FFFFFFF = true) ∧
    (Reachable demo 0x318000 8 ∧ Reachable demo 0x4FFFFFFFFFF8 8 ∧ ¬Reachable demo 0x4FFFFFFFFFF9 8 ∧ ¬Reachable demo 0x80000000000 8) ∧
    (demo.heldAt 0x318000 = false ∧ (stoppedBy .gangStop).heldAt 0x318000 = true ∧ Reachable (stoppedBy .gangStop) 0x318000 8) ∧ Memory.wf demo.mem ∧
    (0x318004 % 8 ≠ 0 ∧ 0x318000 % 8 = 0) := by
  refine ⟨by decide, ⟨?_, ?_, ?_, ?_⟩, ⟨by decide +kernel, by decide +kernel, ?_⟩, by decide +kernel, by decide⟩
  all_goals (unfold Reachable; decide +kernel)

/-- The steps of the bring-up; far addresses, with a port that works, with none, with the node lost; a failed CXL link. -/
theorem witness_links :
    ({ demo with phase := .started }.phase = .started ∧ { demo with phase := .tested }.phase = .tested) ∧
    (isFar 0x80000000000 = true ∧ (∃ p, p < 24 ∧ p ∉ demo.spanDown) ∧ (∀ p, p < 24 → p ∈ List.range 24) ∧ Config.farNode (paOf 0x80000000000) ∉ demo.farLost) ∧
    (paOf 0x318000 < 0x80000000000 ∧ demo.portOf 0x100000000000 ∉ demo.cxlDown) := by
  refine ⟨⟨rfl, rfl⟩, ⟨by decide +kernel, ⟨0, by decide, by decide +kernel⟩, by decide, ?_⟩, by decide +kernel, ?_⟩
  · rw [(by decide +kernel : demo.farLost = [])]; exact List.not_mem_nil
  · rw [(by decide +kernel : demo.cxlDown = [])]; exact List.not_mem_nil

/-- Errors in and outside a context's state; a command that touches a row; a store of another context on a link that failed. -/
theorem witness_error_places :
    (ErrorIn context (.sram 0x3FFFFF) ∧ ¬ErrorIn context (.sram 0x400000) ∧ ErrorIn context (.machineCheck ⟨1, 0, 0⟩) ∧ ¬ErrorIn context (.firmware 2 7)) ∧
    (demo.sync.ctxAt demo.req.t.ctx = some demo.sync.ctx) ∧
    (TouchesRow ⟨1, 0, 0⟩ 10 tenRows ∧ TouchesRow ⟨1, 0, 0⟩ 19 tenRows ∧ ¬TouchesRow ⟨1, 0, 0⟩ 20 tenRows ∧ ¬TouchesRow ⟨1, 0, 1⟩ 10 tenRows) ∧
    ((∃ x, SMap.find demo.cores 0 = some x) ∧ SMap.find demo.cores 7 = none) := by
  refine ⟨⟨⟨(0, core), by decide +kernel⟩, ?_, rfl, by unfold ErrorIn; decide⟩, by decide +kernel, ?_, ⟨PCore.fresh, by decide +kernel⟩, by decide +kernel⟩
  · rintro ⟨v, hv, h⟩
    obtain rfl := List.mem_singleton.mp hv
    exact absurd h (by decide +kernel)
  · unfold TouchesRow; decide
def onPool : Thread := { thr with stores := [⟨0x20000018000, 0x100000000000, [1], none⟩] }
def poolUser : Ctx := { context with id := 2, vcores := [(0, { core with threads := [(0, onPool)] })] }
def noPort : State := { demo with cxlDown := [demo.portOf 0x100000000000] }
theorem witness_shared_link :
    OnLink noPort ⟨.poolLinkDown, 0, noPort.portOf 0x100000000000⟩ poolUser ∧ causeDisp .poolLinkDown = .f := by
  exact ⟨⟨by decide +kernel, by decide +kernel, .inl ⟨(0, { core with threads := [(0, onPool)] }), List.mem_cons_self, (0, onPool), List.mem_cons_self,
    .inl ⟨⟨0x20000018000, 0x100000000000, [1], none⟩, List.mem_cons_self, rfl, by decide +kernel, List.mem_singleton.mpr rfl, .inl rfl⟩⟩⟩, by decide⟩
/-- Two contexts whose tables map the pool word that cannot be corrected (R356, R394). -/
theorem witness_shared_word :
    (let m := tables (codeOf .nop)
     let s := { pool with mem := m.writeN (placeRoot + 0x4008) (leBytes 8 0x10000001030F) }
     s.badPoolWord 0x20000018000 = some 0x100000018000 ∧ mapsFrom s.mem 0x100000018000 5 1 context.root = true ∧
     mapsFrom s.mem 0x100000020000 5 1 context.root = false) ∧ causeDisp .poolError = .f := by decide +kernel
/-- Restart after a write to the pool: its bytes stay within one key slot's granules. -/
theorem witness_pool_bytes : Whole (busOf 5 0x100000000000) 8 ∧ (demo.heldAt 0x100000000000 = false ∧ (stoppedBy .gangStop).heldAt 0x318000 = true) := by
  refine ⟨?_, by decide +kernel⟩
  unfold Whole; decide +kernel

/-! ### The machine as a whole -/

/-- A turn of the A-stream at a NOP, one at an instruction of the E-stream, one of the E-stream behind it; an event. -/
def turn (i : Instr) (e : Bool) : State := { demo with mem := tables (codeOf i), agenda := [.run ⟨1, 0, 0⟩ e] }
def behind : State := { (turn .enop true) with thr := { thr with ePath := [BitVec.ofNat 64 placeVa] } }
theorem witness_steps :
    (demo.phase = .up ∧ (turn .nop false).agenda = .run ⟨1, 0, 0⟩ false :: [] ∧ (turnOf (turn .nop false) ⟨1, 0, 0⟩ []).thr.eNext = 0) ∧
    MayIssue (turnOf (turn .nop false) ⟨1, 0, 0⟩ []) ∧ MayIssue (turnOf behind ⟨1, 0, 0⟩ []) ∧
    (∀ i ∈ [Instr.nop, .enop], (turnOf (turn i false) ⟨1, 0, 0⟩ []).fetchAddr (turnOf (turn i false) ⟨1, 0, 0⟩ []).thr.apc = .ok 0x300000 ∧
      decodeAt 0 (fetchBytes (turnOf (turn i false) ⟨1, 0, 0⟩ []) (BitVec.ofNat 64 placeVa) 0x300000) = .instr i 8) ∧
    (stBit (fetchBytes (turnOf (turn .nop false) ⟨1, 0, 0⟩ []) (BitVec.ofNat 64 placeVa) 0x300000) = false ∧ stBit (fetchBytes (turnOf (turn .enop false) ⟨1, 0, 0⟩ []) (BitVec.ofNat 64 placeVa) 0x300000) = true) ∧
    ((turnOf behind ⟨1, 0, 0⟩ []).thr.ePath = BitVec.ofNat 64 placeVa :: [] ∧ (turnOf behind ⟨1, 0, 0⟩ []).fetchAddr (BitVec.ofNat 64 placeVa) = .ok 0x300000) ∧
    (encode .hprioBoostEnd = [] ∧ ({ demo with agenda := [.event .hprioBoostEnd Req.zero] } : State).agenda = .event .hprioBoostEnd Req.zero :: []) ∧
    State.reset.phase = .reset := by
  refine ⟨by decide +kernel, ?_, ?_, by decide +kernel, by decide +kernel, by decide +kernel, by decide +kernel, by decide⟩
  · unfold MayIssue; decide +kernel
  · unfold MayIssue; decide +kernel

/-- What else a turn asks for: the A-stream at no job and in no settled wait, the words of an E-stream instruction fetched or known, the E-stream
ahead of a waiting A-stream, a pad word. -/
def waitsAt : State := { (turn .enop true) with thr := { thr with waitA := .pop 3 } }
def knownWords : State := { behind with thr := { behind.thr with eWords := [(placeVa, codeOf .enop)] } }
theorem witness_turns :
    ((turnOf (turn .nop false) ⟨1, 0, 0⟩ []).inJob = false ∧ Fresh (turnOf (turn .nop false) ⟨1, 0, 0⟩ []) ∧ ¬Fresh (turnOf waitsAt ⟨1, 0, 0⟩ []) ∧
      (turnOf waitsAt ⟨1, 0, 0⟩ []).instrAt (turnOf waitsAt ⟨1, 0, 0⟩ []).thr.apc = some (.enop, 8)) ∧
    (SMap.find (turnOf behind ⟨1, 0, 0⟩ []).thr.eWords placeVa = none ∧ SMap.find (turnOf knownWords ⟨1, 0, 0⟩ []).thr.eWords placeVa = some (codeOf .enop) ∧
      stBit (codeOf .enop) = true ∧ decodeAt 0 (codeOf .enop) = .instr .enop 8 ∧ decodeAt 0 (leBytes 4 0xFFFFFFFF ++ leBytes 12 0) = .pad) ∧
    MayIssue (turnOf waitsAt ⟨1, 0, 0⟩ []) := by
  refine ⟨⟨by decide +kernel, ?_, ?_, by decide +kernel⟩, by decide +kernel, ?_⟩
  · unfold Fresh; decide +kernel
  · unfold Fresh; decide +kernel
  · unfold MayIssue; decide +kernel

/-- The E-stream ahead of the A-stream instruction that waits. -/
def aheadOf : State := { waitsAt with mem := tables (codeOf .nop ++ codeOf .enop) }
theorem witness_ahead :
    (turnOf aheadOf ⟨1, 0, 0⟩ []).thr.ePath = [] ∧ (turnOf aheadOf ⟨1, 0, 0⟩ []).aheadPos = some (BitVec.ofNat 64 (placeVa + 8)) ∧
    (turnOf aheadOf ⟨1, 0, 0⟩ []).fetchAddr (BitVec.ofNat 64 (placeVa + 8)) = .ok 0x300008 ∧
    decodeAt 8 (fetchBytes (turnOf aheadOf ⟨1, 0, 0⟩ []) (BitVec.ofNat 64 (placeVa + 8)) 0x300008) = .instr .enop 8 := by decide +kernel

/-- R34, R51: the state after reset is in canonical form, a step from it is one; an instruction that its encoding carries. -/
theorem witness_canonical :
    Safety.State.Ok State.reset ∧ (∃ t, step State.reset = .next t) ∧ (Instr.liLi ⟨10, 0, 0, 0x1000⟩).encodable = true ∧
    24 + 4 * (encode (.liLi ⟨10, 0, 0, 0x1000⟩)).length ≤ 32 ∧ decodeAt 24 (codeOf (.liLi ⟨10, 0, 0, 0x1000⟩) ++ List.replicate 8 0) = .instr (.liLi ⟨10, 0, 0, 0x1000⟩) 8 := by
  refine ⟨?_, next_of (by decide +kernel), by decide, by decide, by decide +kernel⟩
  unfold Safety.State.Ok; decide +kernel

/-! ### The branches of single clauses -/

/-- RESUME ahead of the A-stream: at a position that is fetched, at a misaligned one and at one without a page. -/
theorem witness_resume_ahead :
    (∀ e ∈ [(0x20000000008 : W64), 0x20000000006, 0x30000000000], let s := inHandler 0x20000000000 e []
      s.drain = .ok s ∧ s.thr.aepc ≠ 0 ∧ RestartsAhead s ∧ s.thr.handler = true ∧ s.thr.ePath = [] ∧ Fresh s) ∧
    (∃ b, (inHandler 0x20000000000 0x20000000008 []).fetchAddr 0x20000000008 = .ok b) ∧
    (inHandler 0x20000000000 0x20000000006 []).fetchAddr 0x20000000006 = .error (.trap ⟨.fetchMisaligned, 0x20000000006, 0⟩) ∧
    (∃ i, (inHandler 0x20000000000 0x30000000000 []).fetchAddr 0x30000000000 = .error (.trap i)) := by
  refine ⟨fun e h => ?_, ok_of (by decide +kernel), by decide +kernel, trap_of (by decide +kernel)⟩
  simp only [List.mem_cons, List.not_mem_nil, or_false] at h
  rcases h with rfl | rfl | rfl <;>
    exact ⟨by decide +kernel, by decide +kernel, ⟨by decide +kernel, fun p h => by cases h⟩, by decide +kernel, by decide +kernel, by unfold Fresh; decide +kernel⟩
/-- RESUME behind the A-stream where nothing can be read, and where the word at ctl.epc has no decoding. -/
theorem witness_resume_unread :
    ((inHandler 0x20000000010 0x1FFFFFF0000 []).codeBytes 0x1FFFFFF0000 = none ∧ (0x1FFFFFF0000 : W64) < 0x20000000010) ∧
    ((coded 0x244C).codeBytes demo.thr.apc = some (leBytes 8 0x244C ++ leBytes 8 0) ∧
      (match decodeAt 0 (leBytes 8 0x244C ++ leBytes 8 0) with | .fault _ => true | _ => false) = true ∧ stBit (leBytes 8 0x244C ++ leBytes 8 0) = true) := by
  exact ⟨by decide +kernel, by decide +kernel, by decide +kernel, by decide +kernel⟩
/-- A VLDE ahead of a fence, and none. -/
theorem witness_fence_older :
    (OlderE vectorAhead (IsMajorE 96) ∧ OlderE vectorAhead IsAccessE ∧ Fresh vectorAhead) ∧ ¬OlderE demo IsAccessE ∧ ¬OlderE demo (IsMajorE 96) := by
  have e : vectorAhead.einstAt 0x20000000000 = 0x304 := by decide +kernel
  have h : IsMajorE 96 (vectorAhead.einstAt 0x20000000000) := by rw [e]; exact ⟨by decide, by decide, by decide⟩
  refine ⟨⟨⟨_, by decide +kernel, h⟩, ⟨_, by decide +kernel, .inl h⟩, by unfold Fresh; decide +kernel⟩, ?_, ?_⟩ <;>
  · rintro ⟨a, h, -⟩
    rw [(by decide +kernel : demo.thr.ePath = [])] at h; cases h
/-- A pool in a page of CLASS 3. -/
def ownPool : State := demoV fun v => { v with dtlb := [{ ctx := 1, base := 0x20000010000, size := 65536, pte := 0x31036F }] }
theorem witness_pool_class :
    NoWindow ownPool (obj.pool + 32 * 2) ∧
    ∃ pte pa, ownPool.translate ownPool.agent (readAcc (obj.pool + 32 * 2) 64) = .ok (pte, pa) ∧
      permCause pte (readAcc (obj.pool + 32 * 2) 64) = some .permRead ∧ permCause 0x31030F (readAcc (obj.pool + 32 * 2) 64) = none := by
  refine ⟨?_, 0x31036F, 0x31C040, by decide +kernel, by decide +kernel, by decide +kernel⟩
  unfold NoWindow; decide +kernel
theorem witness_near_join :
    demo.hwBus .write 0x3BFFFF true = .ok 0x3BFFFF ∧ (match demo.hwBus .write 0x3C0000 true with | .ok _ => false | .error _ => true) = true := by
  decide +kernel

/-- The record of an MTILE and the descriptor of an RSTEP: the range may be read and written, is misaligned, or has a word of the pool that
cannot be corrected. -/
theorem witness_both_checks :
    ((seqSt oneStep).checkBoth (seqSt oneStep).agent 64 0x20000018000 64 = .ok () ∧
      ∃ e, (demoS [(1, 0x20000018020)]).checkBoth demo.agent 64 0x20000018020 64 = .error (.trap e)) ∧
    ((lined (ruleSt fixedTile 1)).checkBoth (lined (ruleSt fixedTile 1)).agent 64 0x20000018000 64 = .ok () ∧
      ∃ e, (lined (demoS [(1, 0x20000018020)])).checkBoth (lined demo).agent 64 0x20000018020 64 = .error (.trap e)) ∧
    (pool.checkBoth pool.agent 64 0x20000018000 64 = .ok () ∧ ∃ e, pool.readRange pool.agent 64 0x20000018000 64 = .error (.trap e)) ∧
    ((lined pool).vc.lantern.head? = some pool.thr.id ∧ (lined pool).checkBoth (lined pool).agent 64 0x20000018000 64 = .ok () ∧
      ∃ e, (lined pool).readRange (lined pool).agent 64 0x20000018000 64 = .error (.trap e)) := by
  exact ⟨⟨by decide +kernel, trap_of (by decide +kernel)⟩, ⟨by decide +kernel, trap_of (by decide +kernel)⟩, ⟨by decide +kernel, trap_of (by decide +kernel)⟩,
    by decide +kernel, by decide +kernel, trap_of (by decide +kernel)⟩

/-- A page that may not be read, one that may not be written, and one that may be both. -/
theorem witness_range_checks :
    let ps := pieces 64 .read .scalar [] (64 / 32 + 2) 0x20000018000 64
    (∃ e, (mapped 0x31036F).checkAll { demo.agent with det := false } ps = .error (.trap e)) ∧
    ((∃ ts, (mapped 0x310307).checkAll { demo.agent with det := false } ps = .ok ts) ∧
      ∃ e, (mapped 0x310307).checkRange demo.agent 64 0x20000018000 64 = .error (.trap e)) ∧
    ((∃ ts, demo.checkAll { demo.agent with det := false } ps = .ok ts) ∧ (∃ w, demo.checkRange demo.agent 64 0x20000018000 64 = .ok w)) :=
  ⟨trap_of (by decide +kernel), ⟨ok_of (by decide +kernel), trap_of (by decide +kernel)⟩, ok_of (by decide +kernel), ok_of (by decide +kernel)⟩

/-- A parked store through a view whose block's page is gone. -/
def lostView : PAcc := ⟨0x20000040000, [1], none, true, some { view with p := [0x50000, 0x200, 0] }⟩
theorem witness_replay_view :
    (match (here (parkedSt [parkedAt 0x100] 0)).checkMem replayer ((lostView.access [(0x20000040000, 1)]).backing { view with p := [0x50000, 0x200, 0] }) with
      | .error (.trap _) => true | _ => false) = true ∧
    (here (parkedSt [parkedAt 0x100] 0)).checkMem replayer ((viewAcc.access [(0x20000040000, 1)]).backing view) = .ok 0x318000 := by
  decide +kernel

theorem witness_translations :
    (∃ e, tlbLookup (tlbOf .read demo.vc) 1 0x20000010000 = some e ∧ ¬SetsD .read e.pte) ∧
    (L1Misses (hereCore homed) (readAcc 0x20000010000 8) ∧ InHome (hereCore homed) .read 0x20000010000 ⟨1, 0x20000010000, 65536, 0x31030F⟩) ∧
    (L1Misses (hereCore cleanLeaf) (readAcc 0x20000010000 8) ∧ ∃ pte lv pa, (hereCore cleanLeaf).walk 0x20000010000 = .leaf pte lv pa) ∧
    (L1Misses (hereCore (missing 0x20000020000 .read)) (readAcc 0x20000020000 8) ∧ (∀ e, ¬InHome (hereCore (missing 0x20000020000 .read)) .read 0x20000020000 e) ∧
      ∃ lv b, (hereCore (missing 0x20000020000 .read)).walk 0x20000020000 = .fault lv b) := by
  refine ⟨⟨⟨1, 0x20000010000, 65536, 0x31030F⟩, by decide +kernel, by unfold SetsD; decide +kernel⟩, ⟨?_, by unfold InHome SetsD; decide +kernel⟩, ⟨?_, ⟨0x31010F, 5, placeRoot + 0x4008, by decide +kernel⟩⟩,
    ?_, fun e h => ?_, ⟨5, false, by decide +kernel⟩⟩
  · intro e h
    rw [(by decide +kernel : (hereCore homed).vc.dtlb = [])] at h; cases h
  · intro e h
    rw [(by decide +kernel : (hereCore cleanLeaf).vc.dtlb = [])] at h; cases h
  · intro e h
    rw [(by decide +kernel : (hereCore (missing 0x20000020000 .read)).vc.dtlb = [])] at h; cases h
  have k := h.1
  rw [(by decide +kernel : (hereCore (missing 0x20000020000 .read)).l2tlb = [])] at k; cases k

theorem witness_second_read :
    let s := sleeping (here (asleep 0))
    let u := s.sawWord (readAcc 0x100 8) (.mem 0x100)
    s.check (sleeper (here (asleep 0))) (readAcc 0x100 8) = .ok (.mem 0x100) ∧ s.readTarget (sleeper (here (asleep 0))) (readAcc 0x100 8) (.mem 0x100) = .ok (List.replicate 8 0) ∧
    u.check (sleeper u) (readAcc 0x100 8) = .ok (.mem 0x100) ∧ u.readTarget (sleeper u) (readAcc 0x100 8) (.mem 0x100) = .ok (List.replicate 8 0) ∧
    (∃ t, u.thr.writeS 5 0 = .ok t) := by
  exact ⟨by decide +kernel, by decide +kernel, by decide +kernel, by decide +kernel, ok_of (by decide +kernel)⟩
/-- A WAITW that sleeps on a page that is gone. -/
theorem witness_word_gone :
    let s := { asleep 0 with thr := (asleep 0).thr.setS 3 0x20000020000 }
    (here s).thr.waitA = .word ∧ (here s).instrAt (here s).thr.apc = some (.waitw 0 ⟨5, 3, 4, 0, 0, 0, 0, 33⟩, 8) ∧
    ∃ e, (sleeping (here s)).check (sleeper (here s)) (readAcc 0x20000020000 8) = .error (.trap e) := by
  exact ⟨by decide +kernel, by decide +kernel, trap_of (by decide +kernel)⟩

/-- Zeroed sections: in the slices of the cores, and inside a page. -/
theorem witness_zero_sections :
    let z : Place := ⟨{ spoiltSec with kind := 4, flags := 1, size := 8 }, 0x20000018000, 12, []⟩
    let n : Place := ⟨{ spoiltSec with kind := 4, flags := 0x11, size := 8 }, 0x108, 12, []⟩
    (z.sec.flags.testBit 4 = false ∧ z.sec.size ≠ 0 ∧ z.addr % 65536 + z.sec.size ≤ 65536 ∧ goodLoad.hwAddr z.addr = .ok 0x318000) ∧
    (n.sec.flags.testBit 0 = true ∧ n.sec.flags.testBit 4 = true ∧ Memory.wf goodLoad.mem ∧
      ∀ k, k < goodLoad.ctx.nmax → goodLoad.physOf k * 0x400000 + n.addr < 0x80000000000) := by decide +kernel
/-- A relocation into a zeroed section, at its end and past it, and one that meets an earlier one. -/
theorem test_zero_relocation :
    let z : Place := { linkPlace with sec := { linkPlace.sec with kind := 4 }, bytes := [] }
    (∃ x, applyReloc (linkEnv1 true) [z] [] (linkRel 24 0 1) = .ok x) ∧ applyReloc (linkEnv1 true) [z] [] (linkRel 25 0 1) = .error 7 ∧
    applyReloc (linkEnv1 true) [z] [(2, 0, 8)] (linkRel 7 0 1) = .error 7 ∧ ∃ x, applyReloc (linkEnv1 true) [z] [(2, 0, 8)] (linkRel 8 0 1) = .ok x :=
  ⟨ok_of (by decide +kernel), by decide +kernel, by decide +kernel, ok_of (by decide +kernel)⟩

/-- A context is created with its stub on the code page, and not with a stub on no page or inside a block of 4 KiB. -/
def stubbed (va : Nat) : State := { creating 2 1 with req := { (creating 2 1).req with params := { params 2 1 with root := placeRoot, stub := va } } }
theorem witness_stub :
    (StubFits demo 0x20000001000 ∧ ¬StubFits demo 0x20000001010 ∧ ¬StubFits demo 0 ∧ ¬StubFits demo 0x20000010000 ∧ ∃ b, demo.hwAddr 0x20000001000 = .ok b) ∧
    CreateOk (stubbed 0x20000001000) (stubbed 0x20000001000).req.params 0 := by
  have k : ∀ va lv, demo.walk va = .leaf 0x31030F lv (placeRoot + 0x4008) → ¬StubFits demo va := by
    rintro va lv e ⟨-, -, pte, l, pa, h, hx, -⟩
    rw [e] at h; injection h with h; subst h; exact absurd hx (by decide)
  refine ⟨⟨⟨by decide, ok_of (by decide +kernel), placePte 0, 5, placeRoot + 0x4000, by decide +kernel, by decide, by decide⟩, fun h => absurd h.1 (by decide), ?_,
    k _ 5 (by decide +kernel), ok_of (by decide +kernel)⟩, by unfold CreateOk; decide +kernel⟩
  rintro ⟨-, -, pte, lv, pa, h, hx, -⟩
  rw [(by decide +kernel : demo.walk 0 = .fault 2 false)] at h; cases h
theorem test_stub :
    (nextOf (exec .contextCreate (stubbed 0x20000001000))).replies = [.done] ∧ (nextOf (exec .contextCreate (stubbed 0))).replies = [.refused] ∧
    SMap.find (nextOf (exec .contextCreate (stubbed 0x20000001000))).ctx.holdings 4095 = some ⟨0x20000001000, 12, .sealed, 0x30000, none⟩ := by decide +kernel
/-- The example C.3 of FIPS 197, which R372's cipher names. -/
theorem test_cipher : aesEnc (List.range 32) ((List.range 16).map (· * 17)) =
    [0x8e, 0xa2, 0xb7, 0xca, 0x51, 0x67, 0x45, 0xbf, 0xea, 0xfc, 0x49, 0x90, 0x4b, 0x49, 0x60, 0x89] := by decide +kernel

/-- A partition with a stop that is pending, one with a copy left, a context that no copy is left of. -/
def halfStopped (cs : List (Nat × CopyJob)) : State :=
  { stoppedBy .gangStop with
    ctx := { context with copies := cs, halted := true }
    stops := [0]
    req := { demo.req with n := 0 } }
theorem witness_pending_stop :
    (∀ cs ∈ [[], [(1, job)]], (halfStopped cs).req.n ∈ (halfStopped cs).stops ∧ ∃ p, (halfStopped cs).parts[(halfStopped cs).req.n]? = some p) ∧
    CopiesComplete (halfStopped []) 0 ∧ ¬CopiesComplete (halfStopped [(1, job)]) 0 ∧ CopiesComplete (halfStopped [(1, job)]) 1 := by
  refine ⟨fun cs _ => ⟨List.mem_cons_self, ⟨_, rfl⟩⟩, ?_, ?_, ?_⟩ <;> unfold CopiesComplete <;> decide +kernel

/-- The data page in far memory, and a view whose blocks stand on it; copies that have begun, that have not, and in a slice. -/
def farPage : State := { demo with mem := Memory.writeN demo.mem (placeRoot + 0x4008) (leBytes 8 0x8000001030F) }
def begun (j : CopyJob) : CopyJob := { j with pos := 1, windows := [] }
theorem farBehind : FarBehind farPage (farPort farPage 0x80000018000) 0x20000018000 :=
  ⟨0x8000001030F, 5, placeRoot + 0x4008, by decide +kernel, by decide +kernel, by
    rw [(by decide +kernel : leafAddr 0x8000001030F 5 0x20000018000 = 0x80000018000)]⟩
theorem witness_behind_link :
    RangeBehind farPage [] (farPort farPage 0x80000018000) (0x20000018000, 8) ∧ (∀ p, ¬RangeBehind farPage [] p (0x20000018000, 0)) ∧
    (∀ p, ¬RangeBehind demo [] p (0x20000018000, 8)) ∧
    RangeBehind farPage [view] (farPort farPage 0x80000018000) (0x20000040000, 8) ∧
    CopyBehind farPage (farPort farPage 0x80000018000) { begun job with word := 0x20000018000 } ∧ (∀ p, ¬CopyBehind farPage p { job with pos := 0 }) := by
  refine ⟨⟨by decide, 0x20000018000, .inl rfl, by decide, by decide, .inl ⟨by decide +kernel, farBehind⟩⟩, fun p h => h.1 rfl, ?_,
    ⟨by decide, 0x20000040000, .inl rfl, by decide, by decide, .inr ⟨view, by decide +kernel, rfl, 0, by decide +kernel, ?_⟩⟩,
    ⟨by decide, .inr (.inr ⟨by decide, by decide, 0x20000018000, .inl rfl, by decide, by decide, .inl ⟨by decide +kernel, farBehind⟩⟩)⟩, fun p h => h.1 rfl⟩
  · rintro p ⟨-, va, h, lo, hi, k⟩
    obtain rfl : va = 0x20000018000 := by omega
    rcases k with ⟨-, pte, lv, a, w, f, -⟩ | ⟨w, h, -⟩
    · rw [(by decide +kernel : demo.walk 0x20000018000 = .leaf 0x31030F 5 (placeRoot + 0x4008))] at w
      cases w; exact absurd f (by decide +kernel)
    · cases h
  · have e : view.backing (0x20000040000 / 65536 * 65536) = (0x20000018000, (view.backing 0x20000040000).2) := by decide +kernel
    rw [e]; exact farBehind

/-- Two lanes in one block of a view, two in different ones. -/
theorem witness_one_block :
    let x : Access := { writeAcc 0x20000040000 4 (.lane 0) with align := 1 }
    (view.covers (x.va + 4) = true ∧ (x.va + 4 - view.base) / (32 * winSize view.fmt) = (x.va - view.base) / (32 * winSize view.fmt)) ∧
    (view.covers (x.va + 128) = true ∧ (x.va + 128 - view.base) / (32 * winSize view.fmt) ≠ (x.va - view.base) / (32 * winSize view.fmt)) := by decide +kernel

/-- A path that is fetched, one that a restart has left to be fetched, and one that names no page. -/
theorem witness_paths :
    PathFetched (turnOf (turn .nop false) ⟨1, 0, 0⟩ []) ∧ PathFetched (turnOf knownWords ⟨1, 0, 0⟩ []) ∧ PathFetched (turnOf waitsAt ⟨1, 0, 0⟩ []) ∧
    (let s := turnOf { behind with agenda := [.run ⟨1, 0, 0⟩ false] } ⟨1, 0, 0⟩ []
     s.thr.ePath = [] ++ BitVec.ofNat 64 placeVa :: [] ∧ s.inJob = false ∧ SMap.find s.thr.eWords placeVa = none ∧
       decodeAt 0 (fetchBytes s (BitVec.ofNat 64 placeVa) 0x300000) = .instr .enop 8 ∧ s.fetchAddr (BitVec.ofNat 64 placeVa) = .ok 0x300000) := by
  refine ⟨fun p h => ?_, fun p h => ?_, fun p h => ?_, by decide +kernel⟩
  · rw [(by decide +kernel : (turnOf (turn .nop false) ⟨1, 0, 0⟩ []).thr.ePath = [])] at h; cases h
  · rw [(by decide +kernel : (turnOf knownWords ⟨1, 0, 0⟩ []).thr.ePath = [BitVec.ofNat 64 placeVa])] at h
    obtain rfl := List.mem_singleton.1 h
    decide +kernel
  · rw [(by decide +kernel : (turnOf waitsAt ⟨1, 0, 0⟩ []).thr.ePath = [])] at h; cases h

/-- The page map of a region that nothing was saved into. -/
theorem witness_page_map : (leNat (regionAt (atCtx (savedAt 1) 1) 0 0x40 128)).testBit 959 = false ∧ Memory.wf (atCtx (savedAt 1) 1).mem := by
  exact ⟨by decide +kernel, by decide +kernel⟩

end Sys2Proof.Tests
end

section
/-! SUPPORT. NOP, ENOP and the hints (R58, R61, R62): what a decode that finds no entry or a field of a fieldless instruction answers, how a
boost is used, which station HGATHER finds, and the statement about them. -/

namespace Sys2Proof

open Sys2Proof.Claims

/-! ## Refusals of the decoder (R55, R57, R60) -/

/-- Words without an entry in the maps are illegal (R55). -/
theorem decode_of_no_entry {w0 w1 e : Nat} (h : entryOf w0 w1 e = none) : decode w0 w1 e = .error ⟨.illegalOpcode, 0⟩ := by
  simp [decode, h]

/-- An instruction that uses no field has every one reserved (R53). -/
theorem decode_zeroFields {w0 w1 e : Nat} {i : Instr} (h : entryOf w0 w1 e = some i) (hz : i.zeroFields = true)
    (hw : w0 / 16384 % 262144 ≠ 0 ∨ w1 % 4294967296 ≠ 0) : decode w0 w1 e = .error ⟨.reservedField, 0⟩ := by
  have hb : (nz (w0 / 16384 % 262144) || nz (w1 % 4294967296)) = true := by simpa only [nz, Bool.or_eq_true, decide_eq_true_eq] using hw
  simp [decode, h, hz, hb]

theorem entryOf_mapA8 {w0 : Nat} (w1 e : Nat) (hl : lenOf w0 = 0) (hs : stOf w0 = 0) (ho : opOf w0 < 112) :
    entryOf w0 w1 e = mapA8 (opOf w0) (fnOf w0) (rFields w0 w1) (iFields w0 w1) (mFields w0 w1) (jFields w0 w1) := by
  simp [entryOf, hl, hs, Nat.not_le_of_lt ho]

theorem entryOf_mapE8 {w0 : Nat} (w1 e : Nat) (hl : lenOf w0 = 0) (hs : stOf w0 = 1) (ho : opOf w0 < 112) :
    entryOf w0 w1 e = mapE8 (opOf w0) (fnOf w0) (rFields w0 w1) (iFields w0 w1) (mFields w0 w1) (jFields w0 w1) := by
  simp [entryOf, hl, hs, Nat.not_le_of_lt ho]

/-- Outside the hint region an FN that the 8-byte A-stream map does not list is illegal. -/
theorem illegal_of_mapA8 {op fn : Nat} (ho : op < 112) (h : ∀ r i m j, mapA8 op fn r i m j = none) : Illegal 0 0 op fn := by
  rintro w0 w1 e hl hs rfl rfl
  exact decode_of_no_entry ((entryOf_mapA8 w1 e hl hs ho).trans (h ..))

/-- Outside the hint region an FN that the 8-byte E-stream map does not list is illegal. -/
theorem illegal_of_mapE8 {op fn : Nat} (ho : op < 112) (h : ∀ r i m j, mapE8 op fn r i m j = none) : Illegal 0 1 op fn := by
  rintro w0 w1 e hl hs rfl rfl
  exact decode_of_no_entry ((entryOf_mapE8 w1 e hl hs ho).trans (h ..))

/-- NOP and ENOP list FN 0 only (R61). -/
theorem illegal_nop_enop {fn : Nat} (h : 1 ≤ fn) : Illegal 0 0 1 fn ∧ Illegal 0 1 1 fn := by
  obtain ⟨k, rfl⟩ := Nat.exists_eq_add_of_le' h
  exact ⟨illegal_of_mapA8 (by decide) fun _ _ _ _ => rfl, illegal_of_mapE8 (by decide) fun _ _ _ _ => rfl⟩

/-- The 8-byte entry of OP 1 and FN 0 is NOP or ENOP, by ST, and neither uses a field (R61). -/
theorem entryOf_op1 {w0 : Nat} (w1 e : Nat) (hl : lenOf w0 = 0) (ho : opOf w0 = 1) (hf : fnOf w0 = 0) :
    ∃ i, entryOf w0 w1 e = some i ∧ i.zeroFields = true := by
  have hlt : opOf w0 < 112 := by omega
  have hst : stOf w0 = 0 ∨ stOf w0 = 1 := by unfold stOf; omega
  rcases hst with hs | hs
  · exact ⟨.nop, by rw [entryOf_mapA8 w1 e hl hs hlt, ho, hf]; rfl, rfl⟩
  · exact ⟨.enop, by rw [entryOf_mapE8 w1 e hl hs hlt, ho, hf]; rfl, rfl⟩

/-- A word 0 of NOP or ENOP whose register fields are zero is one of the two that R61 writes out. -/
theorem word0_op1_plain {w0 : Nat} (hw : w0 < 2 ^ 32) (hl : lenOf w0 = 0) (ho : opOf w0 = 1) (hf : fnOf w0 = 0)
    (hz : w0 / 16384 % 262144 = 0) : w0 = 8 ∨ w0 = 12 := by
  unfold lenOf at hl; unfold opOf at ho; unfold fnOf at hf; omega

/-- Any nonzero field of NOP or ENOP is reserved (R61). -/
theorem decode_op1_reserved {w0 w1 : Nat} (e : Nat) (hw0 : w0 < 2 ^ 32) (hw1 : w1 < 2 ^ 32) (hl : lenOf w0 = 0) (ho : opOf w0 = 1)
    (hf : fnOf w0 = 0) (hn : ¬((w0 = 8 ∨ w0 = 12) ∧ w1 = 0)) : decode w0 w1 e = .error ⟨.reservedField, 0⟩ := by
  obtain ⟨i, hi, hz⟩ := entryOf_op1 w1 e hl ho hf
  refine decode_zeroFields hi hz ?_
  by_contra hc
  obtain ⟨h0, h1⟩ := not_or.1 hc
  exact hn ⟨word0_op1_plain hw0 hl ho hf (not_not.1 h0), by omega⟩

namespace Machine

/-! ## Instructions that only move their stream -/

theorem exec_nop (s : State) : exec .nop s = .next (doneA s 8 s) := finishA_ok 8 s s

theorem exec_enop (s : State) : exec .enop s = .next (doneE s 8 s) := finishE_ok 8 s s

theorem exec_hpref (fn : Nat) (m : MArgs) (s : State) : exec (.hpref fn m) s = .next (doneA s 8 s) := finishA_ok 8 s s

/-- A hint that the machine lacks moves the stream that ST names (R58). -/
theorem exec_hintNop (h : HArgs) (s : State) :
    exec (.hintNop h) s = .next (if h.st = 1 then doneE s (lengthOf h.len) s else doneA s (lengthOf h.len) s) := by
  show execHintNop h s = _
  unfold execHintNop
  split
  · exact finishE_ok ..
  · exact finishA_ok ..

/-! ## HPRIO (R62) -/

theorem exec_hprio (fn : Nat) (i : IArgs) (s : State) :
    exec (.hprio fn i) s = .next (doneA s 8 (s.setThr { s.thr with hprio := i.imm % 256 + 2 })) := finishA_ok 8 s _

/-- A use of a boost takes one of the issues that it has left, if any. -/
theorem useBoost_pred (h : Nat) : useBoost h - 1 = h - 1 - 1 := by unfold useBoost; split <;> omega

/-- An A-stream instruction that completes uses one issue of the boost that its effect leaves. -/
theorem boostLeft_doneA (s s' : State) (n : Nat) (h : s'.thr.singleStep = false) :
    boostLeft (doneA s n s').thr = boostLeft s'.thr - 1 := by
  unfold doneA State.retireTo
  rw [State.stepPark_off]
  · exact useBoost_pred s'.thr.hprio
  · exact h

theorem exec_hprioBoostEnd (s : State) (h : (s.focus s.req.t).thr.hprio = 1) :
    exec .hprioBoostEnd s = .next ((s.focus s.req.t).setThr { (s.focus s.req.t).thr with hprio := 0 }) := by
  show execHprioBoostEnd s = _
  exact if_pos h

/-! ## HGATHER (R62, R326) -/

/-- The test that HGATHER makes of a station. -/
theorem gathers_iff (code : Nat) (x : Station) : (decide (x.code = code) && !x.recs.isEmpty) = true ↔ Gathers code x := by
  simp [Gathers]

theorem expireStation_cons_pos {code : Nat} {x : Station} (h : Gathers code x) (rest : List Station) :
    expireStation code (x :: rest) = { x with expired := true } :: rest := if_pos ((gathers_iff code x).2 h)

theorem expireStation_cons_neg {code : Nat} {x : Station} (h : ¬Gathers code x) (rest : List Station) :
    expireStation code (x :: rest) = x :: expireStation code rest := if_neg (mt (gathers_iff code x).1 h)

/-- Stations that HGATHER does not find stay as they are, before whatever follows. -/
theorem expireStation_append {code : Nat} {before : List Station} (rest : List Station) (h : ∀ y ∈ before, ¬Gathers code y) :
    expireStation code (before ++ rest) = before ++ expireStation code rest := by
  induction before with
  | nil => rfl
  | cons y ys ih =>
    obtain ⟨hy, hys⟩ := List.forall_mem_cons.1 h
    rw [List.cons_append, expireStation_cons_neg hy, ih hys, List.cons_append]

theorem expireStation_none {code : Nat} {ss : List Station} (h : ∀ x ∈ ss, ¬Gathers code x) : expireStation code ss = ss := by
  simpa [expireStation] using expireStation_append [] h

theorem expireStation_first {code : Nat} {before : List Station} {x : Station} (after : List Station) (hx : Gathers code x)
    (h : ∀ y ∈ before, ¬Gathers code y) :
    expireStation code (before ++ x :: after) = before ++ { x with expired := true } :: after := by
  rw [expireStation_append _ h, expireStation_cons_pos hx]

theorem exec_hgather (fn : Nat) (r : RArgs) (s : State) :
    exec (.hgather fn r) s =
      .next (doneA s 8 { s with vc := { s.vc with stations := expireStation (s.thr.getS r.a).toNat s.vc.stations } }) := finishA_ok 8 s _

/-! ## The statement -/

/-- Settles O41, from the meaning of each of the instructions and the decoder's two refusals of OP 1. -/
theorem nopsAndHints : Obligations.NopsAndHints := by
  unfold Obligations.NopsAndHints
  refine ⟨fun s => ⟨exec_nop s, exec_enop s⟩, exec_hintNop, exec_hpref, fun fn i s => ⟨_, exec_hprio fn i s, rfl, fun h => ?hprio⟩,
    fun s n h => boostLeft_doneA s s n h, exec_hprioBoostEnd, fun fn r s => ⟨fun h => ?noStation, fun before x after hs hx hb => ?station⟩,
    fun _ => illegal_nop_enop, fun w0 w1 e h0 h1 hl ho hf hn => decode_op1_reserved e h0 h1 hl ho hf hn⟩
  case hprio => exact boostLeft_doneA s (s.setThr { s.thr with hprio := i.imm % 256 + 2 }) 8 h
  case noStation => rw [exec_hgather, expireStation_none h]
  case station => rw [exec_hgather, hs, expireStation_first after hx hb]

end Machine

end Sys2Proof
end

section
/-! SUPPORT. IALU, IALUI and IMUL (R101, R130, R131): the numbers that the model computes from the low bits of the operands are the words
that the operations of the statement give, at every width; reserved fields and unassigned FN values; the statement about them. -/

namespace Sys2Proof.Machine

open Sys2Proof.Claims

/-! ## Numbers and words of w bits (R100) -/

/-- The signed reading of a word's number is the word's signed value. -/
theorem toSigned_toNat {w : Nat} (a : BitVec w) : toSigned w a.toNat = a.toInt := by
  unfold toSigned
  rw [Nat.mod_eq_of_lt a.isLt, BitVec.toInt_eq_toNat_cond]
  have hlt : a.toNat < 2 ^ (w - 1) ↔ 2 * a.toNat < 2 ^ w := by
    cases w with
    | zero => simp [BitVec.eq_nil a]
    | succ n => rw [Nat.add_sub_cancel, Nat.pow_succ]; omega
  simp only [hlt]

/-- The word of a number that was read from a word is that word. -/
theorem ofInt_toNat {w : Nat} (a : BitVec w) : BitVec.ofInt w a.toNat = a := by simp

theorem ofInt_sub (w : Nat) (x y : Int) : BitVec.ofInt w (x - y) = BitVec.ofInt w x - BitVec.ofInt w y := by
  rw [Int.sub_eq_add_neg, BitVec.ofInt_add, BitVec.ofInt_neg, BitVec.sub_eq_add_neg]

/-- A result modulo 2^w, sign-extended, is its word of w bits sign-extended (R130). -/
theorem sextResult_eq (w : Nat) (x : Int) : sextResult w x = (BitVec.ofInt w x).signExtend 64 := by
  have hword : BitVec.ofNat w (wrapNat w x) = BitVec.ofInt w x := by
    apply BitVec.eq_of_toNat_eq
    rw [BitVec.toNat_ofNat, BitVec.toNat_ofInt, wrapNat, Nat.mod_eq_of_lt]
    have hpos : (0 : Int) < (2 ^ w : Nat) := by exact_mod_cast Nat.two_pow_pos w
    have h0 := Int.emod_nonneg x hpos.ne'
    have h1 := Int.emod_lt_of_pos x hpos
    omega
  rw [sextResult, sext64, hword]

theorem lowBits_eq (w : Nat) (x : W64) : lowBits w x = (x.setWidth w).toNat := (BitVec.toNat_setWidth w x).symm

/-! ## From an operation on numbers to the register that it writes (R129, R130) -/

/-- At every width the model's function on numbers computes an operation on words. -/
def Computes (f : Nat → Nat → Nat → Nat → Int) (g : {w : Nat} → BitVec w → BitVec w → BitVec w → BitVec w) : Prop :=
  ∀ (w : Nat) (a b c : BitVec w), BitVec.ofInt w (f w a.toNat b.toNat c.toNat) = g a b c

/-- The same of a function of two operands. -/
def Computes2 (f : Nat → Nat → Nat → Int) (g : {w : Nat} → BitVec w → BitVec w → BitVec w) : Prop :=
  ∀ (w : Nat) (a b : BitVec w), BitVec.ofInt w (f w a.toNat b.toNat) = g a b

section Values

variable {f : Nat → Nat → Nat → Nat → Int} {g : {w : Nat} → BitVec w → BitVec w → BitVec w → BitVec w}
  {f2 : Nat → Nat → Nat → Int} {g2 : {w : Nat} → BitVec w → BitVec w → BitVec w}

/-- The value that the model writes is the operation at the width of TY. -/
theorem Computes.sextResult_widthOf (h : Computes f g) (ty : Nat) (x y z : W64) :
    sextResult (widthOf ty) (f (widthOf ty) (lowBits (widthOf ty) x) (lowBits (widthOf ty) y) (lowBits (widthOf ty) z)) = atTy3 ty g x y z := by
  unfold atTy3
  by_cases ht : ty = 1
  · rw [if_pos ht, show widthOf ty = 32 from if_pos ht, sextResult_eq, lowBits_eq, lowBits_eq, lowBits_eq, h]
  · rw [if_neg ht, show widthOf ty = 64 from if_neg ht, sextResult_eq, lowBits_eq, lowBits_eq, lowBits_eq, h]
    simp only [BitVec.setWidth_eq, BitVec.signExtend_eq]

theorem Computes2.two (h : Computes2 f2 g2) : Computes (two f2) (fun a b _ => g2 a b) := fun w a b _ => h w a b

theorem Computes.regVal_eq (h : Computes f g) (r : RArgs) :
    regVal f r = fun s => atTy3 r.ty g (s.thr.getS r.a) (s.thr.getS r.b) (s.thr.getS r.c) :=
  funext fun _ => h.sextResult_widthOf r.ty _ _ _

theorem Computes2.immVal_eq (h : Computes2 f2 g2) (i : IArgs) :
    immVal f2 i = fun s => atTy (i.b % 8) g2 (s.thr.getS i.a) (imm32 i.imm) :=
  funext fun _ => h.two.sextResult_widthOf (i.b % 8) _ _ 0

end Values

/-- The check, the write and its settle, and the settle's fault of an instruction that writes one scalar register (R129). -/
theorem writesS_of_scalarOp {i : Instr} {len d : Nat} {x : State → W64} (h : ∀ s, exec i s = finishA len s (scalarOp d x s)) :
    WritesS i len d x := by
  refine fun s => ⟨fun t hc hw => ?written, fun n hd hl => ?bound, fun e hc hw => ?overflow⟩
  case written =>
    have body : scalarOp d x s = .ok (s.setThr t) := by unfold scalarOp State.writeS; rw [hc, hw]; rfl
    rw [h, body, finishA_ok]; rfl
  case bound =>
    have refused : s.thr.checkDest d = .error (.trap ⟨.boundWrite, 0, n⟩) := by unfold Thread.checkDest; rw [if_neg hd, hl]; rfl
    have body : scalarOp d x s = .error (.trap ⟨.boundWrite, 0, n⟩) := by unfold scalarOp; rw [refused]; rfl
    rw [h, body, finishA_error, finishTo_trap]
  case overflow =>
    have body : scalarOp d x s = .error (.trap e) := by unfold scalarOp State.writeS; rw [hc, hw]; rfl
    rw [h, body, finishA_error, finishTo_trap]

theorem writesS_mulR {i : Instr} {fn : Nat} {r : RArgs} {f : Nat → Nat → Nat → Nat → Int} (hi : ∀ s, exec i s = execReg f r s)
    (hf : Computes f (mul fn)) : WritesS i 8 r.d (mulR fn r) := by
  have h : WritesS i 8 r.d (regVal f r) := writesS_of_scalarOp hi
  rwa [hf.regVal_eq] at h

theorem writesS_aluR {i : Instr} {fn : Nat} {r : RArgs} {f : Nat → Nat → Nat → Int} (hi : ∀ s, exec i s = execReg (two f) r s)
    (hf : Computes2 f (alu fn)) : WritesS i 8 r.d (aluR fn r) := by
  have h : WritesS i 8 r.d (regVal (two f) r) := writesS_of_scalarOp hi
  rwa [hf.two.regVal_eq] at h

theorem writesS_aluI {x : Instr} {fn : Nat} {i : IArgs} {f : Nat → Nat → Nat → Int} (hi : ∀ s, exec x s = execImm f i s)
    (hf : Computes2 f (alu fn)) : WritesS x 8 i.d (aluI fn i) := by
  have h : WritesS x 8 i.d (immVal f i) := writesS_of_scalarOp hi
  rwa [hf.immVal_eq] at h

/-! ## The operations of IALU and IALUI (R102, R130) -/

theorem computes_add : Computes2 aluAdd (alu 0) := fun _ a b => by
  show BitVec.ofInt _ (a.toNat + b.toNat) = a + b
  rw [BitVec.ofInt_add, ofInt_toNat, ofInt_toNat]

theorem computes_sub : Computes2 aluSub (alu 1) := fun _ a b => by
  show BitVec.ofInt _ (a.toNat - b.toNat) = a - b
  rw [ofInt_sub, ofInt_toNat, ofInt_toNat]

theorem computes_and : Computes2 aluAnd (alu 2) := fun _ a b => by
  have hn : Nat.land a.toNat b.toNat = (a &&& b).toNat := BitVec.toNat_and a b |>.symm
  rw [aluAnd, hn]; exact ofInt_toNat _

theorem computes_or : Computes2 aluOr (alu 3) := fun _ a b => by
  have hn : Nat.lor a.toNat b.toNat = (a ||| b).toNat := BitVec.toNat_or a b |>.symm
  rw [aluOr, hn]; exact ofInt_toNat _

theorem computes_xor : Computes2 aluXor (alu 4) := fun _ a b => by
  have hn : Nat.xor a.toNat b.toNat = (a ^^^ b).toNat := BitVec.toNat_xor a b |>.symm
  rw [aluXor, hn]; exact ofInt_toNat _

theorem computes_andn : Computes2 aluAndn (alu 5) := fun w a b => by
  have hn : 2 ^ w - 1 - b.toNat = (~~~b).toNat := BitVec.toNat_not.symm
  rw [aluAndn, hn]; exact computes_and w a (~~~b)

theorem computes_shl : Computes2 aluShl (alu 6) := fun w a b => by
  show BitVec.ofInt w (a.toNat * 2 ^ (b.toNat % w)) = a <<< (b.toNat % w)
  rw [BitVec.shiftLeft_eq_mul_twoPow, BitVec.ofInt_mul, ofInt_toNat]
  congr 1
  exact BitVec.eq_of_toNat_eq (by rw [BitVec.toNat_ofInt, BitVec.toNat_twoPow]; norm_cast)

theorem computes_shr : Computes2 aluShr (alu 7) := fun w a b => by
  have hn : ((a.toNat : Int) / 2 ^ (b.toNat % w)) = (a >>> (b.toNat % w)).toNat := by
    rw [BitVec.toNat_ushiftRight, Nat.shiftRight_eq_div_pow]; norm_cast
  rw [aluShr, hn]; exact ofInt_toNat _

theorem computes_sar : Computes2 aluSar (alu 8) := fun w a b => by
  have hn : a.toInt / (2 ^ (b.toNat % w) : Nat) = (a.sshiftRight (b.toNat % w)).toInt := by
    rw [BitVec.toInt_sshiftRight, Int.shiftRight_eq_div_pow]
  rw [aluSar, toSigned_toNat, hn]; exact BitVec.ofInt_toInt

/-- The bits that a rotation by fewer than w places carries over the top come back in the places that it has freed. -/
theorem rotateLeft_toNat {w : Nat} (a : BitVec w) {n : Nat} (h : n < w) :
    (a.rotateLeft n).toNat = a.toNat * 2 ^ n % 2 ^ w + a.toNat * 2 ^ n / 2 ^ w := by
  have hpow : 2 ^ w = 2 ^ (w - n) * 2 ^ n := by rw [← Nat.pow_add, Nat.sub_add_cancel h.le]
  have hlow : a.toNat / 2 ^ (w - n) < 2 ^ n := Nat.div_lt_of_lt_mul (hpow ▸ a.isLt)
  rw [BitVec.toNat_rotateLeft, Nat.mod_eq_of_lt h, Nat.shiftLeft_eq, Nat.shiftRight_eq_div_pow, hpow, Nat.mul_mod_mul_right,
    Nat.mul_div_mul_right _ _ (Nat.two_pow_pos n), Nat.mul_comm _ (2 ^ n), Nat.two_pow_add_eq_or_of_lt hlow]

theorem computes_rotl : Computes2 aluRotl (alu 9) := fun w a b => by
  cases w with
  | zero => exact Subsingleton.elim _ _
  | succ k =>
    have hn : (a.toNat : Int) * 2 ^ (b.toNat % (k + 1)) % 2 ^ (k + 1) + a.toNat * 2 ^ (b.toNat % (k + 1)) / 2 ^ (k + 1) =
        (a.rotateLeft (b.toNat % (k + 1))).toNat := by
      rw [rotateLeft_toNat a (Nat.mod_lt _ k.succ_pos)]; norm_cast
    have hmod : a.rotateLeft (b.toNat % (k + 1)) = a.rotateLeft b.toNat := by simp [BitVec.rotateLeft_def]
    rw [aluRotl, hn, ofInt_toNat]; rfl

theorem computes_min : Computes2 aluMin (alu 10) := fun w a b => by
  show BitVec.ofInt w (min (toSigned w a.toNat) (toSigned w b.toNat)) = if a.sle b then a else b
  rw [toSigned_toNat, toSigned_toNat, min_def]
  simp only [BitVec.sle_iff_toInt_le]
  split <;> exact BitVec.ofInt_toInt

theorem computes_max : Computes2 aluMax (alu 11) := fun w a b => by
  show BitVec.ofInt w (max (toSigned w a.toNat) (toSigned w b.toNat)) = if a.sle b then b else a
  rw [toSigned_toNat, toSigned_toNat, max_def]
  simp only [BitVec.sle_iff_toInt_le]
  split <;> exact BitVec.ofInt_toInt

theorem computes_minn : Computes2 aluMinn (alu 12) := fun w a b => by
  show BitVec.ofInt w (min (a.toNat : Int) b.toNat) = if a.ule b then a else b
  rw [min_def]
  simp only [BitVec.ule_iff_toNat_le, Int.ofNat_le]
  split <;> exact ofInt_toNat _

theorem computes_maxn : Computes2 aluMaxn (alu 13) := fun w a b => by
  show BitVec.ofInt w (max (a.toNat : Int) b.toNat) = if a.ule b then b else a
  rw [max_def]
  simp only [BitVec.ule_iff_toNat_le, Int.ofNat_le]
  split <;> exact ofInt_toNat _

/-- The model's clamp bounds from below and from above by the signed range. -/
theorem clampS_eq (w : Nat) (x : Int) : clampS w x = max (-2 ^ (w - 1)) (min (2 ^ (w - 1) - 1) x) := by
  unfold clampS
  push_cast
  have hpos : (0 : Int) < 2 ^ (w - 1) := by positivity
  generalize (2 : Int) ^ (w - 1) = p at *
  split_ifs <;> omega

theorem computes_addsat : Computes2 aluAddsat (alu 14) := fun w a b => by
  rw [aluAddsat, toSigned_toNat, toSigned_toNat, clampS_eq]; rfl

theorem computes_subsat : Computes2 aluSubsat (alu 15) := fun w a b => by
  rw [aluSubsat, toSigned_toNat, toSigned_toNat, clampS_eq]; rfl

/-! ## The operations of IMUL (R101, R131) -/

theorem computes_mul : Computes mulMul (mul 0) := fun w a b _ => by
  show BitVec.ofInt w (a.toNat * b.toNat) = a * b
  rw [BitVec.ofInt_mul, ofInt_toNat, ofInt_toNat]

theorem computes_mulhs : Computes mulHs (mul 1) := fun w a b _ => by
  rw [mulHs, toSigned_toNat, toSigned_toNat, Nat.cast_pow]; rfl

theorem computes_mulhn : Computes mulHn (mul 2) := fun w a b _ => by
  have hn : (a.toNat : Int) * b.toNat / 2 ^ w = (a.toNat * b.toNat / 2 ^ w : Nat) := by norm_cast
  rw [mulHn, hn, BitVec.ofInt_natCast]; rfl

theorem computes_madd : Computes mulMadd (mul 3) := fun w a b c => by
  show BitVec.ofInt w (a.toNat * b.toNat + c.toNat) = a * b + c
  rw [BitVec.ofInt_add, BitVec.ofInt_mul, ofInt_toNat, ofInt_toNat, ofInt_toNat]

theorem computes_msub : Computes mulMsub (mul 4) := fun w a b c => by
  show BitVec.ofInt w (c.toNat - a.toNat * b.toNat) = c - a * b
  rw [ofInt_sub, BitVec.ofInt_mul, ofInt_toNat, ofInt_toNat, ofInt_toNat]

theorem toNat_eq_zero_iff {w : Nat} (b : BitVec w) : b.toNat = 0 ↔ b = 0 := by
  rw [← BitVec.toNat_inj]; simp

/-- Every quotient of signed words is the word of the integers' quotient rounded to zero: MIN by -1 too, whose quotient wraps to MIN (R101). -/
theorem ofInt_tdiv {w : Nat} (a b : BitVec w) : BitVec.ofInt w (a.toInt.tdiv b.toInt) = a.sdiv b := by
  rw [← BitVec.toInt_inj, BitVec.toInt_ofInt, BitVec.toInt_sdiv]

theorem computes_divs : Computes mulDivs (mul 5) := fun w a b _ => by
  show BitVec.ofInt w (if b.toNat = 0 then -1 else (toSigned w a.toNat).tdiv (toSigned w b.toNat)) =
    if b = 0 then BitVec.allOnes w else a.sdiv b
  simp only [toNat_eq_zero_iff]
  split
  · rw [← BitVec.neg_one_eq_allOnes]; exact BitVec.ofInt_neg
  · rw [toSigned_toNat, toSigned_toNat, ofInt_tdiv]

theorem computes_divn : Computes mulDivn (mul 6) := fun w a b _ => by
  show BitVec.ofInt w (if b.toNat = 0 then 2 ^ w - 1 else a.toNat / b.toNat) = if b = 0 then BitVec.allOnes w else a / b
  simp only [toNat_eq_zero_iff]
  split
  · have hn : (2 : Int) ^ w - 1 = (BitVec.allOnes w).toNat := by
      rw [BitVec.toNat_allOnes, Nat.cast_sub Nat.one_le_two_pow]; norm_cast
    rw [hn, ofInt_toNat]
  · rw [← Int.natCast_ediv, ← BitVec.toNat_udiv, ofInt_toNat]

theorem computes_rems : Computes mulRems (mul 7) := fun w a b _ => by
  show BitVec.ofInt w (if b.toNat = 0 then (a.toNat : Int) else (toSigned w a.toNat).tmod (toSigned w b.toNat)) =
    if b = 0 then a else a.srem b
  simp only [toNat_eq_zero_iff]
  split
  · exact ofInt_toNat a
  · rw [toSigned_toNat, toSigned_toNat, ← BitVec.toInt_srem, BitVec.ofInt_toInt]

theorem computes_remn : Computes mulRemn (mul 8) := fun w a b _ => by
  show BitVec.ofInt w (if b.toNat = 0 then (a.toNat : Int) else a.toNat % b.toNat) = if b = 0 then a else a % b
  simp only [toNat_eq_zero_iff]
  split
  · exact ofInt_toNat a
  · rw [← Int.natCast_emod, ← BitVec.toNat_umod, ofInt_toNat]

/-! ## Reserved fields and unassigned FN values -/

/-- Among fields that must each be zero, one that is not makes the decoder answer RESERVED_FIELD (R53). -/
theorem firstErr_rsv {bs : List Bool} (h : true ∈ bs) : firstErr (bs.map rsv) = some ⟨.reservedField, 0⟩ := by
  induction bs with
  | nil => exact nomatch h
  | cons b bs ih =>
    cases b with
    | true => rfl
    | false => exact ih ((List.mem_cons.1 h).resolve_left nofun)

/-- The reserved fields of the integer instructions of format R: C is one where the instruction does not read it. -/
theorem intR_reserved {r : RArgs} {useC : Bool} (h : 1 < r.ty ∨ r.rm ≠ 0 ∨ r.msk ≠ 0 ∨ r.x16 ≠ 0 ∨ (useC = false ∧ r.c ≠ 0)) :
    intR r useC = some ⟨.reservedField, 0⟩ := by
  refine firstErr_rsv (bs := [decide (1 < r.ty), !useC && nz r.c, nz r.msk, nz r.rm, nz r.x16]) ?_
  simp only [List.mem_cons, List.not_mem_nil, or_false, nz, Bool.true_eq, Bool.and_eq_true, Bool.not_eq_true',
    decide_eq_true_eq]
  tauto

theorem intI_reserved {i : IArgs} (h : 1 < i.b % 8) : intI i = some ⟨.reservedField, 0⟩ := by
  refine firstErr_rsv (bs := [nz (i.b / 8), decide (1 < i.b % 8)]) ?_
  rw [decide_eq_true h]; exact .tail _ (.head _)

theorem ialuForms_fieldFault (r : RArgs) : ∀ i ∈ ialuForms r, i.fieldFault = intR r false :=
  List.forall_iff_forall_mem.1 ⟨rfl, rfl, rfl, rfl, rfl, rfl, rfl, rfl, rfl, rfl, rfl, rfl, rfl, rfl, rfl, rfl⟩

theorem ialuiForms_fieldFault (i : IArgs) : ∀ x ∈ ialuiForms i, x.fieldFault = intI i :=
  List.forall_iff_forall_mem.1 ⟨rfl, rfl, rfl, rfl, rfl, rfl, rfl, rfl, rfl, rfl, rfl, rfl, rfl, rfl, rfl, rfl⟩

/-- The forms of IMUL without a third operand. -/
theorem imulForms_fieldFault (r : RArgs) :
    ∀ i ∈ [Instr.imulMul r, .imulMulhs r, .imulMulhn r, .imulDivs r, .imulDivn r, .imulRems r, .imulRemn r], i.fieldFault = intR r false :=
  List.forall_iff_forall_mem.1 ⟨rfl, rfl, rfl, rfl, rfl, rfl, rfl⟩

/-- IMUL lists FN 0 to 8 only (R131). -/
theorem illegal_imul {fn : Nat} (h : 9 ≤ fn) : Illegal 0 0 4 fn := by
  obtain ⟨k, rfl⟩ := Nat.exists_eq_add_of_le' h
  exact illegal_of_mapA8 (by decide) fun _ _ _ _ => rfl

/-! ## The statement -/

theorem ialuResults : IaluResults := by
  unfold IaluResults
  refine ⟨fun r => ⟨
    writesS_aluR (fun _ => rfl) computes_add,
    writesS_aluR (fun _ => rfl) computes_sub,
    writesS_aluR (fun _ => rfl) computes_and,
    writesS_aluR (fun _ => rfl) computes_or,
    writesS_aluR (fun _ => rfl) computes_xor,
    writesS_aluR (fun _ => rfl) computes_andn,
    writesS_aluR (fun _ => rfl) computes_shl,
    writesS_aluR (fun _ => rfl) computes_shr,
    writesS_aluR (fun _ => rfl) computes_sar,
    writesS_aluR (fun _ => rfl) computes_rotl,
    writesS_aluR (fun _ => rfl) computes_min,
    writesS_aluR (fun _ => rfl) computes_max,
    writesS_aluR (fun _ => rfl) computes_minn,
    writesS_aluR (fun _ => rfl) computes_maxn,
    writesS_aluR (fun _ => rfl) computes_addsat,
    writesS_aluR (fun _ => rfl) computes_subsat,
    fun h i hi => ?reservedR⟩, fun i => ⟨
    writesS_aluI (fun _ => rfl) computes_add,
    writesS_aluI (fun _ => rfl) computes_sub,
    writesS_aluI (fun _ => rfl) computes_and,
    writesS_aluI (fun _ => rfl) computes_or,
    writesS_aluI (fun _ => rfl) computes_xor,
    writesS_aluI (fun _ => rfl) computes_andn,
    writesS_aluI (fun _ => rfl) computes_shl,
    writesS_aluI (fun _ => rfl) computes_shr,
    writesS_aluI (fun _ => rfl) computes_sar,
    writesS_aluI (fun _ => rfl) computes_rotl,
    writesS_aluI (fun _ => rfl) computes_min,
    writesS_aluI (fun _ => rfl) computes_max,
    writesS_aluI (fun _ => rfl) computes_minn,
    writesS_aluI (fun _ => rfl) computes_maxn,
    writesS_aluI (fun _ => rfl) computes_addsat,
    writesS_aluI (fun _ => rfl) computes_subsat,
    fun h x hx => ?reservedI⟩⟩
  case reservedR => exact (ialuForms_fieldFault r i hi).trans (intR_reserved (.inl h))
  case reservedI => exact (ialuiForms_fieldFault i x hx).trans (intI_reserved h)

theorem imulResults : ImulResults := by
  unfold ImulResults
  refine ⟨fun r => ⟨
    writesS_mulR (fun _ => rfl) computes_mul,
    writesS_mulR (fun _ => rfl) computes_mulhs,
    writesS_mulR (fun _ => rfl) computes_mulhn,
    writesS_mulR (fun _ => rfl) computes_madd,
    writesS_mulR (fun _ => rfl) computes_msub,
    writesS_mulR (fun _ => rfl) computes_divs,
    writesS_mulR (fun _ => rfl) computes_divn,
    writesS_mulR (fun _ => rfl) computes_rems,
    writesS_mulR (fun _ => rfl) computes_remn,
    fun h => ?reservedThree, fun h i hi => ?reservedTwo⟩, fun _ => illegal_imul⟩
  case reservedThree =>
    have hr : intR r true = some ⟨.reservedField, 0⟩ := intR_reserved (by tauto)
    exact ⟨hr, hr⟩
  case reservedTwo => exact (imulForms_fieldFault r i hi).trans (intR_reserved (by tauto))

/-- Settles O1: each form writes the word of the number that the model computes, and that word is the operation of the statement. -/
theorem integerArithmetic : Obligations.IntegerArithmetic := by
  unfold Obligations.IntegerArithmetic
  exact ⟨ialuResults, imulResults⟩

end Sys2Proof.Machine
end

section
/-! SUPPORT. ICMP, ICMPI, SEL, LI and LI64 (R132, R135, R136): the conditions on numbers are the conditions on words of the width of TY,
the constants put together from two words; reserved fields and unassigned FN values; the statement about them. -/

namespace Sys2Proof.Machine

open Sys2Proof.Claims

/-! ## Conditions (R132) -/

/-- A condition on the numbers of two words is the condition on the words. -/
theorem condHolds_toNat (fn : Nat) {w : Nat} (a b : BitVec w) : condHolds fn w a.toNat b.toNat = cmp fn a b := by
  match fn with
  | 0 => exact decide_eq_decide.2 BitVec.toNat_inj
  | 1 => exact decide_eq_decide.2 BitVec.toNat_inj.not
  | 2 => rw [condHolds, toSigned_toNat, toSigned_toNat]; rfl
  | 3 => rw [condHolds, toSigned_toNat, toSigned_toNat]; rfl
  | 4 => rfl
  | _ + 5 => rfl

/-- The condition that the model tests is the one at the width of TY. -/
theorem condHolds_widthOf (fn ty : Nat) (x y : W64) :
    condHolds fn (widthOf ty) (lowBits (widthOf ty) x) (lowBits (widthOf ty) y) =
      if ty = 1 then cmp fn (x.setWidth 32) (y.setWidth 32) else cmp fn x y := by
  rw [lowBits_eq, lowBits_eq, condHolds_toNat]
  by_cases ht : ty = 1
  · rw [if_pos ht, show widthOf ty = 32 from if_pos ht]
  · rw [if_neg ht, show widthOf ty = 64 from if_neg ht, BitVec.setWidth_eq, BitVec.setWidth_eq]

theorem icmpVal_eq (fn : Nat) (r : RArgs) :
    icmpVal fn r = fun s => if (if r.ty = 1 then cmp fn ((s.thr.getS r.a).setWidth 32) ((s.thr.getS r.b).setWidth 32)
      else cmp fn (s.thr.getS r.a) (s.thr.getS r.b)) then 1 else 0 :=
  funext fun s => by rw [← condHolds_widthOf]; rfl

theorem icmpiVal_eq (fn : Nat) (i : IArgs) :
    icmpiVal fn i = fun s => if (if i.b % 8 = 1 then cmp fn ((s.thr.getS i.a).setWidth 32) ((imm32 i.imm).setWidth 32)
      else cmp fn (s.thr.getS i.a) (imm32 i.imm)) then 1 else 0 :=
  funext fun s => by rw [← condHolds_widthOf]; rfl

theorem writesS_icmp (fn : Nat) (r : RArgs) : WritesS (.icmp fn r) 8 r.d fun s =>
    if (if r.ty = 1 then cmp fn ((s.thr.getS r.a).setWidth 32) ((s.thr.getS r.b).setWidth 32)
      else cmp fn (s.thr.getS r.a) (s.thr.getS r.b)) then 1 else 0 :=
  icmpVal_eq fn r ▸ writesS_of_scalarOp fun _ => rfl

theorem writesS_icmpi (fn : Nat) (i : IArgs) : WritesS (.icmpi fn i) 8 i.d fun s =>
    if (if i.b % 8 = 1 then cmp fn ((s.thr.getS i.a).setWidth 32) ((imm32 i.imm).setWidth 32)
      else cmp fn (s.thr.getS i.a) (imm32 i.imm)) then 1 else 0 :=
  icmpiVal_eq fn i ▸ writesS_of_scalarOp fun _ => rfl

/-! ## Constants (R136) -/

/-- Two words side by side are one word, of the number with the first as its high half. -/
theorem ofNat_halves (hi lo : W32) : BitVec.ofNat 64 (hi.toNat * 2 ^ 32 + lo.toNat) = hi.append lo := by
  have hlo := lo.isLt
  have hhi := hi.isLt
  have happ : (hi.append lo).toNat = hi.toNat * 2 ^ 32 + lo.toNat := by
    rw [← Nat.shiftLeft_eq, Nat.shiftLeft_add_eq_or_of_lt hlo]; exact BitVec.toNat_append hi lo
  exact BitVec.eq_of_toNat_eq (by rw [BitVec.toNat_ofNat, happ]; omega)

theorem lihVal_eq {i : IArgs} (h : i.imm < 2 ^ 32) :
    lihVal i = fun s : State => (BitVec.ofNat 32 i.imm).append ((s.thr.getS i.a).setWidth 32) :=
  funext fun s => by
    rw [← ofNat_halves, BitVec.toNat_ofNat, Nat.mod_eq_of_lt h, ← lowBits_eq]; rfl

theorem li64Val_eq {l : LArgs} (hlo : l.i.imm < 2 ^ 32) (hhi : l.ext < 2 ^ 32) :
    li64Val l = fun _ => (BitVec.ofNat 32 l.ext).append (BitVec.ofNat 32 l.i.imm) :=
  funext fun _ => by
    rw [← ofNat_halves, BitVec.toNat_ofNat, BitVec.toNat_ofNat, Nat.mod_eq_of_lt hlo, Nat.mod_eq_of_lt hhi, Nat.add_comm]; rfl

theorem writesS_lih {i : IArgs} (h : i.imm < 2 ^ 32) :
    WritesS (.liLih i) 8 i.d fun s => (BitVec.ofNat 32 i.imm).append ((s.thr.getS i.a).setWidth 32) :=
  lihVal_eq h ▸ writesS_of_scalarOp fun _ => rfl

theorem writesS_li64 {l : LArgs} (hlo : l.i.imm < 2 ^ 32) (hhi : l.ext < 2 ^ 32) :
    WritesS (.li64 l) 12 l.i.d fun _ => (BitVec.ofNat 32 l.ext).append (BitVec.ofNat 32 l.i.imm) :=
  li64Val_eq hlo hhi ▸ writesS_of_scalarOp fun _ => rfl

/-! ## Reserved fields and unassigned FN values -/

theorem nz_of_ne {n : Nat} (h : n ≠ 0) : true = nz n := (decide_eq_true h).symm

/-- SEL uses its registers only. -/
theorem sel_reserved {r : RArgs} (h : r.ty ≠ 0 ∨ r.rm ≠ 0 ∨ r.msk ≠ 0 ∨ r.x16 ≠ 0) : Reserved (.sel r) := by
  refine firstErr_rsv (bs := [false, false, false, false, nz r.msk, nz r.ty, nz r.rm, nz r.x16]) ?_
  simp only [List.mem_cons, List.not_mem_nil, nz, Bool.true_eq, decide_eq_true_eq]
  tauto

/-- Two fields that must be zero. -/
theorem firstErr_two {m n : Nat} (h : m ≠ 0 ∨ n ≠ 0) : firstErr [rsv (nz m), rsv (nz n)] = some ⟨.reservedField, 0⟩ :=
  firstErr_rsv (bs := [nz m, nz n]) (List.mem_pair.2 (h.imp nz_of_ne nz_of_ne))

theorem liLi_reserved {i : IArgs} (h : i.a ≠ 0 ∨ i.b ≠ 0) : Reserved (.liLi i) := firstErr_two h
theorem liAddpc_reserved {i : IArgs} (h : i.a ≠ 0 ∨ i.b ≠ 0) : Reserved (.liAddpc i) := firstErr_two h
theorem li64_reserved {l : LArgs} (h : l.i.a ≠ 0 ∨ l.i.b ≠ 0) : Reserved (.li64 l) := firstErr_two h
theorem liLih_reserved {i : IArgs} (h : i.b ≠ 0) : Reserved (.liLih i) :=
  firstErr_rsv (bs := [nz i.b]) (List.mem_singleton.2 (nz_of_ne h))

/-- Outside the hint region an FN that the 12-byte A-stream map does not list is illegal. -/
theorem illegal_of_mapA12 {op fn : Nat} (ho : op < 112) (h : ∀ r i e, mapA12 op fn r i e = none) : Illegal 1 0 op fn := by
  rintro w0 w1 e hl hs rfl rfl
  refine decode_of_no_entry ?_
  simp [entryOf, hl, hs, Nat.not_le_of_lt ho, h]

/-- ICMP and ICMPI list FN 0 to 5 only (R132). -/
theorem illegal_icmp_icmpi {fn : Nat} (h : 6 ≤ fn) : Illegal 0 0 5 fn ∧ Illegal 0 0 6 fn :=
  ⟨illegal_of_mapA8 (by decide) fun _ _ _ _ => if_neg (Nat.not_le_of_lt h),
    illegal_of_mapA8 (by decide) fun _ _ _ _ => if_neg (Nat.not_le_of_lt h)⟩

/-- SEL and LI64 list FN 0 only (R135, R136). -/
theorem illegal_sel_li64 {fn : Nat} (h : 1 ≤ fn) : Illegal 0 0 8 fn ∧ Illegal 1 0 9 fn := by
  obtain ⟨k, rfl⟩ := Nat.exists_eq_add_of_le' h
  exact ⟨illegal_of_mapA8 (by decide) fun _ _ _ _ => rfl, illegal_of_mapA12 (by decide) fun _ _ _ => rfl⟩

/-- LI lists FN 0 to 2 only (R136). -/
theorem illegal_li {fn : Nat} (h : 3 ≤ fn) : Illegal 0 0 9 fn := by
  obtain ⟨k, rfl⟩ := Nat.exists_eq_add_of_le' h
  exact illegal_of_mapA8 (by decide) fun _ _ _ _ => rfl

/-! ## The statement -/

/-- Settles O2: each form writes the value that the statement gives, and the decoder refuses what it does not list. -/
theorem compareSelectConstant : Obligations.CompareSelectConstant := by
  unfold Obligations.CompareSelectConstant
  refine ⟨writesS_icmp, writesS_icmpi, fun _ => illegal_icmp_icmpi, fun _ => writesS_of_scalarOp fun _ => rfl, fun _ => sel_reserved,
    fun _ => illegal_sel_li64, fun _ => writesS_of_scalarOp fun _ => rfl, fun _ => writesS_lih, fun _ => writesS_of_scalarOp fun _ => rfl,
    fun _ => writesS_li64, fun i h => ?reservedB, fun i h => ?reservedA, fun _ => li64_reserved, fun _ => illegal_li⟩
  case reservedB => exact ⟨liLi_reserved (.inr h), liLih_reserved h, liAddpc_reserved (.inr h)⟩
  case reservedA => exact ⟨liLi_reserved (.inl h), liAddpc_reserved (.inl h)⟩

end Sys2Proof.Machine
end

section
/-! SUPPORT. BITS and LANE (R133, R134, R137): the counts, reversals and fields that the model computes with numbers are the words that the
operations of the statement give; reserved fields and unassigned FN values; the statement about them. -/

namespace Sys2Proof.Machine

open Sys2Proof.Claims

/-! ## From a function on numbers to the register that BITS writes -/

/-- The value that the model writes, where its function computes the operation at the width of TY: that of BSWAP does so only at widths of
whole bytes, so that `Computes`, which is about every width, does not hold of it. -/
theorem sextResult_widthOf {f : Nat → Nat → Nat → Nat → Int} {g : {w : Nat} → BitVec w → BitVec w → BitVec w} {ty : Nat}
    (h : ∀ a b c : BitVec (widthOf ty), BitVec.ofInt _ (f (widthOf ty) a.toNat b.toNat c.toNat) = g a b) (x y z : W64) :
    sextResult (widthOf ty) (f (widthOf ty) (lowBits (widthOf ty) x) (lowBits (widthOf ty) y) (lowBits (widthOf ty) z)) = atTy ty g x y := by
  rw [sextResult_eq, lowBits_eq, lowBits_eq, lowBits_eq, h, atTy]
  by_cases ht : ty = 1
  · rw [if_pos ht, show widthOf ty = 32 from if_pos ht]
  · rw [if_neg ht, show widthOf ty = 64 from if_neg ht, BitVec.setWidth_eq, BitVec.setWidth_eq, BitVec.signExtend_eq]

theorem writesS_bitsR {i : Instr} {fn : Nat} {r : RArgs} {f : Nat → Nat → Nat → Nat → Int} (hi : ∀ s, exec i s = execReg f r s)
    (hf : ∀ a b c : BitVec (widthOf r.ty), BitVec.ofInt _ (f (widthOf r.ty) a.toNat b.toNat c.toNat) =
      bitsOp fn (bitsPos r) (bitsLen r) a b) : WritesS i 8 r.d (bitsR fn r) := by
  have hval : regVal f r = bitsR fn r := funext fun _ => sextResult_widthOf hf _ _ _
  exact hval ▸ writesS_of_scalarOp hi

/-! ## Counts of bits -/

/-- A run of numbers from 0 on is as long as the number at which it stops: where the condition fails, or where the range ends. -/
theorem length_takeWhile_range {p : Nat → Bool} {n w : Nat} (hn : n ≤ w) (hlt : ∀ i < n, p i = true) (hend : n < w → p n = false) :
    ((List.range w).takeWhile p).length = n := by
  obtain ⟨k, rfl⟩ := Nat.exists_eq_add_of_le hn
  have hrest : ((List.range k).map (n + ·)).takeWhile p = [] := by
    cases k with
    | zero => rfl
    | succ k => simp [List.range_succ_eq_map, hend (by omega)]
  rw [List.range_add, List.takeWhile_append_of_pos fun i hi => hlt i (List.mem_range.1 hi), hrest, List.append_nil, List.length_range]

/-- The bits above a number's logarithm are zero, and the bit at it is one. -/
theorem clz_eq {w : Nat} (a : BitVec w) : clz w a.toNat = ((List.range w).takeWhile fun i => !a.getLsbD (w - 1 - i)).length := by
  unfold clz
  symm
  split
  next h0 =>
    rw [(toNat_eq_zero_iff a).1 h0]
    exact length_takeWhile_range le_rfl (fun _ _ => by simp) fun h => absurd h (Nat.lt_irrefl w)
  next h0 =>
    have hlog : a.toNat.log2 < w := (Nat.log2_lt h0).2 a.isLt
    refine length_takeWhile_range (by omega) (fun i hi => ?above) fun _ => ?top
    case above =>
      have hlt : a.toNat < 2 ^ (w - 1 - i) := (Nat.log2_lt h0).1 (by omega)
      rw [← BitVec.testBit_toNat, Nat.testBit_lt_two_pow hlt, Bool.not_false]
    case top =>
      rw [show w - 1 - (w - 1 - a.toNat.log2) = a.toNat.log2 by omega, ← BitVec.testBit_toNat, Nat.testBit_log2 h0, Bool.not_true]

/-- The first one bit ends the run of zero bits below it. -/
theorem ctz_eq {w : Nat} (a : BitVec w) : ctz w a.toNat = ((List.range w).takeWhile fun i => !a.getLsbD i).length := by
  unfold ctz
  symm
  cases hf : (List.range w).find? fun i => bitOf a.toNat i with
  | none => exact length_takeWhile_range le_rfl (List.find?_range_eq_none.1 hf) fun h => absurd h (Nat.lt_irrefl w)
  | some n =>
    obtain ⟨hone, hmem, hzero⟩ := List.find?_range_eq_some.1 hf
    exact length_takeWhile_range (List.mem_range.1 hmem).le hzero fun _ => congrArg not hone

theorem popc_eq {w : Nat} (a : BitVec w) : popc w a.toNat = (List.range w).countP fun i => a.getLsbD i :=
  List.countP_eq_length_filter.symm

/-! ## Reversals -/

/-- A number and a list of bits that agree below w give one word of w bits. -/
theorem ofNat_eq_ofFnLE {w x : Nat} {f : Fin w → Bool} (h : ∀ i : Fin w, x.testBit i = f i) : BitVec.ofNat w x = BitVec.ofFnLE f :=
  BitVec.eq_of_getLsbD_eq fun i hi => by
    rw [BitVec.getLsbD_ofNat, BitVec.getLsbD_ofFnLE, dif_pos hi, decide_eq_true hi, Bool.true_and]; exact h ⟨i, hi⟩

/-- The number with the `n` digits `d 0`, `d 1`, ... of `m` bits, highest first. -/
def reversedDigits (m n : Nat) (d : Nat → Nat) : Nat := ((List.range n).map fun k => d k * 2 ^ (m * (n - 1 - k))).sum

theorem reversedDigits_succ (m n : Nat) (d : Nat → Nat) :
    reversedDigits m (n + 1) d = 2 ^ (m * n) * d 0 + reversedDigits m n fun k => d (k + 1) := by
  simp only [reversedDigits, List.range_succ_eq_map, List.map_cons, List.sum_cons, List.map_map, Nat.mul_comm (d 0)]
  congr 3
  funext k
  simp only [Function.comp_apply]
  congr 3
  omega

theorem reversedDigits_lt {m : Nat} (n : Nat) {d : Nat → Nat} (hd : ∀ k, d k < 2 ^ m) : reversedDigits m n d < 2 ^ (m * n) := by
  induction n generalizing d with
  | zero => simp [reversedDigits]
  | succ n ih =>
    have hrest := ih fun k => hd (k + 1)
    calc reversedDigits m (n + 1) d
        = 2 ^ (m * n) * d 0 + reversedDigits m n fun k => d (k + 1) := reversedDigits_succ m n d
      _ < 2 ^ (m * n) * (d 0 + 1) := by rw [Nat.mul_succ]; exact Nat.add_lt_add_left hrest _
      _ ≤ 2 ^ (m * n) * 2 ^ m := Nat.mul_le_mul_left _ (hd 0)
      _ = 2 ^ (m * (n + 1)) := by rw [Nat.mul_succ, Nat.pow_add]

/-- A bit of such a number is a bit of the digit at its place from the end. -/
theorem testBit_reversedDigits {m : Nat} (n : Nat) {d : Nat → Nat} (hd : ∀ k, d k < 2 ^ m) {i : Nat} (hi : i < m * n) :
    (reversedDigits m n d).testBit i = (d (n - 1 - i / m)).testBit (i % m) := by
  induction n generalizing d with
  | zero => exact absurd hi (Nat.not_lt_zero i)
  | succ n ih =>
    rw [reversedDigits_succ, Nat.testBit_two_pow_mul_add _ (reversedDigits_lt n fun k => hd (k + 1))]
    split
    next hlow =>
      have hdiv : i / m < n := Nat.div_lt_of_lt_mul hlow
      rw [ih (fun k => hd (k + 1)) hlow, show n - 1 - i / m + 1 = n + 1 - 1 - i / m by omega]
    next htop =>
      obtain ⟨j, rfl⟩ := Nat.exists_eq_add_of_le (Nat.le_of_not_lt htop)
      have hj : j < m := by rw [Nat.mul_succ] at hi; omega
      rw [Nat.mul_add_div (by omega), Nat.mul_add_mod, Nat.div_eq_of_lt hj, Nat.mod_eq_of_lt hj]
      simp

theorem brev_eq {w : Nat} (a : BitVec w) : BitVec.ofNat w (brev w a.toNat) = permute (fun i => w - 1 - i) a := by
  have hdigits : brev w a.toNat = reversedDigits 1 w fun i => (a.getLsbD i).toNat := by
    unfold brev reversedDigits
    congr 2
    funext i
    show (if a.getLsbD i then 2 ^ (w - 1 - i) else 0) = (a.getLsbD i).toNat * 2 ^ (1 * (w - 1 - i))
    cases a.getLsbD i <;> simp
  refine ofNat_eq_ofFnLE fun i => ?_
  rw [hdigits, testBit_reversedDigits w (fun k => Bool.toNat_lt _) (by omega), Nat.div_one, Nat.mod_one]
  cases a.getLsbD (w - 1 - i) <;> rfl

theorem bswap_eq {w : Nat} (hw : 8 ∣ w) (a : BitVec w) :
    BitVec.ofNat w (bswap w a.toNat) = permute (fun i => 8 * (w / 8 - 1 - i / 8) + i % 8) a := by
  refine ofNat_eq_ofFnLE fun i => ?_
  have hi : i.val < 8 * (w / 8) := by omega
  calc (bswap w a.toNat).testBit i
      = (reversedDigits 8 (w / 8) fun k => a.toNat / 2 ^ (8 * k) % 2 ^ 8).testBit i := rfl
    _ = (a.toNat / 2 ^ (8 * (w / 8 - 1 - i / 8)) % 2 ^ 8).testBit (i % 8) :=
        testBit_reversedDigits _ (fun k => Nat.mod_lt _ (by decide)) hi
    _ = a.getLsbD (8 * (w / 8 - 1 - i / 8) + i % 8) := by
        rw [Nat.testBit_mod_two_pow, decide_eq_true (Nat.mod_lt _ (by decide)), Bool.true_and, Nat.testBit_div_two_pow, Nat.add_comm,
          BitVec.testBit_toNat]

theorem eight_dvd_widthOf (ty : Nat) : 8 ∣ widthOf ty := by
  unfold widthOf; split <;> decide

/-! ## Fields (R133) -/

/-- The signed reading of the low bits of a word. -/
theorem toSigned_low {w : Nat} (len : Nat) (a : BitVec w) : toSigned len a.toNat = (a.setWidth len).toInt := by
  rw [← toSigned_toNat, BitVec.toNat_setWidth, toSigned, toSigned, Nat.mod_mod]

/-- A number with its field of `len` bits from `pos` on put in place of it. -/
theorem fnBfi_eq (pos len w a b c : Nat) :
    fnBfi pos len w a b c = (2 ^ pos * (2 ^ len * (a / 2 ^ pos / 2 ^ len) + b % 2 ^ len) + a % 2 ^ pos : Nat) := by
  have hlow : (2 ^ pos * (a / 2 ^ pos) + a % 2 ^ pos : Int) = a := by exact_mod_cast Nat.div_add_mod a (2 ^ pos)
  have hhigh : (2 ^ len * (a / 2 ^ pos / 2 ^ len) + a / 2 ^ pos % 2 ^ len : Int) = a / 2 ^ pos := by
    exact_mod_cast Nat.div_add_mod (a / 2 ^ pos) (2 ^ len)
  unfold fnBfi
  push_cast
  linear_combination -hlow - 2 ^ pos * hhigh

theorem bfi_eq {w : Nat} (pos len c : Nat) (a b : BitVec w) :
    BitVec.ofInt w (fnBfi pos len w a.toNat b.toNat c) =
      BitVec.ofFnLE fun i : Fin w => if pos ≤ i.val ∧ i.val < pos + len then b.getLsbD (i.val - pos) else a.getLsbD i.val := by
  rw [fnBfi_eq, BitVec.ofInt_natCast]
  refine ofNat_eq_ofFnLE fun i => ?_
  rw [Nat.testBit_two_pow_mul_add _ (Nat.mod_lt _ (Nat.two_pow_pos pos)),
    Nat.testBit_two_pow_mul_add _ (Nat.mod_lt _ (Nat.two_pow_pos len))]
  rcases lt_or_ge i.val pos with hbelow | hpos
  · rw [if_pos hbelow, if_neg (by omega), Nat.testBit_mod_two_pow, decide_eq_true hbelow, Bool.true_and, BitVec.testBit_toNat]
  · rw [if_neg (by omega)]
    rcases lt_or_ge (i.val - pos) len with hin | habove
    · rw [if_pos hin, if_pos (by omega), Nat.testBit_mod_two_pow, decide_eq_true hin, Bool.true_and, BitVec.testBit_toNat]
    · rw [if_neg (by omega), if_neg (by omega), Nat.testBit_div_two_pow, Nat.testBit_div_two_pow, BitVec.testBit_toNat,
        show i.val - pos - len + len + pos = i.val by omega]

/-! ## The forms of BITS (R134) -/

section Forms

variable (r : RArgs)

theorem writesS_clz : WritesS (.bitsClz r) 8 r.d (bitsR 0 r) :=
  writesS_bitsR (fun _ => rfl) fun a _ _ => by rw [fnClz, BitVec.ofInt_natCast, clz_eq]; rfl

theorem writesS_ctz : WritesS (.bitsCtz r) 8 r.d (bitsR 1 r) :=
  writesS_bitsR (fun _ => rfl) fun a _ _ => by rw [fnCtz, BitVec.ofInt_natCast, ctz_eq]; rfl

theorem writesS_popc : WritesS (.bitsPopc r) 8 r.d (bitsR 2 r) :=
  writesS_bitsR (fun _ => rfl) fun a _ _ => by rw [fnPopc, BitVec.ofInt_natCast, popc_eq]; rfl

theorem writesS_brev : WritesS (.bitsBrev r) 8 r.d (bitsR 3 r) :=
  writesS_bitsR (fun _ => rfl) fun a _ _ => by rw [fnBrev, BitVec.ofInt_natCast, brev_eq]; rfl

theorem writesS_bswap : WritesS (.bitsBswap r) 8 r.d (bitsR 4 r) :=
  writesS_bitsR (fun _ => rfl) fun a _ _ => by rw [fnBswap, BitVec.ofInt_natCast, bswap_eq (eight_dvd_widthOf r.ty)]; rfl

theorem writesS_sext : WritesS (.bitsSext r) 8 r.d (bitsR 5 r) :=
  writesS_bitsR (fun _ => rfl) fun a _ _ => by rw [fnSext, toSigned_low]; rfl

theorem writesS_zext : WritesS (.bitsZext r) 8 r.d (bitsR 6 r) :=
  writesS_bitsR (fun _ => rfl) fun a b c => by
    have hn : fnZext (bitsLen r) (widthOf r.ty) a.toNat b.toNat c.toNat = (a.toNat % 2 ^ bitsLen r : Nat) := by
      unfold fnZext; norm_cast
    rw [hn, BitVec.ofInt_natCast]; rfl

theorem writesS_bfx : WritesS (.bitsBfx r) 8 r.d (bitsR 7 r) :=
  writesS_bitsR (fun _ => rfl) fun a b c => by
    have hn : fnBfx (bitsPos r) (bitsLen r) (widthOf r.ty) a.toNat b.toNat c.toNat =
        (a.toNat / 2 ^ bitsPos r % 2 ^ bitsLen r : Nat) := by
      unfold fnBfx; norm_cast
    rw [hn, BitVec.ofInt_natCast]; rfl

theorem writesS_bfi : WritesS (.bitsBfi r) 8 r.d (bitsR 8 r) := writesS_bitsR (fun _ => rfl) fun a b c => bfi_eq _ _ c.toNat a b

end Forms

/-! ## Reserved fields and unassigned FN values of BITS -/

theorem bitsPlain_reserved {r : RArgs} (h : r.x16 ≠ 0 ∨ r.b ≠ 0) : bitsPlain r = some ⟨.reservedField, 0⟩ := by
  refine firstErr_rsv (bs := [decide (1 < r.ty), nz r.b, nz r.c, nz r.msk, nz r.rm, nz r.x16]) ?_
  simp only [List.mem_cons, List.not_mem_nil, nz, Bool.true_eq, decide_eq_true_eq]
  tauto

/-- A field that does not lie within the width, and the bits of X16 and the operands that a form does not use. -/
theorem bitsField_reserved {r : RArgs} {usePos useB : Bool}
    (h : ¬FieldFits r ∨ r.x16 / 8192 ≠ 0 ∨ (usePos = false ∧ r.x16 % 64 ≠ 0) ∨ (useB = false ∧ r.b ≠ 0)) :
    bitsField r usePos useB = some ⟨.reservedField, 0⟩ := by
  refine firstErr_rsv (bs := [decide (1 < r.ty), !useB && nz r.b, nz r.c, nz r.msk, nz r.rm, nz (r.x16 / 8192),
    decide (r.x16 / 64 % 128 = 0), decide (widthOf r.ty < r.x16 / 64 % 128), !usePos && nz (r.x16 % 64),
    decide (widthOf r.ty < r.x16 % 64 + r.x16 / 64 % 128)]) ?_
  have hfit : ¬FieldFits r ↔ r.x16 / 64 % 128 = 0 ∨ widthOf r.ty < r.x16 % 64 + r.x16 / 64 % 128 := by
    rw [FieldFits]; omega
  rw [hfit] at h
  simp only [List.mem_cons, List.not_mem_nil, nz, Bool.true_eq, Bool.and_eq_true, Bool.not_eq_true', decide_eq_true_eq]
  tauto

theorem bitsPlain_fieldFault (r : RArgs) :
    ∀ i ∈ [Instr.bitsClz r, .bitsCtz r, .bitsPopc r, .bitsBrev r, .bitsBswap r], i.fieldFault = bitsPlain r :=
  List.forall_iff_forall_mem.1 ⟨rfl, rfl, rfl, rfl, rfl⟩

/-- BITS lists FN 0 to 8 only (R134). -/
theorem illegal_bits {fn : Nat} (h : 9 ≤ fn) : Illegal 0 0 7 fn := by
  obtain ⟨k, rfl⟩ := Nat.exists_eq_add_of_le' h
  exact illegal_of_mapA8 (by decide) fun _ _ _ _ => rfl

theorem bitsResults : BitsResults := by
  unfold BitsResults
  refine ⟨fun r => ⟨⟨writesS_clz r, writesS_ctz r, writesS_popc r, writesS_brev r, writesS_bswap r⟩,
    fun _ => ⟨writesS_sext r, writesS_zext r, writesS_bfx r, writesS_bfi r⟩, fun h => ?field, fun h => ?position,
    fun h i hi => ?plainX, fun h => ?operandB⟩, fun _ => illegal_bits⟩
  case field =>
    have hr (usePos useB : Bool) : bitsField r usePos useB = some ⟨.reservedField, 0⟩ :=
      bitsField_reserved (h.imp_right fun hx => .inl (by omega))
    exact List.forall_iff_forall_mem.1 ⟨hr false false, hr false false, hr true false, hr true true⟩
  case position =>
    have hr : bitsField r false false = some ⟨.reservedField, 0⟩ := bitsField_reserved (.inr (.inr (.inl ⟨rfl, h⟩)))
    exact ⟨hr, hr⟩
  case plainX => exact (bitsPlain_fieldFault r i hi).trans (bitsPlain_reserved (.inl h))
  case operandB =>
    have hp : bitsPlain r = some ⟨.reservedField, 0⟩ := bitsPlain_reserved (.inr h)
    have hr (usePos : Bool) : bitsField r usePos false = some ⟨.reservedField, 0⟩ :=
      bitsField_reserved (.inr (.inr (.inr ⟨rfl, h⟩)))
    exact List.forall_iff_forall_mem.1 ⟨hp, hp, hp, hp, hp, hr false, hr false, hr true⟩

/-! ## LANE (R137) -/

theorem laneLframeVal_eq (l : Nat) :
    laneLframeVal l = fun s => ((s.thr.lanes[l]?).map fun x => s.ctx.framebase + BitVec.ofNat 64 x.task.frame).getD 0 :=
  funext fun s => by unfold laneLframeVal; cases s.thr.lanes[l]? <;> rfl

theorem laneLkeyVal_eq (l : Nat) : laneLkeyVal l = fun s => ((s.thr.lanes[l]?).map fun x => BitVec.ofNat 64 x.task.key).getD 0 :=
  funext fun s => by unfold laneLkeyVal; cases s.thr.lanes[l]? <;> rfl

theorem writesS_lframe (r : RArgs) : WritesS (.laneLframe r) 8 r.d fun s =>
    ((s.thr.lanes[r.x16 % 32]?).map fun l => s.ctx.framebase + BitVec.ofNat 64 l.task.frame).getD 0 :=
  laneLframeVal_eq (r.x16 % 32) ▸ writesS_of_scalarOp fun _ => rfl

theorem writesS_lkey (r : RArgs) :
    WritesS (.laneLkey r) 8 r.d fun s => ((s.thr.lanes[r.x16 % 32]?).map fun l => BitVec.ofNat 64 l.task.key).getD 0 :=
  laneLkeyVal_eq (r.x16 % 32) ▸ writesS_of_scalarOp fun _ => rfl

/-- LANE uses X16 alone, and of it the lane number where it reads a lane's. -/
theorem laneR_reserved {r : RArgs} {useL : Bool}
    (h : r.a ≠ 0 ∨ r.b ≠ 0 ∨ r.c ≠ 0 ∨ r.ty ≠ 0 ∨ r.rm ≠ 0 ∨ r.msk ≠ 0 ∨ (if useL then r.x16 / 32 else r.x16) ≠ 0) :
    laneR r useL = some ⟨.reservedField, 0⟩ := by
  refine firstErr_rsv (bs := [nz r.a, nz r.b, nz r.c, nz r.ty, nz r.rm, nz r.msk, if useL then nz (r.x16 / 32) else nz r.x16]) ?_
  rw [← apply_ite nz]
  simp only [List.mem_cons, List.not_mem_nil, nz, Bool.true_eq, decide_eq_true_eq]
  tauto

/-- LANE lists FN 0 to 5 only (R137). -/
theorem illegal_lane {fn : Nat} (h : 6 ≤ fn) : Illegal 0 0 10 fn := by
  obtain ⟨k, rfl⟩ := Nat.exists_eq_add_of_le' h
  exact illegal_of_mapA8 (by decide) fun _ _ _ _ => rfl

theorem laneResults : LaneResults := by
  unfold LaneResults
  refine ⟨fun r => ⟨writesS_of_scalarOp fun _ => rfl, writesS_lframe r, writesS_lkey r, writesS_of_scalarOp fun _ => rfl,
    writesS_of_scalarOp fun _ => rfl, writesS_of_scalarOp fun _ => rfl, fun h => ?fields, fun h => ?noLane⟩,
    fun _ => illegal_lane⟩
  case fields =>
    have hr (useL : Bool) : laneR r useL = some ⟨.reservedField, 0⟩ := laneR_reserved (by split <;> omega)
    exact List.forall_iff_forall_mem.1 ⟨hr false, hr true, hr true, hr false, hr false, hr false⟩
  case noLane =>
    have hr : laneR r false = some ⟨.reservedField, 0⟩ := laneR_reserved (by simp [h])
    exact List.forall_iff_forall_mem.1 ⟨hr, hr, hr, hr⟩

/-! ## The statement -/

/-- Settles O3, from the results of BITS and the reads of LANE. -/
theorem bitsAndLanes : Obligations.BitsAndLanes := by
  unfold Obligations.BitsAndLanes
  exact ⟨bitsResults, laneResults⟩

end Sys2Proof.Machine
end

section
/-! SUPPORT. LINK (R167, R172, R173): the wait of a slot operation, the slots that UNBINDALL leaves, the descriptor and the masks of the slot
table as words; the statement about them. -/

namespace Sys2Proof.Machine

open Sys2Proof.Claims

/-! ## The wait for older slot operations of the E-stream (R167) -/

theorem noSlotWait_iff (s : State) : NoSlotWait s ↔ (s.thr.ePath.any fun a => isSlotOpE (s.einstAt a)) = false := by
  simp [NoSlotWait]

theorem slotWait_bind {s : State} (h : NoSlotWait s) {α : Type} (f : Unit → Res α) : (s.slotWait >>= f) = f () := by
  rw [State.slotWait, (noSlotWait_iff s).1 h]; rfl

theorem slotWait_of_older {s : State} (h : ¬NoSlotWait s) : s.slotWait = .error (.wait .other) := by
  rw [noSlotWait_iff, Bool.not_eq_false] at h
  rw [State.slotWait, h]; rfl

/-- An instruction of the A-stream that first waits as R167 says. -/
def SlotOp (i : Instr) (s : State) : Prop := ∃ len f, exec i s = finishA len s (s.slotWait >>= f)

theorem SlotOp.waits {i : Instr} {s : State} (hi : SlotOp i s) (h : ¬NoSlotWait s) (hf : Fresh s) :
    exec i s = .next (s.updThr fun t => { t with waitA := .other }) := by
  obtain ⟨len, f, hi⟩ := hi
  have stop : (s.slotWait >>= f) = .error (.wait .other) := by rw [slotWait_of_older h]; rfl
  rw [hi, stop, finishA_error, finishTo_wait, hf]; rfl

theorem slotOps (fn : Nat) (r : RArgs) (x : XArgs) (s : State) :
    ∀ i ∈ [Instr.bind fn r, .bindImm fn x, .binde fn r, .linkUnbind r, .linkUnbindall r, .linkLinkrd r, .linkLinkstat r], SlotOp i s :=
  List.forall_iff_forall_mem.1 ⟨⟨8, _, rfl⟩, ⟨12, _, rfl⟩, ⟨8, _, rfl⟩, ⟨8, _, rfl⟩, ⟨8, _, rfl⟩, ⟨8, _, rfl⟩, ⟨8, _, rfl⟩⟩

/-! ## UNBIND and UNBINDALL (R172) -/

theorem checkStream_ok {t : Thread} {ek : Bool} {slot : Nat} (h : ∀ l, t.getL slot = some l → l.ek = ek) :
    t.checkStream ek slot = .ok () := by
  unfold Thread.checkStream
  split
  next l hl => simp [h l hl]
  next => rfl

theorem checkStream_refuses {t : Thread} {ek : Bool} {slot : Nat} {l : Link} (hl : t.getL slot = some l) (h : l.ek ≠ ek) :
    t.checkStream ek slot = .error (.trap ⟨.linkStream, 0, slot⟩) := by
  simp [Thread.checkStream, hl, h]

theorem exec_linkUnbind {s : State} (r : RArgs) (h : NoSlotWait s) : exec (.linkUnbind r) s =
    finishA 8 s (s.thr.checkStream false (r.x16 % 32) >>= fun _ => .ok (s.setThr (s.thr.setL (r.x16 % 32) none))) :=
  congrArg (finishA 8 s) (slotWait_bind h _)

theorem exec_linkUnbindall {s : State} (r : RArgs) (h : NoSlotWait s) :
    exec (.linkUnbindall r) s = .next (doneA s 8 (s.setThr (s.thr.unbindAll false))) :=
  congrArg (finishA 8 s) (slotWait_bind h _)

theorem getL_unbindAll (t : Thread) (ek : Bool) {n : Nat} (h : n < 32) : (t.unbindAll ek).getL n = emptied t ek n := by
  have hn : t.l[n]? = some (t.getL n) := by rw [Thread.getL, Vector.getElem?_eq_getElem h]; rfl
  rw [Thread.getL, Thread.unbindAll, Vector.getElem?_map, hn]; rfl

/-! ## Descriptors as words (R173) -/

/-- A number of `k` bits below a multiple of `2 ^ k`. -/
theorem ofNat_add_low {w : Nat} (k : Nat) {x n : Nat} (hx : 2 ^ k ∣ x) (hn : n < 2 ^ k) :
    BitVec.ofNat w (x + n) = BitVec.ofNat w x ||| BitVec.ofNat w n := by
  obtain ⟨q, rfl⟩ := hx
  rw [Nat.two_pow_add_eq_or_of_lt hn, BitVec.ofNat_or]

theorem ofNat_mul_two_pow (w n k : Nat) : BitVec.ofNat w (n * 2 ^ k) = BitVec.ofNat w n <<< k :=
  BitVec.eq_of_toNat_eq (by simp [Nat.shiftLeft_eq])

theorem b2n_le_one (b : Bool) : b2n b ≤ 1 := by cases b <;> decide

/-- A flag as it stands in a descriptor. -/
theorem ofNat_b2n_shiftLeft (w : Nat) (b : Bool) (k : Nat) :
    BitVec.ofNat w (b2n b) <<< k = ((if b then 1 <<< k else 0 : Nat) : BitVec w) := by
  cases b with
  | false => exact BitVec.zero_shiftLeft k
  | true => rw [← ofNat_mul_two_pow, if_pos rfl, Nat.shiftLeft_eq]; rfl

/-- The fields of a descriptor do not overlap, so that their sum is their disjunction. -/
theorem ofNat_linkDescr {l : Link} (h : LinkFits l) : BitVec.ofNat 64 (linkDescr (some l)) = descriptor l := by
  obtain ⟨hopb, hsh, hc, ha, hd, hop⟩ := h
  have himm := b2n_le_one l.imm
  have hck := b2n_le_one l.ck
  have hek := b2n_le_one l.ek
  have hedge := b2n_le_one l.edge
  have hsum : linkDescr (some l) = l.opb * 2 ^ 32 + l.sh * 2 ^ 26 + l.c * 2 ^ 20 + l.a * 2 ^ 14 + l.d * 2 ^ 8 + b2n l.imm * 2 ^ 7 +
      b2n l.ck * 2 ^ 6 + b2n l.ek * 2 ^ 5 + b2n l.edge * 2 ^ 4 + l.op := rfl
  rw [hsum, ofNat_add_low 4, ofNat_add_low 5, ofNat_add_low 6, ofNat_add_low 7, ofNat_add_low 8, ofNat_add_low 14, ofNat_add_low 20,
    ofNat_add_low 26, ofNat_add_low 32]
  on_goal 1 => simp only [ofNat_mul_two_pow, ofNat_b2n_shiftLeft, descriptor]
  all_goals omega

theorem linkrdVal_eq {r : RArgs} {s : State} (h : ∀ l, s.thr.getL (r.x16 % 32) = some l → LinkFits l) :
    linkrdVal r s = slotValue s.thr (r.x16 % 32) := by
  unfold linkrdVal slotValue slotOf
  split
  next l hl => rw [hl, ofNat_linkDescr (h l hl)]
  next hl => rw [hl]; rfl

/-! ## Masks of slots (R172) -/

/-- The number whose bits below `n` are those of `p`. -/
def bitsBelow (p : Nat → Bool) (n : Nat) : Nat := (List.range n).foldl (fun acc k => if p k then acc + 2 ^ k else acc) 0

theorem bitsBelow_succ (p : Nat → Bool) (n : Nat) : bitsBelow p (n + 1) = 2 ^ n * (p n).toNat + bitsBelow p n := by
  simp only [bitsBelow, List.range_succ, List.foldl_append, List.foldl_cons, List.foldl_nil]
  cases p n <;> simp [Nat.add_comm]

theorem bitsBelow_lt (p : Nat → Bool) (n : Nat) : bitsBelow p n < 2 ^ n := by
  induction n with
  | zero => exact Nat.one_pos
  | succ n ih =>
    have hbit : 2 ^ n * (p n).toNat ≤ 2 ^ n * 1 := Nat.mul_le_mul_left _ (Bool.toNat_le _)
    rw [bitsBelow_succ, Nat.pow_succ]; omega

theorem testBit_bitsBelow (p : Nat → Bool) {n i : Nat} (hi : i < n) : (bitsBelow p n).testBit i = p i := by
  induction n with
  | zero => exact absurd hi (Nat.not_lt_zero i)
  | succ n ih =>
    rw [bitsBelow_succ, Nat.testBit_two_pow_mul_add _ (bitsBelow_lt p n)]
    split
    next hlow => exact ih hlow
    next htop =>
      obtain rfl : i = n := by omega
      rw [Nat.sub_self]; cases p i <;> rfl

/-- Whether a slot counts in a mask: it holds a link, of the E-kind where only those count. -/
def Thread.inMask (t : Thread) (ekOnly : Bool) (n : Nat) : Bool := (t.getL n).any fun l => !ekOnly || l.ek

theorem slotMask_eq (t : Thread) (ekOnly : Bool) : t.slotMask ekOnly = bitsBelow (t.inMask ekOnly) 32 := by
  unfold Thread.slotMask bitsBelow Thread.inMask
  congr 1
  funext acc n
  cases t.getL n with
  | none => rfl
  | some l =>
    show (if ekOnly && !l.ek then acc else acc + 2 ^ n) = if !ekOnly || l.ek then acc + 2 ^ n else acc
    cases ekOnly <;> cases l.ek <;> rfl

theorem linkstatVal_eq (s : State) : linkstatVal s = statValue s.thr := by
  refine ofNat_eq_ofFnLE fun i => ?_
  rw [slotMask_eq, slotMask_eq, Nat.add_comm, Nat.testBit_two_pow_mul_add _ (bitsBelow_lt _ _)]
  split
  next hlow => rw [testBit_bitsBelow _ hlow]; cases h : s.thr.getL i.val <;> simp [Thread.inMask, h]
  next htop => rw [testBit_bitsBelow _ (by omega)]; cases h : s.thr.getL (i.val - 32) <;> simp [Thread.inMask, h]

/-! ## LINKRD and LINKSTAT (R172) -/

/-- What `writesS_of_scalarOp` says of every state, in one: a slot operation comes to its write only in states without the wait. -/
theorem writesAt_of_scalarOp {i : Instr} {len d : Nat} {x : State → W64} {s : State} (h : exec i s = finishA len s (scalarOp d x s)) :
    WritesAt i len d (x s) s := by
  unfold WritesAt
  simp only [h, scalarOp, State.writeS]
  refine ⟨fun t hc hw => ?_, fun n hd hl => ?_, fun e hc hw => ?_⟩
  · rw [hc, hw]; rfl
  · rw [Thread.checkDest, if_neg hd, hl]; rfl
  · rw [hc, hw]; rfl

theorem linkLinkrd_writesAt {r : RArgs} {s : State} (h : NoSlotWait s) : WritesAt (.linkLinkrd r) 8 r.d (linkrdVal r s) s :=
  writesAt_of_scalarOp (congrArg (finishA 8 s) (slotWait_bind h _))

theorem linkLinkstat_writesAt {r : RArgs} {s : State} (h : NoSlotWait s) : WritesAt (.linkLinkstat r) 8 r.d (statValue s.thr) s :=
  linkstatVal_eq s ▸ writesAt_of_scalarOp (congrArg (finishA 8 s) (slotWait_bind h _))

/-! ## The statement -/

/-- LINK lists FN 0 to 3 only (R172). -/
theorem illegal_link {fn : Nat} (h : 4 ≤ fn) : Illegal 0 0 26 fn := by
  obtain ⟨k, rfl⟩ := Nat.exists_eq_add_of_le' h
  exact illegal_of_mapA8 (by decide) fun _ _ _ _ => rfl

/-- Settles O7: past the wait of R167 each form has its effect; the descriptor and the masks are the words of the statement. -/
theorem linkTable : Obligations.LinkTable := by
  unfold Obligations.LinkTable
  refine ⟨fun r s hs hk => ?unbind, fun r s l hs hl hk => ?stream, fun r s hs => ?unbindall, fun r s t hs hf => ?linkrd,
    fun r s t hs => ?linkstat, fun r s e hs hf => ?linkrdOverflow, fun r s e hs => ?linkstatOverflow, fun r s n hs hd hl => ?bound,
    fun _ => illegal_link, fun r s fn x hs hf i hi => (slotOps fn r x s i hi).waits hs hf⟩
  case unbind => rw [exec_linkUnbind r hs, checkStream_ok hk]; rfl
  case stream => rw [exec_linkUnbind r hs, checkStream_refuses hl (by simp [hk])]; rfl
  case unbindall => exact ⟨_, exec_linkUnbindall r hs, rfl, fun n hn => getL_unbindAll s.thr false hn⟩
  case linkrd =>
    obtain ⟨written, -, -⟩ := linkLinkrd_writesAt (r := r) hs
    exact linkrdVal_eq hf ▸ written t
  case linkstat =>
    obtain ⟨written, -, -⟩ := linkLinkstat_writesAt (r := r) hs
    exact written t
  case linkrdOverflow =>
    obtain ⟨-, -, overflow⟩ := linkLinkrd_writesAt (r := r) hs
    exact linkrdVal_eq hf ▸ overflow e
  case linkstatOverflow =>
    obtain ⟨-, -, overflow⟩ := linkLinkstat_writesAt (r := r) hs
    exact overflow e
  case bound =>
    obtain ⟨-, boundRd, -⟩ := linkLinkrd_writesAt (r := r) hs
    obtain ⟨-, boundStat, -⟩ := linkLinkstat_writesAt (r := r) hs
    exact ⟨boundRd n hd hl, boundStat n hd hl⟩

end Sys2Proof.Machine
end
